-- ==== Sys2Proof/Word.lean ====
section
/-! DEFINITION. The word types of the model: a lane value, a register and a memory word are 64 bits (R71, R42). -/

namespace Sys2Proof

/-- A 64-bit word: a lane value, an instruction word, a register. -/
abbrev Word := BitVec 64

/-- One byte of memory. -/
abbrev Byte := BitVec 8

end Sys2Proof
end

