-- ==== Sys2Proof/Syntax.lean ====
section
/-! DEFINITION. The syntax: every row of spec/opcode_table.json is one constructor of `Instr`. An instruction row
carries the fields of its 64-bit word (R47). An event row is a name: the tile, die or queue it happens at, and the data
that comes from outside the module, stand in the machine's state, as the operands of a fired instruction do. -/

namespace Sys2Proof

/-- The operand types of R48, in the order of their codes. -/
inductive Ty where
  | b64 | i8 | i16 | i32 | i64 | n8 | n16 | n32 | n64 | f16 | bf16 | f32 | f64 | h | p | va
deriving DecidableEq, Repr

/-- A destination with V = 1 (R47, R50): an instruction index and a port. -/
structure Dest where
  ix   : BitVec 7
  port : BitVec 2
deriving DecidableEq, Repr

/-- The fields of an instruction word below its opcode (R47). An empty destination is `none`. -/
structure Fields where
  sub : BitVec 4
  ty  : Ty
  ar  : BitVec 2
  kc  : Bool
  sl  : BitVec 7
  ck  : BitVec 6
  d0  : Option Dest
  d1  : Option Dest
  x   : BitVec 12
deriving DecidableEq, Repr

/-- One constructor per row of spec/opcode_table.json, the instruction rows first, each in the order of the table. -/
inductive Instr where
  /-- DROP (R123): Consumes its token and emits nothing. -/
  | drop (f : Fields)
  /-- DUP (R124): Emits its operand to up to three destinations. -/
  | dup (f : Fields)
  /-- SWITCH (R125): Steers each data lane to D0 or D1 by its predicate. -/
  | switch (f : Fields)
  /-- SELECT (R125): Passes on the chosen arm per lane and winnows the other. -/
  | select (f : Fields)
  /-- GATE (R126): Emits a once b has arrived. -/
  | gate (f : Fields)
  /-- MERGE (R127): Passes on the first of two operands and discards the second. -/
  | merge (f : Fields)
  /-- SEND_LINK (R128): Sends a to the frame port named by link b. -/
  | sendLink (f : Fields)
  /-- SEND_RET (R128): Sends a to the frame's RET link. -/
  | sendRet (f : Fields)
  /-- ENTER (R129): Creates a frame of the entry block and delivers its arguments. -/
  | enter (f : Fields)
  /-- EXIT (R130): Sends a to RET and ends the firing's lanes. -/
  | exit (f : Fields)
  /-- ITER (R131): Creates the next iteration's frame of the current block. -/
  | iter (f : Fields)
  /-- LOOPN (R132): Creates N frames of the entry block per lane, one request at a time. -/
  | loopn (f : Fields)
  /-- FREE (R133): Ends the current frame at once. -/
  | free (f : Fields)
  /-- CONST (R134): Emits a constant word. -/
  | const (f : Fields)
  /-- CONST_SELF (R134): Emits a link to this frame. -/
  | constSelf (f : Fields)
  /-- ARG (R135): Loads a word of each active lane's argument record. -/
  | arg (f : Fields)
  /-- KSET (R136): Stages a value into a constant for the next transition. -/
  | kset (f : Fields)
  /-- DONE (R137): Ends the firing's lanes and decrements ISC. -/
  | done (f : Fields)
  /-- CFGNEXT (R138): Arms a transition to the next configuration, or ends the run. -/
  | cfgnext (f : Fields)
  /-- CFGLOAD (R138): Arms a transition to configuration c. -/
  | cfgload (f : Fields)
  /-- ADD (R146): Integer add modulo 2^w. -/
  | add (f : Fields)
  /-- SUB (R146): Integer subtract modulo 2^w. -/
  | sub (f : Fields)
  /-- MUL (R146): Low half of the integer product. -/
  | mul (f : Fields)
  /-- MULH (R146): High half of the integer product. -/
  | mulh (f : Fields)
  /-- MAD (R146): Integer multiply-add. -/
  | mad (f : Fields)
  /-- DIV (R147): Integer divide, faulting or deferring on zero. -/
  | div (f : Fields)
  /-- REM (R147): Integer remainder, faulting or deferring on zero. -/
  | rem (f : Fields)
  /-- MIN (R148): Integer minimum. -/
  | min (f : Fields)
  /-- MAX (R148): Integer maximum. -/
  | max (f : Fields)
  /-- ABS (R148): Integer absolute value. -/
  | abs (f : Fields)
  /-- NEG (R148): Integer negation. -/
  | neg (f : Fields)
  /-- ADDX (R149): Add or subtract with carry, borrow or saturation flag. -/
  | addx (f : Fields)
  /-- LEA (R150): Computes a scaled address. -/
  | lea (f : Fields)
  /-- CLZ (R151): Counts leading zeros. -/
  | clz (f : Fields)
  /-- POPC (R151): Counts one bits. -/
  | popc (f : Fields)
  /-- BREV (R151): Reverses bits. -/
  | brev (f : Fields)
  /-- AND (R152): Bitwise AND. -/
  | and (f : Fields)
  /-- OR (R152): Bitwise OR. -/
  | or (f : Fields)
  /-- XOR (R152): Bitwise XOR. -/
  | xor (f : Fields)
  /-- NOT (R152): Bitwise NOT. -/
  | not (f : Fields)
  /-- SHL (R153): Shift left. -/
  | shl (f : Fields)
  /-- SHR (R153): Logical shift right. -/
  | shr (f : Fields)
  /-- SHA (R153): Arithmetic shift right. -/
  | sha (f : Fields)
  /-- ROT (R153): Rotate left or right. -/
  | rot (f : Fields)
  /-- BFX (R154): Extracts a bit field. -/
  | bfx (f : Fields)
  /-- BFI (R154): Inserts a bit field. -/
  | bfi (f : Fields)
  /-- CMP (R155): Integer compare giving a predicate. -/
  | cmp (f : Fields)
  /-- FCMP (R155): Floating compare giving a predicate. -/
  | fcmp (f : Fields)
  /-- PLOG (R156): Three-input predicate truth table. -/
  | plog (f : Fields)
  /-- FADD (R157): Floating add, rounded once. -/
  | fadd (f : Fields)
  /-- FSUB (R157): Floating subtract, rounded once. -/
  | fsub (f : Fields)
  /-- FMUL (R157): Floating multiply, rounded once. -/
  | fmul (f : Fields)
  /-- FFMA (R157): Fused multiply-add. -/
  | ffma (f : Fields)
  /-- FMIN (R158): Floating minimum. -/
  | fmin (f : Fields)
  /-- FMAX (R158): Floating maximum. -/
  | fmax (f : Fields)
  /-- FABS (R158): Clears the sign bit. -/
  | fabs (f : Fields)
  /-- FNEG (R158): Inverts the sign bit. -/
  | fneg (f : Fields)
  /-- RCPA (R160): Reciprocal approximation to 12 bits. -/
  | rcpa (f : Fields)
  /-- RSQA (R160): Reciprocal square root approximation to 12 bits. -/
  | rsqa (f : Fields)
  /-- RCPR (R161): Newton refinement of a reciprocal. -/
  | rcpr (f : Fields)
  /-- RSQR (R161): Newton refinement of a reciprocal square root. -/
  | rsqr (f : Fields)
  /-- EXPA (R160): 2^x approximation to 12 bits. -/
  | expa (f : Fields)
  /-- LOGA (R160): log2 approximation to 12 bits. -/
  | loga (f : Fields)
  /-- FSQRT (R159): Correctly rounded square root. -/
  | fsqrt (f : Fields)
  /-- FDIV (R159): Correctly rounded division. -/
  | fdiv (f : Fields)
  /-- CVTII (R163): Integer to integer conversion. -/
  | cvtii (f : Fields)
  /-- CVTIF (R163): Integer to float conversion. -/
  | cvtif (f : Fields)
  /-- CVTFI (R163): Float to integer conversion with saturation. -/
  | cvtfi (f : Fields)
  /-- CVTFF (R164): Float to float conversion, including stochastic rounding. -/
  | cvtff (f : Fields)
  /-- PACKN (R165): Converts and packs two narrow elements. -/
  | packn (f : Fields)
  /-- UNPKN (R165): Unpacks one narrow element. -/
  | unpkn (f : Fields)
  /-- RUNRED (R167): Reduces a run to a scalar. -/
  | runred (f : Fields)
  /-- RUNSCAN (R167): Prefix-scans a run. -/
  | runscan (f : Fields)
  /-- RUNSHF (R168): Shifts or rotates values within a run. -/
  | runshf (f : Fields)
  /-- RUNBC (R169): Broadcasts one lane of a run. -/
  | runbc (f : Fields)
  /-- LANE (R170): Emits lane index, iteration number or count. -/
  | lane (f : Fields)
  /-- TALLOC (R191): Allocates a root buffer. -/
  | talloc (f : Fields)
  /-- TREL (R192): Releases a handle reference. -/
  | trel (f : Fields)
  /-- TREF (R193): Returns a buffer's reference count. -/
  | tref (f : Fields)
  /-- TGIVE (R194): Passes a buffer to another holder frame. -/
  | tgive (f : Fields)
  /-- TVIEW (R195): Makes a view of a sub-rectangle. -/
  | tview (f : Fields)
  /-- TDESC_RD (R196): Returns a buffer's shape template. -/
  | tdescRd (f : Fields)
  /-- TDESC_LINK (R196): Links a scale panel to an element buffer. -/
  | tdescLink (f : Fields)
  /-- TLOOK (R197): Looks a key up in the tag table. -/
  | tlook (f : Fields)
  /-- TTAG (R198): Places a handle under a key in a tag-table slot. -/
  | ttag (f : Fields)
  /-- TUNTAG (R199): Empties a tag-table slot. -/
  | tuntag (f : Fields)
  /-- TGET (R200): Reads one buffer element. -/
  | tget (f : Fields)
  /-- TSET (R200): Writes one buffer element. -/
  | tset (f : Fields)
  /-- TFILL (R200): Fills every element of a buffer. -/
  | tfill (f : Fields)
  /-- TADD (R209): Element-wise tile add. -/
  | tadd (f : Fields)
  /-- TSUB (R209): Element-wise tile subtract. -/
  | tsub (f : Fields)
  /-- TMUL (R209): Element-wise tile multiply. -/
  | tmul (f : Fields)
  /-- TFMA (R209): Element-wise fused multiply-add. -/
  | tfma (f : Fields)
  /-- TSCAL (R209): Scales a tile by a scalar. -/
  | tscal (f : Fields)
  /-- TMINMAX (R209): Element-wise minimum or maximum. -/
  | tminmax (f : Fields)
  /-- TACT (R210): Applies an activation function. -/
  | tact (f : Fields)
  /-- TRED (R211): Reduces rows or columns of a tile. -/
  | tred (f : Fields)
  /-- TCVT (R212): Converts a tile to another format. -/
  | tcvt (f : Fields)
  /-- TCHAIN (R213): Runs a chain of step words on each element. -/
  | tchain (f : Fields)
  /-- BENSET (R214): Sets a permutation bank. -/
  | benset (f : Fields)
  /-- TPERM (R215): Permutes columns through a bank. -/
  | tperm (f : Fields)
  /-- TCMP (R216): Element-wise compare to a mask. -/
  | tcmp (f : Fields)
  /-- TMSEL (R217): Masked element select. -/
  | tmsel (f : Fields)
  /-- SOPSET (R226): Configures a stream handler. -/
  | sopset (f : Fields)
  /-- SOPGO (R227): Sends a count word to a handler's channel. -/
  | sopgo (f : Fields)
  /-- SOPMASK_OFF (R228): Masks a handler. -/
  | sopmaskOff (f : Fields)
  /-- SOPMASK_ON (R228): Unmasks a handler. -/
  | sopmaskOn (f : Fields)
  /-- SOPPRI (R228): Sets a handler's priority. -/
  | soppri (f : Fields)
  /-- MMA (R246): Matrix multiply-accumulate. -/
  | mma (f : Fields)
  /-- MMAS (R246): Block-scaled matrix multiply-accumulate. -/
  | mmas (f : Fields)
  /-- MMAC (R246): Complex matrix multiply-accumulate. -/
  | mmac (f : Fields)
  /-- MMSR (R246): Semiring matrix operation. -/
  | mmsr (f : Fields)
  /-- ACCLD (R247): Loads an accumulator bank from a buffer. -/
  | accld (f : Fields)
  /-- ACCST (R248): Stores an accumulator window to a buffer. -/
  | accst (f : Fields)
  /-- CBSET (R249): Writes the shadow CB4 table. -/
  | cbset (f : Fields)
  /-- CBSWAP (R249): Exchanges current and shadow CB4 tables. -/
  | cbswap (f : Fields)
  /-- MMPRG (R250): Returns MXOPc of the requesting context. -/
  | mmprg (f : Fields)
  /-- MMCFG (R251): Sets the error-completion mode of a context. -/
  | mmcfg (f : Fields)
  /-- LD (R289): Loads lane values from memory. -/
  | ld (f : Fields)
  /-- ST (R289): Stores lane values to memory. -/
  | st (f : Fields)
  /-- LDT (R285): Loads a whole buffer from memory. -/
  | ldt (f : Fields)
  /-- STT (R285): Stores a whole buffer to memory. -/
  | stt (f : Fields)
  /-- LDG (R285): Gathers buffer rows from indexed addresses. -/
  | ldg (f : Fields)
  /-- STG (R285): Scatters buffer rows to indexed addresses. -/
  | stg (f : Fields)
  /-- REGION_OPEN (R281): Claims a stream slot and starts read-ahead. -/
  | regionOpen (f : Fields)
  /-- REGION_CLOSE (R282): Closes a streaming region. -/
  | regionClose (f : Fields)
  /-- ORD (R287): Joins done tokens or marks a chain position. -/
  | ord (f : Fields)
  /-- CPY_IN (R295): Copies from memory into a buffer. -/
  | cpyIn (f : Fields)
  /-- CPY_OUT (R295): Copies from a buffer to memory. -/
  | cpyOut (f : Fields)
  /-- CPYM (R296): Copies a panel in and then runs one MMA. -/
  | cpym (f : Fields)
  /-- CPYWP (R297): Reads a channel's write pointer. -/
  | cpywp (f : Fields)
  /-- CPYWAIT (R297): Waits until WP reaches a target. -/
  | cpywait (f : Fields)
  /-- CPYCAN (R298): Cancels the context's copies on a channel. -/
  | cpycan (f : Fields)
  /-- AADD (R325): Atomic integer add. -/
  | aadd (f : Fields)
  /-- AFADD (R325): Atomic floating add. -/
  | afadd (f : Fields)
  /-- AMIN (R325): Atomic minimum. -/
  | amin (f : Fields)
  /-- AMAX (R325): Atomic maximum. -/
  | amax (f : Fields)
  /-- ALOG (R325): Atomic AND, OR or XOR. -/
  | alog (f : Fields)
  /-- AXCH (R325): Atomic exchange. -/
  | axch (f : Fields)
  /-- ACAS (R325): Atomic compare and swap. -/
  | acas (f : Fields)
  /-- AINC (R325): Atomic bounded increment. -/
  | ainc (f : Fields)
  /-- ACASK (R328): Compare and swap that launches a continuation on success. -/
  | acask (f : Fields)
  /-- AADDK (R328): Atomic add that launches a continuation when the sum matches. -/
  | aaddk (f : Fields)
  /-- ITAKE (R336): Takes a full I-structure word and empties it. -/
  | itake (f : Fields)
  /-- IPUT (R336): Fills an empty I-structure word. -/
  | iput (f : Fields)
  /-- IREAD (R336): Reads a full I-structure word. -/
  | iread (f : Fields)
  /-- ICLR (R336): Empties an I-structure word's tag. -/
  | iclr (f : Fields)
  /-- ARED (R338): Contributes to an in-network reduction. -/
  | ared (f : Fields)
  /-- QPUSH (R361): Pushes a 64-byte entry to a queue. -/
  | qpush (f : Fields)
  /-- QPOP (R362): Pops a data queue entry into memory. -/
  | qpop (f : Fields)
  /-- QCNT (R363): Returns a queue's occupancy and state. -/
  | qcnt (f : Fields)
  /-- LAUNCH (R364): Pushes a job card to a launch queue. -/
  | launch (f : Fields)
  /-- BINIT (R366): Initialises a barrier. -/
  | binit (f : Fields)
  /-- ARRIVE (R366): Arrives at a barrier. -/
  | arrive (f : Fields)
  /-- BWAIT (R366): Waits until a barrier round has passed. -/
  | bwait (f : Fields)
  /-- CNTRD (R367): Reads a completion counter. -/
  | cntrd (f : Fields)
  /-- CANCEL (R368): Cancels an object of the work hierarchy. -/
  | cancel (f : Fields)
  /-- QCTL_FREEZE (R365): Freezes an open queue. -/
  | qctlFreeze (f : Fields)
  /-- QCTL_THAW (R365): Reopens a frozen queue. -/
  | qctlThaw (f : Fields)
  /-- QCTL_DRAIN (R365): Sets a queue draining. -/
  | qctlDrain (f : Fields)
  /-- QCTL_CLOSE (R365): Closes a queue and discards its entries. -/
  | qctlClose (f : Fields)
  /-- FENCE (R314): Enters the fence list to wait on its release set. -/
  | fence (f : Fields)
  /-- WAITC (R315): Enters the fence list to wait on counter limits. -/
  | waitc (f : Fields)
  /-- BIASREQ (R316): Requests a bias flip of a page. -/
  | biasreq (f : Fields)
  /-- PERFRD_TILE (R415): Reads a bandwidth counter or CLKNOW at the tile. -/
  | perfrdTile (f : Fields)
  /-- PERFRD_PC (R415): Reads a pseudo-channel counter for an address. -/
  | perfrdPc (f : Fields)
  /-- XRED_CFG (R432): Arms or frees an edge-adder group. -/
  | xredCfg (f : Fields)
  /-- XRED_ADD (R433): Contributes a buffer to an edge-adder round. -/
  | xredAdd (f : Fields)
  /-- TRAP_END (R383): Raises a software trap fault ending the unit. -/
  | trapEnd (f : Fields)
  /-- TRAP_LOG (R383): Delivers a logging fault record without ending anything. -/
  | trapLog (f : Fields)
  /-- SYSRD (R384): Reads a system register. -/
  | sysrd (f : Fields)
  /-- SYSWR (R384): Writes a system register. -/
  | syswr (f : Fields)
  /-- FREEZE (R385): Freezes a graph and reads its image out. -/
  | freeze (f : Fields)
  /-- THAW (R386): Places a frozen graph on regions and resumes it. -/
  | thaw (f : Fields)
  /-- MAPRD_WORD (R400): Reads one map word with its version. -/
  | maprdWord (f : Fields)
  /-- MAPRD_WAIT (R400): Waits for a map version newer than v. -/
  | maprdWait (f : Fields)
  /-- MAPACK (R401): Acknowledges a map version. -/
  | mapack (f : Fields)
  /-- SCANGO (R402): Starts a scan test of a drained tile. -/
  | scango (f : Fields)
  /-- SCANABT (R403): Aborts a tile's scan test. -/
  | scanabt (f : Fields)
  /-- LEASE_ACQ (R269): Takes explicit leases over a range. -/
  | leaseAcq (f : Fields)
  /-- LEASE_REL (R269): Gives back explicit leases over a range. -/
  | leaseRel (f : Fields)
  /-- RELOC_BIND (R270): Binds a graph image's regions to dies. -/
  | relocBind (f : Fields)
  /-- RELOC_UNBIND (R271): Unbinds a graph once no launch is outstanding. -/
  | relocUnbind (f : Fields)
  /-- TLBINV_RANGE (R272): Invalidates translations of a range. -/
  | tlbinvRange (f : Fields)
  /-- TLBINV_JOB (R272): Invalidates every translation of a job. -/
  | tlbinvJob (f : Fields)
  /-- TOKEN_ARRIVAL (R26): The matching store handles one arriving token, which parks its operand or fires lanes of the named instruction. -/
  | tokenArrival
  /-- HELD_FIRING_ENTER_QUEUE (R34): A fired instruction held at a full ready queue enters the queue when the queue has room, and token handling resumes. -/
  | heldFiringEnterQueue
  /-- READY_QUEUE_ISSUE (R36): A ready queue issues its oldest eligible entry of the highest priority, subject to the starvation guard. -/
  | readyQueueIssue
  /-- CHAIN_HOLD_RELEASE (R278): A chained firing in the chain-hold buffer becomes next and issues. -/
  | chainHoldRelease
  /-- LANE_RESULT_EMIT (R139): The result tokens of a lane firing leave the lane unit L clk after its last occupied clk. -/
  | laneResultEmit
  /-- FRAME_REQUEST_GRANT (R100): The oldest satisfiable head of the per-context allocation queues is granted a frame index and cells. -/
  | frameRequestGrant
  /-- FRAME_BECOMES_LIVE (R102): A granted frame becomes LIVE two clk after its grant, sets its ended-lane mask and fires its arity-0 instructions. -/
  | frameBecomesLive
  /-- FRAME_RETURN_FREE (R104): An ENDING frame whose four outstanding counters are zero returns its cells and its FI to the pool and becomes FREE. -/
  | frameReturnFree
  /-- CONFIG_TRANSITION (R110): When its conditions hold, a region releases entries and fetches, checks and writes the blocks of the new configuration. -/
  | configTransition
  /-- CONFIG_BLOCK_FETCHED (R113): A fetched block of a configuration load is checked under R55 and written, or the whole load fails. -/
  | configBlockFetched
  /-- CONFIG_LOAD_ENTRY_WAIT (R112): A configuration load that waits at a tile for free instruction-store entries proceeds when entries free. -/
  | configLoadEntryWait
  /-- KSET_STAGE_COMPLETE (R136): KSET emits its done once every tile of the region has staged the constant. -/
  | ksetStageComplete
  /-- HANDLE_INCREMENT_ACK (R122): The memory tile acknowledges a handle reference increment, and the copies of the handle are emitted. -/
  | handleIncrementAck
  /-- ENGINE_MESSAGE_ACCEPT (R35): An engine accepts an active message into its inbox and reserves its replies. -/
  | engineMessageAccept
  /-- TILE_ALLOC_GRANT (R179): The memory tile's allocation queue grants its satisfiable head a descriptor and granules. -/
  | tileAllocGrant
  /-- GRANULE_ZEROED (R180): A released granule is written to zero and returns to the free set. -/
  | granuleZeroed
  /-- ROW_UNIT_OPERATION_START (R203): The row unit begins its next operation in the clk after the previous operation emitted its outputs. -/
  | rowUnitOperationStart
  /-- ROW_UNIT_OPERATION_COMPLETE (R206): A row-unit operation finishes, releases its source handles and emits the destination handle and a done token. -/
  | rowUnitOperationComplete
  /-- HANDLER_COUNT_WORD (R219): A count word arriving on a handler's channel adds to PEND, clamped, or is discarded. -/
  | handlerCountWord
  /-- HANDLER_STEP (R219): The handler datapath selects a runnable handler and performs one step. -/
  | handlerStep
  /-- HANDLER_COMPLETE (R223): A handler whose last write has performed emits its completion, releases its handles and becomes FREE. -/
  | handlerComplete
  /-- SOPSET_WAIT_END (R226): A SOPSET waiting for a BUSY handler configures it once the handler becomes FREE. -/
  | sopsetWaitEnd
  /-- MATRIX_FEED_BEGIN (R238): The matrix array takes an accepted operation from its inbox and begins feeding it, clearing banks if CLR is set. -/
  | matrixFeedBegin
  /-- MATRIX_KSTEP_FEED (R236): The array feeds one k-step of an operation and advances PROG once every cell has performed it. -/
  | matrixKstepFeed
  /-- MATRIX_OPERATION_COMPLETE (R236): A matrix operation completes, marks poisoned banks, releases its operands and emits its status and done. -/
  | matrixOperationComplete
  /-- OPERAND_FETCH_FAULT (R240): An uncorrectable error in a k-step's operand fetch halts the operation, or completes it in error under ECM. -/
  | operandFetchFault
  /-- MATRIX_HALT_TIMEOUT (R240): MXHTO clk after a halt began, the halted operation is aborted. -/
  | matrixHaltTimeout
  /-- MXCTL_RESUME (R240): A write of RESUME to MXCTL, optionally with CLRP, refetches and continues the halted operation from k-step P. -/
  | mxctlResume
  /-- MXCTL_ABORT (R240): A write of ABORT to MXCTL aborts the halted operation and faults its unit. -/
  | mxctlAbort
  /-- MATRIX_FREEZE_STOP (R242): A freeze wave lets a matrix operation finish its current k-step and then drains it to STATE 7. -/
  | matrixFreezeStop
  /-- CBSET_WAIT_END (R243): A CBSET that waits for the shadow table to leave use writes it once the older operation has fed its last k-step. -/
  | cbsetWaitEnd
  /-- MEMORY_PORT_ISSUE (R273): The memory port issues one request of the oldest entry in its issue list that may issue. -/
  | memoryPortIssue
  /-- HOME_SLICE_PERFORM (R320): A home slice performs an arriving access or atomic on its word and sends the reply. -/
  | homeSlicePerform
  /-- MEMORY_REPLY_ARRIVE (R277): A memory reply reaches the port, lowers the frame counter and, after the last one, emits the node's outputs. -/
  | memoryReplyArrive
  /-- STREAM_READAHEAD_FETCH (R281): A stream slot fetches its next line within its window. -/
  | streamReadaheadFetch
  /-- STREAM_READAHEAD_REPLY (R283): A read-ahead reply fills a line of the slot, or marks it bad. -/
  | streamReadaheadReply
  /-- COPY_ACCEPT (R292): A copy channel accepts a copy, assigns START and END and emits END. -/
  | copyAccept
  /-- COPY_REQUEST_ISSUE (R293): The memory tile's network port issues one copy-channel request, round-robin among channels. -/
  | copyRequestIssue
  /-- COPY_REPLY_LAND (R292): A copy reply lands or performs, and WP advances over the prefix of arrived bytes. -/
  | copyReplyLand
  /-- CPYM_MMA_DELIVER (R296): Once a CPYM copy completes, the channel delivers the follow-on MMA to the matrix queue when it has room. -/
  | cpymMmaDeliver
  /-- FENCE_RELEASE (R314): A FENCE in the fence list emits done once every member of its release set has reached its completion point. -/
  | fenceRelease
  /-- WAITC_RELEASE (R315): A WAITC emits done in the first clk in which all four counters lie within their limits. -/
  | waitcRelease
  /-- BIAS_FLIP_COMPLETE (R316): Once translated accesses have drained and lines have been back-invalidated, a flip writes the bias and releases the held accesses. -/
  | biasFlipComplete
  /-- DEFERRED_CONTINUATION_RETRY (R329): When a shuttle entry frees, the oldest deferred ACASK or AADDK is evaluated again. -/
  | deferredContinuationRetry
  /-- SHUTTLE_DRAIN (R330): A shuttle entry reads its template, advances RSEQ and writes the continuation record. -/
  | shuttleDrain
  /-- SHUTTLE_PUSH (R330): Once its record has performed and the queue has room, a shuttle entry pushes the continuation card and frees itself. -/
  | shuttlePush
  /-- REQUEST_WITHDRAWAL (R337): A withdrawal reaching a slice removes a still-deferred request and replies with no effect. -/
  | requestWithdrawal
  /-- ISCFG_WRITE (R334): A write to ISCFG sets the I-structure zone, advances the map and starts the tag clearing, or is rejected. -/
  | iscfgWrite
  /-- ISCFG_CLEAR_DONE (R334): The zone's tag clearing ends and BUSY returns to 0. -/
  | iscfgClearDone
  /-- ARED_MERGE_FORWARD (R429): A scale-up switch forwards its merged contributions to one word once its hold time expires. -/
  | aredMergeForward
  /-- REDUCTION_WINDOW_ACK (R429): Every reached switch has acknowledged a window's registration, and ACT becomes 1. -/
  | reductionWindowAck
  /-- QUEUE_PUSH_APPLY (R345): A push is applied to a queue and checked for state and fullness in that clk. -/
  | queuePushApply
  /-- HOST_QUEUE_PUSH (R347): A full-line host write to the queue window is a push; any other write to the window is discarded. -/
  | hostQueuePush
  /-- HELD_LAUNCH_PUSH (R364): A LAUNCH push held on a full queue is applied when a slot frees. -/
  | heldLaunchPush
  /-- CARD_POP (R349): The command processor pops a card from a chosen launch queue and checks it. -/
  | cardPop
  /-- LEASE_REQUEST_SERVE (R262): A memory die serves the lease request at its head, walking pages and granting once all its entries are available. -/
  | leaseRequestServe
  /-- LAUNCH_ADMIT (R262): A launch is admitted once every owning die has granted its leases. -/
  | launchAdmit
  /-- TLBINV_DRAIN_COMPLETE (R265): A DRAIN lease entry whose counts fall to zero is discarded, and the TLBINV completes at that die. -/
  | tlbinvDrainComplete
  /-- SHEAF_DEAL (R352): An admitted launch deals its next sheaf of records to an eligible region. -/
  | sheafDeal
  /-- LAUNCH_COMPLETE (R357): An ending launch releases its leases and writes its completion record. -/
  | launchComplete
  /-- INSTRUCTION_FAULT (R372): An instruction fault ends the unit's frames, freezes the supplying queue and stops dealing. -/
  | instructionFault
  /-- FAULT_RECORD_DELIVERY (R374): A fault record is pushed to the chosen fault queue, or lost and counted. -/
  | faultRecordDelivery
  /-- FREEZE_WAVE_COMPLETE (R377): The freeze wave of a graph completes once every frame is FROZEN and no token is in flight. -/
  | freezeWaveComplete
  /-- COMPUTE_DIE_RESET (R381): A write of 1 to a bit of CDRST ends the die's units and launches, then resets the compute die. -/
  | computeDieReset
  /-- DIE_READY (R392): A die, link or stack reports READY, and a version is published with event 1. -/
  | dieReady
  /-- TILE_FAILURE (R392): A tile fails in service or at scan, and a version is published with event 2. -/
  | tileFailure
  /-- DIE_LOST (R392): A die is lost, and a version is published with event 3, reassigning the home table for a memory die. -/
  | dieLost
  /-- MEMORY_DIE_BOOT_TIMEOUT (R390): A memory die not READY 2 s after the switch die leaves reset is recorded DEAD. -/
  | memoryDieBootTimeout
  /-- LINK_RESTORE (R392): Retraining restores a link, and a version is published with event 8. -/
  | linkRestore
  /-- CHANNEL_LOST (R392): An HBM channel is lost, and a version is published with event 9. -/
  | channelLost
  /-- ACK_DEADLINE_EXPIRY (R394): A running job whose ACKV is still below the armed version when the clk after its deadline begins is suspended. -/
  | ackDeadlineExpiry
  /-- MAPJ_SUSP_CLEAR (R396): A write of 0 to MAPJ.SUSP resumes the selected job and sets its ACKV to VERSION. -/
  | mapjSuspClear
  /-- SCAN_PATTERN_END (R402): A scan test ends, compares its signature, restores the tile or publishes a failure, and emits status. -/
  | scanPatternEnd
  /-- SCAN_AUTO_ABORT (R402): A test with AUTO = 1 aborts itself in the clk that WANT becomes 1. -/
  | scanAutoAbort
  /-- SCAN_ABORT_RESTORE (R403): An aborted test stops its pattern set and restores the tile, returning it to service. -/
  | scanAbortRestore
  /-- REFRESH_TICK (R407): Every tREFI, REFDEBT of a pseudo-channel rises by 1. -/
  | refreshTick
  /-- CONTROLLER_COMMAND_SELECT (R407): A pseudo-channel controller issues its next command: a refresh, an RFM or a demand command. -/
  | controllerCommandSelect
  /-- GLEANER_READ (R410): Every INTV clk, the gleaner reads the next granule and writes back or logs an error. -/
  | gleanerRead
  /-- BANDWIDTH_UPDATE (R411): When CLKNOW mod 1024 = 0, each compute tile adds credit to its active accounts. -/
  | bandwidthUpdate
  /-- LINK_AUDIT (R420): A receiver's audit flit arrives and the sender checks its free-slot counters. -/
  | linkAudit
  /-- LINK_STALL_TIMEOUT (R421): A VC stalled 65,536 clk with flits waiting and FSC = 0 starts a resync. -/
  | linkStallTimeout
  /-- RESYNC_TIMEOUT (R421): A resync not finished within 65,536 clk fails, and three failures degrade the link. -/
  | resyncTimeout
  /-- HOST_BAR0_ACCESS (R423): A host 8-byte access to BAR0 acts on the register at that SRA. -/
  | hostBar0Access
  /-- HOST_HDM_ACCESS (R424): A host CXL.mem access is translated through the system TLB and performed at the home slice. -/
  | hostHdmAccess
  /-- HOST_WINDOW_ACCESS (R425): A device access with HOME 0x20 is checked at the switch die and sent to host memory. -/
  | hostWindowAccess
  /-- FABRIC_ACCESS (R428): A G = 1 access arrives at module DEV and is checked and performed in the job of the same JID. -/
  | fabricAccess
  /-- XRED_ROUND_COMPLETE (R433): When every write of the summed round to DEST has performed, each contribution emits status 0 and ROUND advances. -/
  | xredRoundComplete
  /-- XRED_ROUND_ABORT (R433): A round aborts when a contributor's frame ends early or a chain die dies. -/
  | xredRoundAbort
  /-- DEURI_LINK_TRAIN (R435): The Deuri link trains, and the switch die leaves reset, verifies its firmware and publishes VERSION 1. -/
  | deuriLinkTrain
  /-- FIRMWARE_VERIFY (R437): A die verifies its firmware image, runs it and, for a compute die, tests its tiles before reporting READY. -/
  | firmwareVerify
  /-- ATTCTL_GO (R440): A write of GO to ATTCTL latches the nonce and writes a signed attestation report. -/
  | attctlGo
  /-- THERMAL_THRESHOLD (R441): A compute die's TEMP reaches 100 °C, and its grade is lowered one step. -/
  | thermalThreshold
  /-- HEAT_STEP_TIMER (R441): After each further 10 ms at or above 100 °C, the die's grade is lowered again. -/
  | heatStepTimer
  /-- POWER_CAP_TIMER (R441): Each 1 ms in which PWRNOW exceeds PWRCAP lowers the hottest die above grade 3, or sets OVER. -/
  | powerCapTimer
  /-- GRADE_RAISE_TIMER (R441): After 100 ms below 90 °C and under the cap, the die's grade is raised one step. -/
  | gradeRaiseTimer
  /-- OVERHEAT_DIE_RESET (R442): A compute die at 110 °C is reset and stays NOTREADY until it cools. -/
  | overheatDieReset
  /-- OVERHEAT_POWER_OFF (R442): A memory die or the switch die at 110 °C drops the Deuri link and powers the module off. -/
  | overheatPowerOff
  /-- QCFG_STATE_WRITE (R342): A write to a queue's STATE opens, freezes, drains or closes the queue as written. -/
  | qcfgStateWrite
  /-- RWIN_WRITE (R434): A write to RWINn clears ACT and registers the reduction window anew. -/
  | rwinWrite
  /-- REGISTER_WRITE (R7): A write to a register with no behaviour of its own stores the value under its access code. -/
  | registerWrite
  /-- UCIE_LANE_LOST (R417): A UCIe module loses a lane and retrains at 32 lanes (event 6), or is lost (event 7) if it cannot retrain. -/
  | ucieLaneLost
  /-- HOST_SNOOP_RESPONSE (R426): The host's answer to a directory snoop returns through the adapter, and the held device access to the host-bias line performs. -/
  | hostSnoopResponse
  /-- COMPUTE_DIE_COOLED (R442): A compute die held NOTREADY after a 110 °C reset falls below 90 °C and may leave reset again. -/
  | computeDieCooled
  /-- DEURI_LINK_DOWN (R21): The Deuri link goes down, ending the guarantee that the switch die and the memory dies stay powered and out of reset, and the finality of DEAD. -/
  | deuriLinkDown
deriving DecidableEq, Repr

/-- The opcode (bits 63:56, R52) and the fields of an instruction row; none for an event. -/
def Instr.word? : Instr → Option (Nat × Fields)
  | .drop f => some (0x00, f)
  | .dup f => some (0x01, f)
  | .switch f => some (0x02, f)
  | .select f => some (0x03, f)
  | .gate f => some (0x04, f)
  | .merge f => some (0x05, f)
  | .sendLink f => some (0x06, f)
  | .sendRet f => some (0x06, f)
  | .enter f => some (0x07, f)
  | .exit f => some (0x08, f)
  | .iter f => some (0x09, f)
  | .loopn f => some (0x0A, f)
  | .free f => some (0x0B, f)
  | .const f => some (0x0C, f)
  | .constSelf f => some (0x0C, f)
  | .arg f => some (0x0D, f)
  | .kset f => some (0x0E, f)
  | .done f => some (0x0F, f)
  | .cfgnext f => some (0xC9, f)
  | .cfgload f => some (0xE5, f)
  | .add f => some (0x10, f)
  | .sub f => some (0x11, f)
  | .mul f => some (0x12, f)
  | .mulh f => some (0x13, f)
  | .mad f => some (0x14, f)
  | .div f => some (0x15, f)
  | .rem f => some (0x16, f)
  | .min f => some (0x17, f)
  | .max f => some (0x18, f)
  | .abs f => some (0x19, f)
  | .neg f => some (0x1A, f)
  | .addx f => some (0x1B, f)
  | .lea f => some (0x1C, f)
  | .clz f => some (0x1D, f)
  | .popc f => some (0x1E, f)
  | .brev f => some (0x1F, f)
  | .and f => some (0x20, f)
  | .or f => some (0x21, f)
  | .xor f => some (0x22, f)
  | .not f => some (0x23, f)
  | .shl f => some (0x24, f)
  | .shr f => some (0x25, f)
  | .sha f => some (0x26, f)
  | .rot f => some (0x27, f)
  | .bfx f => some (0x28, f)
  | .bfi f => some (0x29, f)
  | .cmp f => some (0x2A, f)
  | .fcmp f => some (0x2B, f)
  | .plog f => some (0x2C, f)
  | .fadd f => some (0x30, f)
  | .fsub f => some (0x31, f)
  | .fmul f => some (0x32, f)
  | .ffma f => some (0x33, f)
  | .fmin f => some (0x34, f)
  | .fmax f => some (0x35, f)
  | .fabs f => some (0x36, f)
  | .fneg f => some (0x37, f)
  | .rcpa f => some (0x38, f)
  | .rsqa f => some (0x39, f)
  | .rcpr f => some (0x3A, f)
  | .rsqr f => some (0x3B, f)
  | .expa f => some (0x3C, f)
  | .loga f => some (0x3D, f)
  | .fsqrt f => some (0x3E, f)
  | .fdiv f => some (0x3F, f)
  | .cvtii f => some (0x40, f)
  | .cvtif f => some (0x41, f)
  | .cvtfi f => some (0x42, f)
  | .cvtff f => some (0x43, f)
  | .packn f => some (0x44, f)
  | .unpkn f => some (0x45, f)
  | .runred f => some (0x46, f)
  | .runscan f => some (0x47, f)
  | .runshf f => some (0x48, f)
  | .runbc f => some (0x49, f)
  | .lane f => some (0x4A, f)
  | .talloc f => some (0x50, f)
  | .trel f => some (0x51, f)
  | .tref f => some (0x52, f)
  | .tgive f => some (0x53, f)
  | .tview f => some (0x54, f)
  | .tdescRd f => some (0x55, f)
  | .tdescLink f => some (0x55, f)
  | .tlook f => some (0x56, f)
  | .ttag f => some (0x57, f)
  | .tuntag f => some (0x58, f)
  | .tget f => some (0x59, f)
  | .tset f => some (0x5A, f)
  | .tfill f => some (0x5B, f)
  | .tadd f => some (0x60, f)
  | .tsub f => some (0x61, f)
  | .tmul f => some (0x62, f)
  | .tfma f => some (0x63, f)
  | .tscal f => some (0x64, f)
  | .tminmax f => some (0x65, f)
  | .tact f => some (0x66, f)
  | .tred f => some (0x67, f)
  | .tcvt f => some (0x68, f)
  | .tchain f => some (0x69, f)
  | .benset f => some (0x6A, f)
  | .tperm f => some (0x6B, f)
  | .tcmp f => some (0x6C, f)
  | .tmsel f => some (0x6D, f)
  | .sopset f => some (0x70, f)
  | .sopgo f => some (0x71, f)
  | .sopmaskOff f => some (0x72, f)
  | .sopmaskOn f => some (0x72, f)
  | .soppri f => some (0x73, f)
  | .mma f => some (0x80, f)
  | .mmas f => some (0x81, f)
  | .mmac f => some (0x82, f)
  | .mmsr f => some (0x83, f)
  | .accld f => some (0x84, f)
  | .accst f => some (0x85, f)
  | .cbset f => some (0x86, f)
  | .cbswap f => some (0x87, f)
  | .mmprg f => some (0x88, f)
  | .mmcfg f => some (0x89, f)
  | .ld f => some (0x90, f)
  | .st f => some (0x91, f)
  | .ldt f => some (0x92, f)
  | .stt f => some (0x93, f)
  | .ldg f => some (0x94, f)
  | .stg f => some (0x95, f)
  | .regionOpen f => some (0x96, f)
  | .regionClose f => some (0x96, f)
  | .ord f => some (0x97, f)
  | .cpyIn f => some (0xA0, f)
  | .cpyOut f => some (0xA0, f)
  | .cpym f => some (0xA1, f)
  | .cpywp f => some (0xA2, f)
  | .cpywait f => some (0xA3, f)
  | .cpycan f => some (0xA4, f)
  | .aadd f => some (0xB0, f)
  | .afadd f => some (0xB1, f)
  | .amin f => some (0xB2, f)
  | .amax f => some (0xB3, f)
  | .alog f => some (0xB4, f)
  | .axch f => some (0xB5, f)
  | .acas f => some (0xB6, f)
  | .ainc f => some (0xB7, f)
  | .acask f => some (0xB8, f)
  | .aaddk f => some (0xB9, f)
  | .itake f => some (0xBA, f)
  | .iput f => some (0xBB, f)
  | .iread f => some (0xBC, f)
  | .iclr f => some (0xBD, f)
  | .ared f => some (0xBE, f)
  | .qpush f => some (0xC0, f)
  | .qpop f => some (0xC1, f)
  | .qcnt f => some (0xC2, f)
  | .launch f => some (0xC3, f)
  | .binit f => some (0xC4, f)
  | .arrive f => some (0xC5, f)
  | .bwait f => some (0xC6, f)
  | .cntrd f => some (0xC7, f)
  | .cancel f => some (0xC8, f)
  | .qctlFreeze f => some (0xCA, f)
  | .qctlThaw f => some (0xCA, f)
  | .qctlDrain f => some (0xCA, f)
  | .qctlClose f => some (0xCA, f)
  | .fence f => some (0xD0, f)
  | .waitc f => some (0xD1, f)
  | .biasreq f => some (0xD2, f)
  | .perfrdTile f => some (0xD3, f)
  | .perfrdPc f => some (0xD3, f)
  | .xredCfg f => some (0xD4, f)
  | .xredAdd f => some (0xD4, f)
  | .trapEnd f => some (0xE0, f)
  | .trapLog f => some (0xE0, f)
  | .sysrd f => some (0xE1, f)
  | .syswr f => some (0xE2, f)
  | .freeze f => some (0xE3, f)
  | .thaw f => some (0xE4, f)
  | .maprdWord f => some (0xE6, f)
  | .maprdWait f => some (0xE6, f)
  | .mapack f => some (0xE7, f)
  | .scango f => some (0xE8, f)
  | .scanabt f => some (0xE9, f)
  | .leaseAcq f => some (0xEA, f)
  | .leaseRel f => some (0xEA, f)
  | .relocBind f => some (0xEB, f)
  | .relocUnbind f => some (0xEB, f)
  | .tlbinvRange f => some (0xEC, f)
  | .tlbinvJob f => some (0xEC, f)
  | .tokenArrival => none
  | .heldFiringEnterQueue => none
  | .readyQueueIssue => none
  | .chainHoldRelease => none
  | .laneResultEmit => none
  | .frameRequestGrant => none
  | .frameBecomesLive => none
  | .frameReturnFree => none
  | .configTransition => none
  | .configBlockFetched => none
  | .configLoadEntryWait => none
  | .ksetStageComplete => none
  | .handleIncrementAck => none
  | .engineMessageAccept => none
  | .tileAllocGrant => none
  | .granuleZeroed => none
  | .rowUnitOperationStart => none
  | .rowUnitOperationComplete => none
  | .handlerCountWord => none
  | .handlerStep => none
  | .handlerComplete => none
  | .sopsetWaitEnd => none
  | .matrixFeedBegin => none
  | .matrixKstepFeed => none
  | .matrixOperationComplete => none
  | .operandFetchFault => none
  | .matrixHaltTimeout => none
  | .mxctlResume => none
  | .mxctlAbort => none
  | .matrixFreezeStop => none
  | .cbsetWaitEnd => none
  | .memoryPortIssue => none
  | .homeSlicePerform => none
  | .memoryReplyArrive => none
  | .streamReadaheadFetch => none
  | .streamReadaheadReply => none
  | .copyAccept => none
  | .copyRequestIssue => none
  | .copyReplyLand => none
  | .cpymMmaDeliver => none
  | .fenceRelease => none
  | .waitcRelease => none
  | .biasFlipComplete => none
  | .deferredContinuationRetry => none
  | .shuttleDrain => none
  | .shuttlePush => none
  | .requestWithdrawal => none
  | .iscfgWrite => none
  | .iscfgClearDone => none
  | .aredMergeForward => none
  | .reductionWindowAck => none
  | .queuePushApply => none
  | .hostQueuePush => none
  | .heldLaunchPush => none
  | .cardPop => none
  | .leaseRequestServe => none
  | .launchAdmit => none
  | .tlbinvDrainComplete => none
  | .sheafDeal => none
  | .launchComplete => none
  | .instructionFault => none
  | .faultRecordDelivery => none
  | .freezeWaveComplete => none
  | .computeDieReset => none
  | .dieReady => none
  | .tileFailure => none
  | .dieLost => none
  | .memoryDieBootTimeout => none
  | .linkRestore => none
  | .channelLost => none
  | .ackDeadlineExpiry => none
  | .mapjSuspClear => none
  | .scanPatternEnd => none
  | .scanAutoAbort => none
  | .scanAbortRestore => none
  | .refreshTick => none
  | .controllerCommandSelect => none
  | .gleanerRead => none
  | .bandwidthUpdate => none
  | .linkAudit => none
  | .linkStallTimeout => none
  | .resyncTimeout => none
  | .hostBar0Access => none
  | .hostHdmAccess => none
  | .hostWindowAccess => none
  | .fabricAccess => none
  | .xredRoundComplete => none
  | .xredRoundAbort => none
  | .deuriLinkTrain => none
  | .firmwareVerify => none
  | .attctlGo => none
  | .thermalThreshold => none
  | .heatStepTimer => none
  | .powerCapTimer => none
  | .gradeRaiseTimer => none
  | .overheatDieReset => none
  | .overheatPowerOff => none
  | .qcfgStateWrite => none
  | .rwinWrite => none
  | .registerWrite => none
  | .ucieLaneLost => none
  | .hostSnoopResponse => none
  | .computeDieCooled => none
  | .deuriLinkDown => none

/-- The constructor that an opcode and its fields name (R52, and the SUB values of the rows that SUB tells apart). -/
def Instr.ofOp (op : Nat) (f : Fields) : Option Instr :=
  match op with
  | 0x00 => some (.drop f)
  | 0x01 => some (.dup f)
  | 0x02 => some (.switch f)
  | 0x03 => some (.select f)
  | 0x04 => some (.gate f)
  | 0x05 => some (.merge f)
  | 0x06 => if f.sub = 0 then some (.sendLink f) else if f.sub = 1 then some (.sendRet f) else none
  | 0x07 => some (.enter f)
  | 0x08 => some (.exit f)
  | 0x09 => some (.iter f)
  | 0x0A => some (.loopn f)
  | 0x0B => some (.free f)
  | 0x0C => if f.sub = 0 then some (.const f) else if f.sub = 1 then some (.constSelf f) else none
  | 0x0D => some (.arg f)
  | 0x0E => some (.kset f)
  | 0x0F => some (.done f)
  | 0x10 => some (.add f)
  | 0x11 => some (.sub f)
  | 0x12 => some (.mul f)
  | 0x13 => some (.mulh f)
  | 0x14 => some (.mad f)
  | 0x15 => some (.div f)
  | 0x16 => some (.rem f)
  | 0x17 => some (.min f)
  | 0x18 => some (.max f)
  | 0x19 => some (.abs f)
  | 0x1A => some (.neg f)
  | 0x1B => some (.addx f)
  | 0x1C => some (.lea f)
  | 0x1D => some (.clz f)
  | 0x1E => some (.popc f)
  | 0x1F => some (.brev f)
  | 0x20 => some (.and f)
  | 0x21 => some (.or f)
  | 0x22 => some (.xor f)
  | 0x23 => some (.not f)
  | 0x24 => some (.shl f)
  | 0x25 => some (.shr f)
  | 0x26 => some (.sha f)
  | 0x27 => some (.rot f)
  | 0x28 => some (.bfx f)
  | 0x29 => some (.bfi f)
  | 0x2A => some (.cmp f)
  | 0x2B => some (.fcmp f)
  | 0x2C => some (.plog f)
  | 0x30 => some (.fadd f)
  | 0x31 => some (.fsub f)
  | 0x32 => some (.fmul f)
  | 0x33 => some (.ffma f)
  | 0x34 => some (.fmin f)
  | 0x35 => some (.fmax f)
  | 0x36 => some (.fabs f)
  | 0x37 => some (.fneg f)
  | 0x38 => some (.rcpa f)
  | 0x39 => some (.rsqa f)
  | 0x3A => some (.rcpr f)
  | 0x3B => some (.rsqr f)
  | 0x3C => some (.expa f)
  | 0x3D => some (.loga f)
  | 0x3E => some (.fsqrt f)
  | 0x3F => some (.fdiv f)
  | 0x40 => some (.cvtii f)
  | 0x41 => some (.cvtif f)
  | 0x42 => some (.cvtfi f)
  | 0x43 => some (.cvtff f)
  | 0x44 => some (.packn f)
  | 0x45 => some (.unpkn f)
  | 0x46 => some (.runred f)
  | 0x47 => some (.runscan f)
  | 0x48 => some (.runshf f)
  | 0x49 => some (.runbc f)
  | 0x4A => some (.lane f)
  | 0x50 => some (.talloc f)
  | 0x51 => some (.trel f)
  | 0x52 => some (.tref f)
  | 0x53 => some (.tgive f)
  | 0x54 => some (.tview f)
  | 0x55 => if f.sub = 0 then some (.tdescRd f) else if f.sub = 1 then some (.tdescLink f) else none
  | 0x56 => some (.tlook f)
  | 0x57 => some (.ttag f)
  | 0x58 => some (.tuntag f)
  | 0x59 => some (.tget f)
  | 0x5A => some (.tset f)
  | 0x5B => some (.tfill f)
  | 0x60 => some (.tadd f)
  | 0x61 => some (.tsub f)
  | 0x62 => some (.tmul f)
  | 0x63 => some (.tfma f)
  | 0x64 => some (.tscal f)
  | 0x65 => some (.tminmax f)
  | 0x66 => some (.tact f)
  | 0x67 => some (.tred f)
  | 0x68 => some (.tcvt f)
  | 0x69 => some (.tchain f)
  | 0x6A => some (.benset f)
  | 0x6B => some (.tperm f)
  | 0x6C => some (.tcmp f)
  | 0x6D => some (.tmsel f)
  | 0x70 => some (.sopset f)
  | 0x71 => some (.sopgo f)
  | 0x72 => if f.sub = 0 then some (.sopmaskOff f) else if f.sub = 1 then some (.sopmaskOn f) else none
  | 0x73 => some (.soppri f)
  | 0x80 => some (.mma f)
  | 0x81 => some (.mmas f)
  | 0x82 => some (.mmac f)
  | 0x83 => some (.mmsr f)
  | 0x84 => some (.accld f)
  | 0x85 => some (.accst f)
  | 0x86 => some (.cbset f)
  | 0x87 => some (.cbswap f)
  | 0x88 => some (.mmprg f)
  | 0x89 => some (.mmcfg f)
  | 0x90 => some (.ld f)
  | 0x91 => some (.st f)
  | 0x92 => some (.ldt f)
  | 0x93 => some (.stt f)
  | 0x94 => some (.ldg f)
  | 0x95 => some (.stg f)
  | 0x96 => if f.sub = 0 then some (.regionOpen f) else if f.sub = 1 then some (.regionClose f) else none
  | 0x97 => some (.ord f)
  | 0xA0 => if f.sub = 0 then some (.cpyIn f) else if f.sub = 1 then some (.cpyOut f) else none
  | 0xA1 => some (.cpym f)
  | 0xA2 => some (.cpywp f)
  | 0xA3 => some (.cpywait f)
  | 0xA4 => some (.cpycan f)
  | 0xB0 => some (.aadd f)
  | 0xB1 => some (.afadd f)
  | 0xB2 => some (.amin f)
  | 0xB3 => some (.amax f)
  | 0xB4 => some (.alog f)
  | 0xB5 => some (.axch f)
  | 0xB6 => some (.acas f)
  | 0xB7 => some (.ainc f)
  | 0xB8 => some (.acask f)
  | 0xB9 => some (.aaddk f)
  | 0xBA => some (.itake f)
  | 0xBB => some (.iput f)
  | 0xBC => some (.iread f)
  | 0xBD => some (.iclr f)
  | 0xBE => some (.ared f)
  | 0xC0 => some (.qpush f)
  | 0xC1 => some (.qpop f)
  | 0xC2 => some (.qcnt f)
  | 0xC3 => some (.launch f)
  | 0xC4 => some (.binit f)
  | 0xC5 => some (.arrive f)
  | 0xC6 => some (.bwait f)
  | 0xC7 => some (.cntrd f)
  | 0xC8 => some (.cancel f)
  | 0xC9 => some (.cfgnext f)
  | 0xCA => if f.sub = 0 then some (.qctlFreeze f) else if f.sub = 1 then some (.qctlThaw f) else if f.sub = 2 then some (.qctlDrain f) else if f.sub = 3 then some (.qctlClose f) else none
  | 0xD0 => some (.fence f)
  | 0xD1 => some (.waitc f)
  | 0xD2 => some (.biasreq f)
  | 0xD3 => if f.sub = 0 then some (.perfrdTile f) else if f.sub = 1 then some (.perfrdPc f) else none
  | 0xD4 => if f.sub = 0 then some (.xredCfg f) else if f.sub = 1 then some (.xredAdd f) else none
  | 0xE0 => if f.sub = 0 then some (.trapEnd f) else if f.sub = 1 then some (.trapLog f) else none
  | 0xE1 => some (.sysrd f)
  | 0xE2 => some (.syswr f)
  | 0xE3 => some (.freeze f)
  | 0xE4 => some (.thaw f)
  | 0xE5 => some (.cfgload f)
  | 0xE6 => if f.sub = 0 then some (.maprdWord f) else if f.sub = 1 then some (.maprdWait f) else none
  | 0xE7 => some (.mapack f)
  | 0xE8 => some (.scango f)
  | 0xE9 => some (.scanabt f)
  | 0xEA => if f.sub = 0 then some (.leaseAcq f) else if f.sub = 1 then some (.leaseRel f) else none
  | 0xEB => if f.sub = 0 then some (.relocBind f) else if f.sub = 1 then some (.relocUnbind f) else none
  | 0xEC => if f.sub = 0 then some (.tlbinvRange f) else if f.sub = 1 then some (.tlbinvJob f) else none
  | _ => none

end Sys2Proof
end

