-- ==== Sys2Proof/Config.lean ====
section
/-! DEFINITION. What the manual leaves to the device or does not give: every constant here has no body, so nothing can be
proved of its value (log entries 2 and 9 to 11). -/

namespace Sys2Proof.Config

/-- A free 64-bit value: applied to `State.free`, a counter that the step advances (log entry 2). -/
opaque freeWord : Nat → Word

/-- SCANEXP of a compute tile, which the body of its die's firmware image fixes, by that body's digest (R397, R437; log entry 9). -/
opaque scanExp : List Byte → Nat → Word

/-- The signature that the n-th completed pattern set of a tile leaves (R402; log entry 9). -/
opaque scanSig : Nat → Nat → Word

/-- SHA-384 (R437; log entry 10). -/
opaque sha384 : List Byte → List Byte

/-- Whether an ECDSA P-384 signature verifies under the fused key (R437; log entry 10). -/
opaque ecdsaVerifies : List Byte → List Byte → Bool

/-- Whether an LMS signature verifies under the fused key (R437; log entry 10). -/
opaque lmsVerifies : List Byte → List Byte → Bool

/-- The fused minimum SVN of a die class (R437; log entry 10). -/
opaque minSvn : Nat → Nat

/-- The signature that the power-on test of a tile leaves, by the clk (R435; log entry 129). -/
opaque bootSig : Nat → Nat → Word

/-- The public key of the ECDSA identity key pair, x then y (R438; log entry 10). -/
opaque identityE : List Byte

/-- I and root of the public key of the LMS identity tree (R438; log entry 10). -/
opaque identityL : List Byte

/-- The public key of the ECDSA attestation key pair made at the k-th reset of the switch die (R438; log entry 10). -/
opaque attestE : Nat → List Byte

/-- I and root of the public key of the LMS attestation tree made at the k-th reset of the switch die (R438; log entry 10). -/
opaque attestL : Nat → List Byte

/-- The ECDSA P-384 signature of some bytes with the private key that belongs to a public key (R439, R440; log entry 10). -/
opaque ecdsaSign : List Byte → List Byte → List Byte

/-- The LMS signature of some bytes with the tree that belongs to a public key, at a leaf (R439, R440; log entry 10). -/
opaque lmsSign : List Byte → Nat → List Byte → List Byte

/-- The byte that another module's memory holds at a clk, by its address (R253; log entry 127). -/
opaque remoteByte : Nat → Nat → BitVec 8

/-- What another module answers to an access of the switch die at a clk, by its address: a cause, where the number is one (R253; log
entry 127). -/
opaque remoteCause : Nat → Nat → Nat

/-- A value the manual states no result for, by the operation's number and its operand (log entry 11). -/
opaque unstated : Nat → Word → Word

end Sys2Proof.Config
end

