-- ==== Sys2Proof/WellFormed.lean ====
section
/-! DEFINITION. What a single instruction word must satisfy: the SUB, TY, (AR, KC), SL, CK, D0, D1 and X that the
encoding tables accept (R49 to R51, R53, and the tables R120, R145, R162, R189, R208, R225, R245, R268, R279, R288, R294,
R312, R322, R323, R359, R382, R399, R415, R431). What needs the whole block (NI, NK, NS, other words) is in
Machine/Blocks.lean. -/

namespace Sys2Proof

/-- Why a word is rejected (R53), by the first field that fails in the order of R55 step 8 and step 10. -/
inductive BadWord where
  | op | sub | ty | arkc | sl | ck | d0 | d1 | x
deriving DecidableEq, Repr

namespace Ty

/-- Every type code (TY "any" of R120). -/
def all : List Ty := [.b64, .i8, .i16, .i32, .i64, .n8, .n16, .n32, .n64, .f16, .bf16, .f32, .f64, .h, .p, .va]
/-- "any but h". -/
def noH : List Ty := [.b64, .i8, .i16, .i32, .i64, .n8, .n16, .n32, .n64, .f16, .bf16, .f32, .f64, .p, .va]
/-- SI of R145. -/
def si : List Ty := [.i8, .i16, .i32, .i64]
/-- INT of R145. -/
def int : List Ty := [.i8, .i16, .i32, .i64, .n8, .n16, .n32, .n64]
/-- LOG of R145. -/
def log : List Ty := .b64 :: int
/-- FLT of R145. -/
def flt : List Ty := [.f16, .bf16, .f32, .f64]
/-- LT of R288. -/
def lt : List Ty := [.b64, .i8, .i16, .i32, .i64, .n8, .n16, .n32, .n64, .f16, .bf16, .f32, .f64, .va]
/-- AI of R323. -/
def ai : List Ty := [.n64, .i32, .i64, .n32]
/-- b64, W4 and W8 of R323. -/
def wAny : List Ty := [.b64, .i32, .n32, .f32, .i64, .n64, .f64, .va]

/-- The operation width in bits (R71). -/
def width : Ty → Nat
  | .b64 | .i64 | .n64 | .f64 | .h => 64
  | .i8 | .n8 => 8
  | .i16 | .n16 | .f16 | .bf16 => 16
  | .i32 | .n32 | .f32 => 32
  | .p => 1
  | .va => 57

end Ty

/-- Bits lo to lo + n - 1 of an immediate, as a number (R3). -/
def xbits (x : BitVec 12) (lo n : Nat) : Nat := x.toNat / 2 ^ lo % 2 ^ n

/-- What one encoding-table row accepts. `ckUse` says that CK names a constant although KC = 0. -/
structure Row where
  tys   : List Ty
  arkc  : List (Nat × Bool)
  ckUse : Bool := false
  d0    : Bool := false
  d1    : Bool := false
  xOk   : Bool := true
deriving DecidableEq, Repr

/-- The memory-node layout of X (R51, R279, R288): the classes accepted, and whether D is honoured. -/
def memX (x : BitVec 12) (cls : List Nat) (d : Bool) : Bool :=
  cls.contains (xbits x 1 2) && (d || xbits x 0 1 == 0)
    && (xbits x 1 2 != 2 || xbits x 3 7 != 0) && (xbits x 1 2 != 1 || xbits x 3 7 == 0)

/-- X of group 0x6 (R208): which of RM, SAT, DIM, ACC, BANK the instruction uses; unused fields are zero. -/
def tileX (x : BitVec 12) (rmMax : Nat) (sat dim acc bank : Bool) : Bool :=
  xbits x 0 3 ≤ rmMax && (sat || xbits x 3 1 == 0) && (dim || xbits x 4 1 == 0) && (acc || xbits x 5 1 == 0)
    && (bank || xbits x 6 1 == 0) && xbits x 7 5 == 0

/-- A destination field of ten bits is valid by itself (R50): V = 0 has IX and P zero, V = 1 has P below 3. -/
def destBitsOk (n : Nat) : Bool := (n < 512 && n == 0) || (512 ≤ n && n % 4 != 3)

/-- The parameter words a handler kind takes (NPW of R220). -/
def sopNpw (kind : Nat) : Nat :=
  if kind == 4 then 2 else if [6, 7, 8, 9].contains kind then 1 else 0

/-- The (AR, KC) pairs that repeat through the tables. -/
def un : List (Nat × Bool) := [(1, false)]
/-- a, b, with b from a constant in the second form. -/
def bin : List (Nat × Bool) := [(2, false), (1, true)]
/-- a, b, c, with c from a constant in the second form. -/
def tri : List (Nat × Bool) := [(3, false), (2, true)]
/-- One to three tokens. -/
def upTo3 : List (Nat × Bool) := [(1, false), (2, false), (3, false)]
/-- A token, or a constant at arity 0. -/
def unOrK : List (Nat × Bool) := [(1, false), (0, true)]

/-- Group 0x0, CFGNEXT and CFGLOAD (R120). -/
def rowFlow (op sub : Nat) (x : BitVec 12) : Option Row :=
  let x0 := x == 0
  match op, sub with
  | 0x00, 0 => some { tys := Ty.all, arkc := un, xOk := x0 }
  | 0x01, 0 => some { tys := Ty.all, arkc := un, d0 := true, d1 := true, xOk := destBitsOk (xbits x 0 10) && xbits x 10 2 == 0 }
  | 0x02, 0 => some { tys := Ty.all, arkc := [(2, false)], d0 := true, d1 := true, xOk := x0 }
  | 0x03, 0 => some { tys := Ty.all, arkc := tri, d0 := true, xOk := x0 }
  | 0x04, 0 => some { tys := Ty.all, arkc := [(2, false)], d0 := true, xOk := x0 }
  | 0x05, 0 => some { tys := Ty.all, arkc := [(2, false)], d0 := true, xOk := x0 }
  | 0x06, 0 => some { tys := Ty.all, arkc := [(2, false)], d1 := true, xOk := x0 }
  | 0x06, 1 => some { tys := Ty.all, arkc := un, d1 := true, xOk := x0 }
  | 0x07, 0 => some { tys := Ty.all, arkc := upTo3, ckUse := true, d0 := true, xOk := x0 }
  | 0x08, 0 => some { tys := Ty.all, arkc := un, xOk := x0 }
  | 0x09, 0 => some { tys := Ty.all, arkc := upTo3, d0 := true, xOk := x0 }
  | 0x0A, 0 => some { tys := Ty.noH, arkc := [(1, false), (2, false)], ckUse := true, d1 := true, xOk := x0 }
  | 0x0B, 0 => some { tys := Ty.all, arkc := un, xOk := x0 }
  | 0x0C, 0 | 0x0C, 1 => some { tys := Ty.noH, arkc := [(0, true), (1, true)], d0 := true, d1 := true, xOk := x0 }
  | 0x0D, 0 => some { tys := Ty.noH, arkc := [(0, false)], d0 := true, d1 := true, xOk := xbits x 6 6 == 0 }
  | 0x0E, 0 => some { tys := Ty.noH, arkc := un, ckUse := true, d1 := true, xOk := x0 }
  | 0x0F, 0 => some { tys := Ty.all, arkc := un, xOk := x0 }
  | 0xC9, 0 => some { tys := Ty.all, arkc := un, xOk := x0 }
  | 0xE5, 0 => some { tys := [.n32, .n16, .n64], arkc := [(1, false), (1, true)], xOk := x0 }
  | _, _ => none

/-- The shift rows of R145: the count is in X at arity 1, and X is zero otherwise. -/
def shiftX (f : Fields) : Bool :=
  if f.ar == 1 && !f.kc then xbits f.x 6 6 == 0 else f.x == 0

/-- The X codes of the float targets of CVTFF (R162). -/
def fltTargets : List Nat := [0, 1, 2, 3, 4, 5, 6, 7, 8, 0x19]
/-- The X codes of the float elements of PACKN and UNPKN (R162). -/
def fltElems : List Nat := [0, 1, 2, 3, 4, 5, 6, 7, 8]
/-- The X codes of the integer elements of PACKN and UNPKN (R162). -/
def intElems : List Nat := [0x21, 0x22, 0x23, 0x25, 0x26, 0x27]
/-- The X codes of the integer targets of CVTII and CVTFI (R162). -/
def intTargets : List Nat := [0x21, 0x22, 0x23, 0x24, 0x25, 0x26, 0x27, 0x28]

/-- Groups 0x1 to 0x4 (R145, R154, R162, R165). D0 and D1 are destinations of the result in every row. -/
def rowLane (op : Nat) (f : Fields) : Option Row :=
  let sub := f.sub.toNat
  let x0 := f.x == 0
  let mk (tys : List Ty) (arkc : List (Nat × Bool)) (xOk : Bool) (ckUse : Bool := false) : Option Row :=
    some { tys := tys, arkc := arkc, ckUse := ckUse, d0 := true, d1 := true, xOk := xOk }
  let when (c : Bool) (r : Option Row) : Option Row := if c then r else none
  match op with
  | 0x10 | 0x11 | 0x12 | 0x13 | 0x17 | 0x18 => when (sub == 0) (mk Ty.int bin x0)
  | 0x14 => when (sub == 0) (mk Ty.int tri x0)
  | 0x15 | 0x16 => when (sub == 0) (mk Ty.int bin (xbits f.x 1 11 == 0))
  | 0x19 => when (sub ≤ 1) (mk Ty.si un x0)
  | 0x1A => if sub == 0 then mk Ty.int un x0 else when (sub == 1) (mk Ty.si un x0)
  | 0x1B => if sub == 0 || sub == 3 then mk Ty.int tri x0 else when (sub == 1 || sub == 2) (mk Ty.int bin x0)
  | 0x1C => when (sub == 0) (mk [.va] (bin ++ tri) (xbits f.x 4 8 == 0))
  | 0x1D | 0x1E | 0x1F => when (sub == 0) (mk Ty.log un x0)
  | 0x20 | 0x21 | 0x22 => when (sub == 0) (mk (Ty.log ++ [.p]) bin x0)
  | 0x23 => when (sub == 0) (mk (Ty.log ++ [.p]) un x0)
  | 0x24 | 0x25 | 0x26 => when (sub == 0) (mk Ty.log (un ++ bin) (shiftX f))
  | 0x27 => when (sub ≤ 1) (mk Ty.log (un ++ bin) (shiftX f))
  | 0x28 => when (sub ≤ 1) (mk Ty.log un (xbits f.x 0 6 + xbits f.x 6 6 + 1 ≤ f.ty.width))
  | 0x29 => when (sub == 0) (mk Ty.log bin (xbits f.x 0 6 + xbits f.x 6 6 + 1 ≤ f.ty.width))
  | 0x2A => when (sub ≤ 5) (mk (Ty.int ++ [.b64, .va, .p]) bin x0)
  | 0x2B => when (sub ≤ 7) (mk Ty.flt bin x0)
  | 0x2C => when (sub == 0) (mk [.p] (upTo3 ++ [(1, true), (2, true)]) (xbits f.x 8 4 == 0))
  | 0x30 | 0x31 | 0x32 => when (sub ≤ 3) (mk Ty.flt bin x0)
  | 0x33 => when (sub ≤ 3) (mk Ty.flt tri x0)
  | 0x34 | 0x35 => when (sub ≤ 1) (mk Ty.flt bin x0)
  | 0x36 | 0x37 | 0x3E => when (sub == 0) (mk Ty.flt un x0)
  | 0x38 | 0x39 | 0x3C | 0x3D => when (sub == 0) (mk [.f32] un x0)
  | 0x3A | 0x3B => when (sub == 0) (mk [.f32, .f64] bin x0)
  | 0x3F => when (sub == 0) (mk Ty.flt bin x0)
  | 0x40 => when (sub ≤ 1) (mk Ty.int un (intTargets.contains f.x.toNat))
  | 0x41 => when (sub ≤ 3) (mk Ty.int un ([0, 2, 3, 0x19].contains f.x.toNat))
  | 0x42 => when (sub ≤ 3) (mk Ty.flt un (intTargets.contains f.x.toNat))
  | 0x43 => when (sub ≤ 4) (mk Ty.flt un (fltTargets.contains f.x.toNat) (sub == 4))
  | 0x44 =>
    if Ty.flt.contains f.ty then when (sub ≤ 4) (mk Ty.flt bin ((fltElems ++ intElems).contains f.x.toNat) (sub == 4))
    else when (sub == 0) (mk [.i16, .i32, .i64, .n16, .n32, .n64] bin (intElems.contains f.x.toNat))
  | 0x45 => when (sub ≤ 1)
      (mk [.f32, .f64, .i32, .i64, .n32, .n64] un
        (if Ty.flt.contains f.ty then fltElems.contains f.x.toNat else intElems.contains f.x.toNat))
  | 0x46 | 0x47 =>
    let xOk := if op == 0x46 then x0 else xbits f.x 1 11 == 0
    if sub ≤ 2 then mk Ty.int un xOk
    else if sub ≤ 5 then mk Ty.log un xOk
    else when (8 ≤ sub && sub ≤ 10) (mk Ty.flt un xOk)
  | 0x48 => when (sub ≤ 2) (mk (Ty.log ++ Ty.flt) (un ++ [(1, true)]) (xbits f.x 6 6 == 0))
  | 0x49 => when (sub == 0) (mk (Ty.log ++ Ty.flt ++ [.p]) un (xbits f.x 5 7 == 0))
  | 0x4A => when (sub ≤ 2) (mk [.n64, .n32, .i32, .i64] [(0, false), (1, false)] x0)
  | _ => none

/-- Group 0x5 (R189). -/
def rowBuf (op sub : Nat) (x : BitVec 12) : Option Row :=
  let x0 := x == 0
  let xMt := xbits x 1 11 == 0
  match op, sub with
  | 0x50, 0 => some { tys := [.h], arkc := [(0, true), (1, false), (1, true)], d0 := true, xOk := xMt }
  | 0x51, 0 => some { tys := [.h], arkc := un, d1 := true, xOk := x0 }
  | 0x52, 0 => some { tys := [.h], arkc := un, d0 := true, d1 := true, xOk := x0 }
  | 0x53, 0 => some { tys := [.h], arkc := [(2, false)], d1 := true, xOk := x0 }
  | 0x54, 0 | 0x54, 1 => some { tys := [.h], arkc := bin, d0 := true, d1 := true, xOk := x0 }
  | 0x55, 0 => some { tys := [.h], arkc := un, d0 := true, d1 := true, xOk := x0 }
  | 0x55, 1 => some { tys := [.h], arkc := [(2, false)], d0 := true, xOk := x0 }
  | 0x56, 0 => some { tys := [.b64], arkc := un, d0 := true, d1 := true, xOk := xMt }
  | 0x57, 0 => some { tys := [.b64], arkc := tri, d0 := true, d1 := true, xOk := x0 }
  | 0x58, 0 => some { tys := [.b64], arkc := un, d0 := true, d1 := true, xOk := xMt }
  | 0x59, 0 => some { tys := [.b64], arkc := bin, d0 := true, d1 := true, xOk := x0 }
  | 0x5A, 0 => some { tys := [.b64], arkc := tri, d0 := true, xOk := x0 }
  | 0x5B, 0 => some { tys := [.b64], arkc := bin, d0 := true, xOk := x0 }
  | _, _ => none

/-- Group 0x6 (R208). -/
def rowTile (op sub : Nat) (x : BitVec 12) : Option Row :=
  let mk (arkc : List (Nat × Bool)) (xOk : Bool) (ckUse : Bool := false) (ty : Ty := .h) : Option Row :=
    some { tys := [ty], arkc := arkc, ckUse := ckUse, d0 := true, d1 := true, xOk := xOk }
  let three : List (Nat × Bool) := [(3, false)]
  let two : List (Nat × Bool) := [(2, false)]
  let when (c : Bool) (r : Option Row) : Option Row := if c then r else none
  match op with
  | 0x60 | 0x61 | 0x62 | 0x63 => when (sub == 0) (mk three (tileX x 3 true false false false))
  | 0x64 => when (sub ≤ 2) (mk tri (tileX x 3 true false false false))
  | 0x65 => when (sub ≤ 3) (mk three (tileX x 0 false false false false))
  | 0x66 => when (sub ≤ 9) (mk two (tileX x 3 false false false false))
  | 0x67 => when (sub ≤ 3) (mk two (tileX x 3 true true true false))
  | 0x68 => when (sub == 0) (mk two (tileX x 4 false true false false) (xbits x 0 3 == 4))
  | 0x69 => when (sub == 0) (mk [(2, false), (3, false)]
      (xbits x 0 3 ≤ 3 && xbits x 3 4 == 0 && xbits x 10 2 == 0) true)
  | 0x6A => when (sub == 0) (mk un (tileX x 0 false false false true) true .b64)
  | 0x6B => when (sub == 0) (mk two (tileX x 0 false false false true))
  | 0x6C => when (sub ≤ 7) (mk three (tileX x 0 false false false false))
  | 0x6D => when (sub == 0) (mk three (tileX x 3 true false false false))
  | _ => none

/-- Group 0x7 (R225). -/
def rowSop (op sub : Nat) (x : BitVec 12) : Option Row :=
  match op with
  | 0x70 =>
    if sub ≤ 11 then
      some { tys := [.h], arkc := if [0, 3, 4, 5, 8, 9].contains sub then [(2, false)] else [(3, false)],
             ckUse := sopNpw sub != 0, d0 := true, d1 := true,
             xOk := xbits x 10 2 == 0 && (xbits x 5 1 == 1 || xbits x 6 4 == 0)
                      && (xbits x 5 1 == 0 || xbits x 6 4 != xbits x 0 4) }
    else none
  | 0x71 => if sub == 0 then some { tys := [.n64], arkc := un ++ [(1, true)], d1 := true, xOk := xbits x 5 7 == 0 } else none
  | 0x72 => if sub ≤ 1 then some { tys := [.b64], arkc := un, d1 := true, xOk := xbits x 5 7 == 0 } else none
  | 0x73 => if sub == 0 then some { tys := [.b64], arkc := un, d1 := true, xOk := xbits x 7 5 == 0 } else none
  | _ => none

/-- Group 0x8 (R245). -/
def rowMx (op sub : Nat) (x : BitVec 12) : Option Row :=
  let x0 := x == 0
  match op, sub with
  | 0x80, 0 | 0x81, 0 | 0x82, 0 | 0x83, 0 | 0x83, 1 | 0x83, 2 =>
    some { tys := [.h], arkc := tri, d0 := true, d1 := true, xOk := x0 }
  | 0x84, 0 => some { tys := [.h], arkc := bin, d0 := true, d1 := true, xOk := xbits x 0 4 == 0 && xbits x 5 7 == 0 }
  | 0x85, 0 | 0x85, 1 =>
    some { tys := [.h], arkc := bin, d0 := true, d1 := true, xOk := xbits x 0 3 ≤ 3 && xbits x 3 1 == 0 && xbits x 5 7 == 0 }
  | 0x86, 0 => some { tys := [.b64], arkc := bin, d1 := true, xOk := x0 }
  | 0x87, 0 => some { tys := [.b64], arkc := un, d1 := true, xOk := x0 }
  | 0x88, 0 => some { tys := [.n64], arkc := un, d0 := true, xOk := x0 }
  | 0x89, 0 => some { tys := [.b64], arkc := un, d1 := true, xOk := x0 }
  | _, _ => none

/-- Groups 0x9 and 0xA (R288, R294). -/
def rowMem (op sub : Nat) (x : BitVec 12) : Option Row :=
  let cpX (d : Bool) := xbits x 4 8 == 0 && (d || xbits x 3 1 == 0)
  match op, sub with
  | 0x90, 0 => some { tys := Ty.lt, arkc := un, d0 := true, d1 := true, xOk := memX x [0, 1, 2] true }
  | 0x91, 0 => some { tys := Ty.lt, arkc := bin, d1 := true, xOk := memX x [0, 2] false }
  | 0x92, 0 | 0x94, 0 => some { tys := [.h], arkc := tri, d0 := true, d1 := true, xOk := memX x [0, 2] true }
  | 0x93, 0 | 0x95, 0 => some { tys := [.h], arkc := tri, d0 := true, d1 := true, xOk := memX x [0, 2] false }
  | 0x96, 0 => some { tys := [.va], arkc := tri, d1 := true, xOk := memX x [1] false }
  | 0x96, 1 => some { tys := [.va], arkc := un, d1 := true, xOk := memX x [1] false }
  | 0x97, 0 => some { tys := [.b64], arkc := upTo3, d0 := true, xOk := memX x [0] false }
  | 0xA0, 0 => some { tys := [.h], arkc := tri, d0 := true, d1 := true, xOk := cpX true }
  | 0xA0, 1 => some { tys := [.h], arkc := tri, d0 := true, d1 := true, xOk := cpX false }
  | 0xA1, 0 | 0xA1, 1 => some { tys := [.h], arkc := [(3, false)], ckUse := true, d0 := true, d1 := true, xOk := cpX false }
  | 0xA2, 0 | 0xA3, 0 => some { tys := [.n64], arkc := un, d0 := true, xOk := cpX false }
  | 0xA4, 0 => some { tys := [.b64], arkc := un, d0 := true, d1 := true, xOk := cpX false }
  | _, _ => none

/-- Group 0xB (R322, R323). -/
def rowHome (op sub : Nat) (x : BitVec 12) : Option Row :=
  let rs := sub % 4
  let vr := sub / 4
  let xOk := memX x [0, 2] false
  let mk (tys : List Ty) (arkc : List (Nat × Bool)) (varMax : Nat) (d0 : Bool := true) (ckUse : Bool := false) : Option Row :=
    if vr ≤ varMax then some { tys := tys, arkc := arkc, ckUse := ckUse, d0 := d0, d1 := true, xOk := xOk } else none
  match op with
  | 0xB0 => mk Ty.ai bin 0
  | 0xB1 => mk [.f32, .bf16] bin 0
  | 0xB2 | 0xB3 => mk Ty.ai bin 0
  | 0xB4 => mk [.b64, .n32, .n64] bin 2
  | 0xB5 => mk Ty.wAny bin 0
  | 0xB6 => mk Ty.wAny tri 0
  | 0xB7 => mk [.n64, .n32] bin 1
  | 0xB8 => mk Ty.wAny [(3, false)] 0 true true
  | 0xB9 => mk Ty.ai [(3, false)] 0 true true
  | 0xBA | 0xBC => mk [.b64] un 0
  | 0xBB => mk [.b64] bin 0
  | 0xBD => mk [.b64] un 0 false
  | 0xBE => if rs == 0 then mk (Ty.ai ++ [.f32, .bf16]) bin 2 false else none
  | _ => none

/-- Groups 0xC, 0xD and 0xE, but for CFGNEXT and CFGLOAD (R268, R312, R359, R382, R399, R415, R431). -/
def rowSys (op sub : Nat) (x : BitVec 12) : Option Row :=
  let x0 := x == 0
  let mk (tys : List Ty) (arkc : List (Nat × Bool)) (d0 d1 : Bool) (subMax : Nat := 0) (xOk : Bool := x0) : Option Row :=
    if sub ≤ subMax then some { tys := tys, arkc := arkc, d0 := d0, d1 := d1, xOk := xOk } else none
  match op with
  | 0xC0 | 0xC1 => mk [.va] bin true true
  | 0xC2 => mk [.n64] un true false
  | 0xC3 => mk [.va] ([(2, false)] ++ tri) true true
  | 0xC4 => mk [.va] bin false true
  | 0xC5 => mk [.va] un true true 3
  | 0xC6 => mk [.va] bin true true
  | 0xC7 => mk [.n64] un true false 4
  | 0xC8 => mk [.n64] un true true 4
  | 0xCA => mk [.n64] un true true 3
  | 0xD0 => mk [.b64] upTo3 true true 4
  | 0xD1 => mk [.b64] un true true 0 true
  | 0xD2 => mk [.va] (un ++ [(1, true)]) true true 1
  | 0xD3 =>
    if sub == 0 then mk [.n64] unOrK true false 0 (x.toNat ≤ 3) else mk [.va] unOrK true false 1 (x.toNat ≤ 7)
  | 0xD4 =>
    if sub == 0 then mk [.va] unOrK true true 0 (xbits x 6 6 == 0) else mk [.h] un true true 1 (xbits x 6 6 == 0)
  | 0xE0 => mk [.b64] unOrK false (sub == 1) 1 true
  | 0xE1 => mk [.n64] unOrK true false
  | 0xE2 => mk [.n64] bin false true
  | 0xE3 => mk [.n64] [(3, false)] true true
  | 0xE4 => mk [.va] [(2, false)] true true
  | 0xE6 => if sub == 0 then mk [.n64] unOrK true true else mk [.n64] un true true 1
  | 0xE7 | 0xE8 | 0xE9 => mk [.n64] un true true
  | 0xEA => mk [.va] bin true true 1
  | 0xEB => if sub == 0 then mk [.va] [(2, false)] true true else mk [.n64] un true true 1
  | 0xEC => if sub == 0 then mk [.va] bin false true else mk [.n64] un false true 1
  | _ => none

/-- The encoding-table row of an opcode and its SUB; none where SUB is not accepted. -/
def rowOf (op : Nat) (f : Fields) : Option Row :=
  let sub := f.sub.toNat
  if op < 0x10 || op == 0xC9 || op == 0xE5 then rowFlow op sub f.x
  else if op < 0x50 then rowLane op f
  else if op < 0x60 then rowBuf op sub f.x
  else if op < 0x70 then rowTile op sub f.x
  else if op < 0x80 then rowSop op sub f.x
  else if op < 0x90 then rowMx op sub f.x
  else if op < 0xB0 then rowMem op sub f.x
  else if op < 0xC0 then rowHome op sub f.x
  else rowSys op sub f.x

/-- Whether an opcode is assigned (R52). -/
def assigned (op : Nat) : Bool :=
  op < 0x2D || (0x30 ≤ op && op < 0x4B) || (0x50 ≤ op && op < 0x5C) || (0x60 ≤ op && op < 0x6E) || (0x70 ≤ op && op < 0x74)
    || (0x80 ≤ op && op < 0x8A) || (0x90 ≤ op && op < 0x98) || (0xA0 ≤ op && op < 0xA5) || (0xB0 ≤ op && op < 0xBF)
    || (0xC0 ≤ op && op < 0xCB) || (0xD0 ≤ op && op < 0xD5) || (0xE0 ≤ op && op < 0xED)

/-- A destination present only where the row defines a use for it, with a port below 3 (R50). -/
def destOk (allowed : Bool) (d : Option Dest) : Bool :=
  match d with
  | none => true
  | some d => allowed && d.port != 3

/-- The first check that a word fails, by itself (R55 steps 8 and 10). -/
def wordFault (op : Nat) (f : Fields) : Option BadWord :=
  if !assigned op then some .op
  else match rowOf op f with
    | none => some .sub
    | some r =>
      if !r.tys.contains f.ty then some .ty
      else if !r.arkc.contains (f.ar.toNat, f.kc) then some .arkc
      else if f.ar.toNat < 2 && f.sl != 0 then some .sl
      else if !f.kc && !r.ckUse && f.ck != 0 then some .ck
      else if !destOk r.d0 f.d0 || (op == 0x09 && f.d0.isNone) then some .d0
      else if !destOk r.d1 f.d1 then some .d1
      else if !r.xOk then some .x
      else none

/-- An instruction is well formed when its word passes every check it can be given by itself, and its opcode and SUB name that
instruction (R52); an event always is. -/
def Instr.wf (i : Instr) : Bool :=
  match i.word? with
  | none => true
  | some (op, f) => (wordFault op f).isNone && Instr.ofOp op f == some i

/-- The system instructions of R54, by opcode. -/
def isSystemOp (op : Nat) : Bool := [0xE1, 0xE2, 0xE3, 0xE4, 0xE8, 0xE9, 0xEA, 0xEB, 0xEC].contains op

end Sys2Proof
end

