-- ==== Sys2Proof/Machine/Num.lean ====
section
/-! DEFINITION. Number formats and exact arithmetic (R71 to R92): values are exact binary fractions, and each result is
rounded once. -/

namespace Sys2Proof.Machine

/-- An exact value: NaN, a signed infinity, or (-1)^neg * m * 2^e with m = 0 a signed zero. -/
inductive Ex where
  | nan
  | inf (neg : Bool)
  | fin (neg : Bool) (m : Nat) (e : Int)
deriving DecidableEq, Repr

/-- The rounding modes of R76; `sr` carries G, bits 31:16 of the generator's state (R92). -/
inductive RMode where
  | rn | rz | ru | rd
  | sr (g : Nat)
deriving DecidableEq, Repr

/-- The directed and nearest modes by code (R76). -/
def RMode.ofCode (n : Nat) : RMode :=
  match n with
  | 0 => .rn | 1 => .rz | 2 => .ru | _ => .rd

/-- Which special encodings a floating format has (R73, R79). -/
inductive Special where
  | ieee | nanOnly | none
deriving DecidableEq, Repr

/-- A floating format: exponent and fraction bits, bias, specials, and the low bits of its container that hold nothing
(R73, R79, R80). -/
structure Fmt where
  eb   : Nat
  fb   : Nat
  bias : Nat
  spec : Special := .ieee
  pad  : Nat := 0
deriving DecidableEq, Repr

namespace Fmt
/-- f16 and FP16 (R73). -/
def f16 : Fmt := { eb := 5, fb := 10, bias := 15 }
/-- bf16 and BF16 (R73). -/
def bf16 : Fmt := { eb := 8, fb := 7, bias := 127 }
/-- f32 and FP32 (R73). -/
def f32 : Fmt := { eb := 8, fb := 23, bias := 127 }
/-- f64 (R73). -/
def f64 : Fmt := { eb := 11, fb := 52, bias := 1023 }
/-- FP19 in its 32-bit container (R80). -/
def fp19 : Fmt := { eb := 8, fb := 10, bias := 127, pad := 13 }
/-- E4M3 (R79). -/
def e4m3 : Fmt := { eb := 4, fb := 3, bias := 7, spec := .nanOnly }
/-- E5M2 (R79). -/
def e5m2 : Fmt := { eb := 5, fb := 2, bias := 15 }
/-- E3M2 (R79). -/
def e3m2 : Fmt := { eb := 3, fb := 2, bias := 3, spec := .none }
/-- E2M3 (R79). -/
def e2m3 : Fmt := { eb := 2, fb := 3, bias := 1, spec := .none }
/-- E2M1 (R79). -/
def e2m1 : Fmt := { eb := 2, fb := 1, bias := 1, spec := .none }

/-- The width in bits, the container's padding included. -/
def width (f : Fmt) : Nat := 1 + f.eb + f.fb + f.pad
/-- The magnitude bits of the largest finite value, without padding. -/
def maxMag (f : Fmt) : Nat :=
  match f.spec with
  | .ieee => (2 ^ f.eb - 1) * 2 ^ f.fb - 1
  | .nanOnly => 2 ^ (f.eb + f.fb) - 2
  | .none => 2 ^ (f.eb + f.fb) - 1
/-- The canonical NaN (R74, R79), without padding; a format without NaN has +0 here (R89). -/
def nanBits (f : Fmt) : Nat :=
  match f.spec with
  | .ieee => (2 ^ f.eb - 1) * 2 ^ f.fb + 2 ^ (f.fb - 1)
  | .nanOnly => 2 ^ (f.eb + f.fb) - 1
  | .none => 0
/-- The magnitude bits of infinity in a format that has it. -/
def infMag (f : Fmt) : Nat := (2 ^ f.eb - 1) * 2 ^ f.fb
end Fmt

/-- The number of bits of a number: 0 for 0. -/
def bitLen (n : Nat) : Nat := if n = 0 then 0 else n.log2 + 1

/-- The exact value of a format's bits (R73, R79, R80). -/
def Fmt.decode (f : Fmt) (bits : Nat) : Ex :=
  let b := bits / 2 ^ f.pad
  let frac := b % 2 ^ f.fb
  let ex := b / 2 ^ f.fb % 2 ^ f.eb
  let neg := b / 2 ^ (f.eb + f.fb) % 2 == 1
  let fin : Ex :=
    if ex = 0 then .fin neg frac (1 - (f.bias : Int) - f.fb)
    else .fin neg (2 ^ f.fb + frac) ((ex : Int) - f.bias - f.fb)
  match f.spec with
  | .ieee => if ex = 2 ^ f.eb - 1 then (if frac = 0 then .inf neg else .nan) else fin
  | .nanOnly => if ex = 2 ^ f.eb - 1 && frac = 2 ^ f.fb - 1 then .nan else fin
  | .none => fin

/-- Rounding m * 2^e, m positive, to a multiple of 2^qe under a mode: the multiple (R76, R92). -/
def roundQuot (mode : RMode) (neg : Bool) (m : Nat) (e qe : Int) : Nat :=
  if qe ≤ e then m * 2 ^ (e - qe).toNat
  else
    let sh := (qe - e).toNat
    let q := m / 2 ^ sh
    let r := m % 2 ^ sh
    if r = 0 then q
    else match mode with
      | .rn => if 2 * r > 2 ^ sh || (2 * r = 2 ^ sh && q % 2 = 1) then q + 1 else q
      | .rz => q
      | .ru => if neg then q else q + 1
      | .rd => if neg then q + 1 else q
      | .sr g => if r * 2 ^ 16 / 2 ^ sh + g ≥ 2 ^ 16 then q + 1 else q

/-- The magnitude bits to which m * 2^e, m positive, rounds, the exponent range taken as unbounded above. -/
def Fmt.roundMag (f : Fmt) (mode : RMode) (neg : Bool) (m : Nat) (e : Int) : Nat :=
  let emin : Int := 1 - (f.bias : Int)
  let lg : Int := (m.log2 : Int) + e
  let qe : Int := (if lg < emin then emin else lg) - f.fb
  let q := roundQuot mode neg m e qe
  -- in units of 2^qe the value q sits `qe - (emin - fb)` binades above the lowest
  if q < 2 ^ f.fb then q
  else q + (qe - (emin - f.fb)).toNat * 2 ^ f.fb

/-- What a magnitude beyond the largest finite becomes under R77. -/
def Fmt.overflow (f : Fmt) (mode : RMode) (neg : Bool) : Nat :=
  match mode with
  | .rn => f.infMag
  | .rz | .sr _ => f.maxMag
  | .ru => if neg then f.maxMag else f.infMag
  | .rd => if neg then f.infMag else f.maxMag

/-- The bits of a sign and a magnitude, padding included. -/
def Fmt.pack (f : Fmt) (neg : Bool) (mag : Nat) : Nat :=
  ((if neg then 2 ^ (f.eb + f.fb) else 0) + mag) * 2 ^ f.pad

/-- Rounding an exact value once to a format (R76, R77); `sat` applies R89 in place of R77. -/
def Fmt.encode (f : Fmt) (mode : RMode) (sat : Bool) (v : Ex) : Nat :=
  match v with
  | .nan => f.pack false f.nanBits
  | .inf neg => if f.spec == .ieee then f.pack neg f.infMag else f.pack neg f.maxMag
  | .fin neg m e =>
    if m = 0 then f.pack neg 0
    else
      let mag := f.roundMag mode neg m e
      if mag ≤ f.maxMag then f.pack neg mag
      else if sat || f.spec != .ieee then f.pack neg f.maxMag
      else f.pack neg (f.overflow mode neg)

/-- Whether a format's own width makes a conversion to it saturate (R89). -/
def Fmt.narrow (f : Fmt) : Bool := f.width ≤ 8

/-! ## Exact arithmetic -/

/-- A signed integer times 2^e as an exact value; zero is +0. -/
def Ex.ofInt (i : Int) (e : Int) : Ex := .fin (decide (i < 0)) i.natAbs e

/-- The negation of a value. -/
def Ex.neg : Ex → Ex
  | .nan => .nan
  | .inf n => .inf (!n)
  | .fin n m e => .fin (!n) m e

/-- The exact product (R94, R157): NaN for NaN and for 0 times infinity. -/
def Ex.mul : Ex → Ex → Ex
  | .nan, _ | _, .nan => .nan
  | .inf a, .inf b => .inf (a != b)
  | .inf a, .fin b m _ => if m = 0 then .nan else .inf (a != b)
  | .fin a m _, .inf b => if m = 0 then .nan else .inf (a != b)
  | .fin a m e, .fin b n g => .fin (a != b) (m * n) (e + g)

/-- The least exponent of the finite values of a list. -/
def minExp (l : List Ex) (e0 : Int) : Int :=
  l.foldl (fun acc v => match v with | .fin _ m e => if m ≠ 0 ∧ e < acc then e else acc | _ => acc) e0

/-- The signed integer that a finite value is in units of 2^g, g at most its exponent. -/
def Ex.scaled (g : Int) : Ex → Int
  | .fin n m e => if m = 0 then 0 else (if n then -1 else 1) * ((m * 2 ^ (e - g).toNat : Nat) : Int)
  | _ => 0

/-- The exact sum of any number of values, with the sign of an exact zero under a mode (R77, R94). -/
def exSum (mode : RMode) (l : List Ex) : Ex :=
  if l.any (· == .nan) then .nan
  else if l.contains (.inf true) && l.contains (.inf false) then .nan
  else if l.contains (.inf true) then .inf true
  else if l.contains (.inf false) then .inf false
  else
    let g := minExp l 5000
    let t := l.foldl (fun acc v => acc + v.scaled g) (0 : Int)
    if t ≠ 0 then Ex.ofInt t g
    else
      let isZ (s : Bool) (v : Ex) : Bool := match v with | .fin n m _ => n == s && m == 0 | _ => false
      if l.all (isZ true) then .fin true 0 0
      else if l.all (isZ false) then .fin false 0 0
      else .fin (mode == .rd) 0 0

/-- The square root rounded down, bit by bit from bit k - 1. -/
def isqrtAux (n : Nat) : Nat → Nat → Nat
  | 0, r => r
  | k + 1, r => if (r + 2 ^ k) * (r + 2 ^ k) ≤ n then isqrtAux n k (r + 2 ^ k) else isqrtAux n k r
/-- The square root rounded down. -/
def isqrt (n : Nat) : Nat := isqrtAux n (bitLen n / 2 + 1) 0

/-- A positive quotient a / b * 2^e to 160 or more bits, its lowest bit telling whether anything was dropped. -/
def quotSticky (neg : Bool) (a b : Nat) (e : Int) : Ex :=
  let sh := 160 + bitLen b
  let q := a * 2 ^ sh / b
  let r := a * 2 ^ sh % b
  .fin neg (2 * q + (if r = 0 then 0 else 1)) (e - sh - 1)

/-- The quotient of R159, with enough bits to round once. -/
def Ex.div : Ex → Ex → Ex
  | .nan, _ | _, .nan => .nan
  | .inf _, .inf _ => .nan
  | .inf a, .fin b _ _ => .inf (a != b)
  | .fin a _ _, .inf b => .fin (a != b) 0 0
  | .fin a m e, .fin b n g =>
    if n = 0 then (if m = 0 then .nan else .inf (a != b))
    else if m = 0 then .fin (a != b) 0 0
    else quotSticky (a != b) m n (e - g)

/-- √(a / b) * 2^(e / 2) for an even e, with enough bits to round once. -/
def sqrtSticky (a b : Nat) (e : Int) : Ex :=
  let sh := 2 * (160 + bitLen b)
  let n := a * 2 ^ sh / b
  let r := isqrt n
  .fin false (2 * r + (if r * r * b = a * 2 ^ sh then 0 else 1)) (e / 2 - sh / 2 - 1)

/-- The square root of R159. -/
def Ex.sqrt : Ex → Ex
  | .nan => .nan
  | .inf false => .inf false
  | .inf true => .nan
  | .fin n m e =>
    if m = 0 then .fin n 0 0
    else if n then .nan
    else if e % 2 = 0 then sqrtSticky m 1 e else sqrtSticky (2 * m) 1 (e - 1)

/-- Whether a is numerically below b, neither a NaN; zeros are equal. -/
def Ex.lt (a b : Ex) : Bool :=
  match a, b with
  | .nan, _ | _, .nan => false
  | .inf x, .inf y => x && !y
  | .inf x, .fin _ _ _ => x
  | .fin _ _ _, .inf y => !y
  | .fin _ _ _, .fin _ _ _ =>
    let g := minExp [a, b] 5000
    decide (a.scaled g < b.scaled g)

/-- Numerical equality; false for a NaN (R155). -/
def Ex.eq (a b : Ex) : Bool := a != .nan && b != .nan && !a.lt b && !b.lt a

/-- Whether a value carries the sign bit. -/
def Ex.isNeg : Ex → Bool
  | .nan => false
  | .inf n => n
  | .fin n _ _ => n

/-- The order of R158, in which -0 stands below +0. -/
def Ex.below (a b : Ex) : Bool := a.lt b || (a.eq b && a.isNeg && !b.isNeg)

/-- The smaller of two values, a NaN winning (R158 SUB 0, R97). -/
def Ex.min (a b : Ex) : Ex := if a == .nan || b == .nan then .nan else if b.below a then b else a
/-- The larger of two values, a NaN winning (R158 SUB 0, R97). -/
def Ex.max (a b : Ex) : Ex := if a == .nan || b == .nan then .nan else if a.below b then b else a
/-- minimumNumber of R158. -/
def Ex.minNum (a b : Ex) : Ex := if a == .nan then b else if b == .nan then a else Ex.min a b
/-- maximumNumber of R158. -/
def Ex.maxNum (a b : Ex) : Ex := if a == .nan then b else if b == .nan then a else Ex.max a b

/-- floor(log2 |v|) of a finite nonzero value (R91). -/
def Ex.log2? : Ex → Option Int
  | .fin _ m e => if m = 0 then none else some ((m.log2 : Int) + e)
  | _ => none

/-- A value times 2^k. -/
def Ex.scale (k : Int) : Ex → Ex
  | .fin n m e => .fin n m (e + k)
  | v => v

/-! ## Integers -/

/-- Whether a type is a two's-complement integer (R48). -/
def isSigned : Ty → Bool
  | .i8 | .i16 | .i32 | .i64 => true
  | _ => false

/-- The least integer of a type of width w. -/
def loOf (sg : Bool) (w : Nat) : Int := if sg then -(2 ^ (w - 1) : Int) else 0
/-- The greatest integer of a type of width w. -/
def hiOf (sg : Bool) (w : Nat) : Int := if sg then 2 ^ (w - 1) - 1 else 2 ^ w - 1
/-- An integer clamped to a range. -/
def clampI (lo hi i : Int) : Int := if i < lo then lo else if hi < i then hi else i

/-- The integer that w low bits denote. -/
def bitsInt (sg : Bool) (w n : Nat) : Int :=
  let u := n % 2 ^ w
  if sg && u / 2 ^ (w - 1) == 1 then (u : Int) - 2 ^ w else u

/-- Rounding a value to an integer and saturating it (R90): NaN gives 0. -/
def exToInt (mode : RMode) (lo hi : Int) : Ex → Int
  | .nan => 0
  | .inf n => if n then lo else hi
  | .fin n m e =>
    if m = 0 then clampI lo hi 0
    else
      let q : Int := (roundQuot mode n m e 0 : Nat)
      clampI lo hi (if n then -q else q)

/-! ## Approximations to 12 significant bits (R75, R160) -/

/-- An exact value rounded to 12 significant bits, ties to even, with an unbounded exponent (R75). -/
def round12 : Ex → Ex
  | .fin n m e =>
    if m = 0 then .fin n 0 0
    else
      let qe : Int := (m.log2 : Int) + e - 11
      .fin n (roundQuot .rn n m e qe) qe
  | v => v

/-- The f32 bits of a 12-bit result under the two range rules of R160. -/
def range12 : Ex → Nat
  | .fin n m e =>
    if m = 0 then Fmt.f32.pack n 0
    else if (m.log2 : Int) + e ≥ 128 then Fmt.f32.pack n Fmt.f32.infMag
    else if (m.log2 : Int) + e < -126 then Fmt.f32.pack n 0
    else Fmt.f32.encode .rn false (.fin n m e)
  | .inf n => Fmt.f32.pack n Fmt.f32.infMag
  | .nan => Fmt.f32.pack false Fmt.f32.nanBits

/-- RCPA (R160). -/
def rcpa (x : Ex) : Nat :=
  match x with
  | .nan => range12 .nan
  | .inf n => range12 (.fin n 0 0)
  | .fin n m e => if m = 0 then range12 (.inf n) else range12 (round12 (quotSticky n 1 m (-e)))

/-- RSQA (R160). -/
def rsqa (x : Ex) : Nat :=
  match x with
  | .nan => range12 .nan
  | .inf n => if n then range12 .nan else range12 (.fin false 0 0)
  | .fin n m e =>
    if m = 0 then range12 (.inf n)
    else if n then range12 .nan
    else if e % 2 = 0 then range12 (round12 (sqrtSticky 1 m (-e)))
    else range12 (round12 (sqrtSticky 1 (2 * m) (1 - e)))

/-- Fractional bits of the fixed-point work of EXPA and LOGA. -/
def apxBits : Nat := 120

/-- A lower bound of 2^f in units of 2^-120, where the bits of f stand in `f` from bit i - 1 down, and c is the root
2^(1/2) of the highest; each step takes the next square root. -/
def exp2Aux (f : Nat) : Nat → Nat → Nat → Nat
  | 0, _, acc => acc
  | i + 1, c, acc =>
    exp2Aux f i (isqrt (c * 2 ^ apxBits)) (if f / 2 ^ i % 2 == 1 then acc * c / 2 ^ apxBits else acc)

/-- The rounding of a value known to lie between two bounds; the open fallback where the bounds round apart. -/
def pinned (op : Nat) (x : Word) (lo hi : Ex) : Nat :=
  if range12 (round12 lo) = range12 (round12 hi) then range12 (round12 lo)
  else (Config.unstated op x).toNat % 2 ^ 32

/-- EXPA (R160). -/
def expa (bits : Nat) : Nat :=
  match Fmt.f32.decode bits with
  | .nan => range12 .nan
  | .inf n => if n then range12 (.fin false 0 0) else range12 (.inf false)
  | .fin n m e =>
    if m = 0 then range12 (.fin false 1 0)
    else if (m.log2 : Int) + e ≥ 8 then (if n then range12 (.fin false 0 0) else range12 (.inf false))
    else
      -- |x| < 256: x in units of 2^-80, cut toward minus infinity
      let a := roundQuot (if n then .ru else .rz) false m e (-80)
      let i : Int := if n then -(a : Int) else a
      let ip : Int := i / 2 ^ 80
      let fp : Nat := (i % 2 ^ 80).toNat
      let exact := e ≥ -80 ∨ (m % 2 ^ (-80 - e).toNat = 0)
      if fp = 0 ∧ exact then range12 (round12 (.fin false 1 ip))
      else
        let lo := exp2Aux fp 80 (isqrt (2 ^ (2 * apxBits + 1))) (2 ^ apxBits)
        pinned 0 (BitVec.ofNat 64 bits) (.fin false lo (ip - apxBits)) (.fin false (lo + 2 ^ 48) (ip - apxBits))

/-- The bits of log2(y / 2^300) for y / 2^300 in 1 to 2, by repeated squaring. -/
def log2Aux : Nat → Nat → Nat → Nat
  | 0, _, acc => acc
  | k + 1, y, acc =>
    let z := y * y / 2 ^ 300
    if z ≥ 2 ^ 301 then log2Aux k (z / 2) (2 * acc + 1) else log2Aux k z (2 * acc)

/-- LOGA (R160). -/
def loga (bits : Nat) : Nat :=
  match Fmt.f32.decode bits with
  | .nan => range12 .nan
  | .inf n => if n then range12 .nan else range12 (.inf false)
  | .fin n m e =>
    if m = 0 then range12 (.inf true)
    else if n then range12 .nan
    else
      let ip : Int := (m.log2 : Int) + e
      if m = 2 ^ m.log2 then range12 (round12 (Ex.ofInt ip 0))
      else
        let fr := log2Aux apxBits (m * 2 ^ (300 - m.log2)) 0
        let v : Int := ip * 2 ^ apxBits + fr
        pinned 1 (BitVec.ofNat 64 bits) (Ex.ofInt v (-(apxBits : Int))) (Ex.ofInt (v + 2) (-(apxBits : Int)))

/-! ## Stochastic rounding (R92) -/

/-- The seed of a row's generator. -/
def srSeed (k : Word) (row : Nat) : Nat :=
  let x := (k.toNat + row) % 2 ^ 32
  if x = 0 then 0x80000000 else x

/-- One Step of the generator. -/
def srStep (x : Nat) : Nat :=
  let x := x ^^^ (x <<< 13) % 2 ^ 32
  let x := x ^^^ (x >>> 17)
  x ^^^ (x <<< 5) % 2 ^ 32

/-- G of a state (R92). -/
def srG (x : Nat) : Nat := x / 2 ^ 16

end Sys2Proof.Machine
end

