-- ==== Sys2Proof/Machine/Real.lean ====
section
/-! DEFINITION. The functions of TACT (R210), each correctly rounded to 12 significant bits (R75): real functions are bounded in
fixed point with 420 fractional bits, far tighter than any 12-bit rounding needs; where the bounds still round apart the
value is open (log entry 11). -/

namespace Sys2Proof.Machine

/-- Fractional bits of the fixed-point work. -/
def fpBits : Nat := 420
/-- One, in fixed point. -/
def fpOne : Nat := 2 ^ fpBits
/-- A fixed-point product. -/
def fpMul (a b : Nat) : Nat := a * b / fpOne

/-- Terms of the series of ln 2 = Σ 1 / (k 2^k). -/
def ln2Aux : Nat → Nat → Nat → Nat
  | 0, _, acc => acc
  | n + 1, k, acc => ln2Aux n (k + 1) (acc + fpOne / 2 ^ k / k)
/-- ln 2 in fixed point. -/
def fpLn2 : Nat := ln2Aux 440 1 0

/-- Terms of the series of arctan (1 / q). -/
def atanAux (q : Nat) : Nat → Nat → Nat → Int → Int
  | 0, _, _, acc => acc
  | n + 1, k, p, acc =>
    let t : Int := (p / (2 * k + 1) : Nat)
    atanAux q n (k + 1) (p / (q * q)) (if k % 2 = 0 then acc + t else acc - t)
/-- π in fixed point, by Machin's formula. -/
def fpPi : Nat := (16 * atanAux 5 190 0 (fpOne / 5) 0 - 4 * atanAux 239 60 0 (fpOne / 239) 0).toNat

/-- Terms of the series of e^r. -/
def expAux (r : Nat) : Nat → Nat → Nat → Nat → Nat
  | 0, _, _, acc => acc
  | n + 1, k, t, acc => expAux r n (k + 1) (fpMul t r / k) (acc + t)

/-- e^x for a fixed-point x: a mantissa in fixed point and a power of two. -/
def fpExp (x : Int) : Nat × Int :=
  let n : Int := x / fpLn2
  let r := (x - n * fpLn2).toNat
  (expAux r 110 1 fpOne 0, n)

/-- A value in fixed point, |x| below 2^9, cut toward minus infinity. -/
def exFix : Ex → Int
  | .fin n m e =>
    let a := roundQuot (if n then .ru else .rz) false m e (-(fpBits : Int))
    if n then -(a : Int) else a
  | _ => 0

/-- e^x for x in fixed point, rounded down to fixed point with 2 × 420 fractional bits so that small results keep their digits. -/
def fpExpWide (x : Int) : Nat :=
  let p := fpExp x
  (roundQuot .rz false p.1 (p.2 - fpBits) (-(2 * fpBits : Int)))

/-- Terms of Σ x^(2k+1) / (1 · 3 · … · (2k+1)). -/
def phiAux (x2 : Nat) : Nat → Nat → Nat → Nat → Nat
  | 0, _, _, acc => acc
  | n + 1, k, t, acc => phiAux x2 n (k + 1) (fpMul t x2 / (2 * k + 3)) (acc + t)

/-- Φ(|x|) - 1/2 for a fixed-point |x| of at most 14. -/
def fpPhi (a : Nat) : Nat :=
  let s := phiAux (fpMul a a) 900 0 a 0
  let p := fpExpWide (-((fpMul a a / 2 : Nat) : Int)) / fpOne
  let root := isqrt (2 * fpPi * fpOne)
  fpMul s p * fpOne / root

/-- 12-bit rounding with the two range rules of R210: below 2^-126 the sign's zero, from 2^128 the infinity. A nonzero result has a
significand of exactly 12 bits, so that equal values are equal data. -/
def mid12 (v : Ex) : Ex :=
  match round12 v with
  | .fin n m e =>
    if m = 0 then .fin n 0 0
    else if (m.log2 : Int) + e < -126 then .fin n 0 0
    else if (m.log2 : Int) + e ≥ 128 then .inf n
    else if m = 2 ^ 12 then .fin n (2 ^ 11) (e + 1)
    else .fin n m e
  | w => w

/-- The 12-bit value of a quantity between two bounds. -/
def pinned12 (op : Nat) (x : Word) (lo hi : Ex) : Ex :=
  if mid12 lo == mid12 hi then mid12 lo else mid12 (Fmt.f32.decode (Config.unstated op x).toNat)

/-- A value just below (or above) another in magnitude: the same digits with a unit far below them taken off (or added). -/
def nudge (up : Bool) : Ex → Ex
  | .fin n m e => .fin n (if up then m * 2 ^ 300 + 1 else m * 2 ^ 300 - 1) (e - 300)
  | v => v

/-- A positive rational bounded by fixed-point work: num / den · 2^e, the quotient known to one part in 2^k. -/
def ratio (op : Nat) (x : Word) (neg : Bool) (num den : Nat) (e : Int) (k : Nat) : Ex :=
  let sh := 500 + bitLen den
  let q := num * 2 ^ sh / den
  let b := bitLen q
  pinned12 op x (.fin neg (q - q / 2 ^ (min b k)) (e - sh)) (.fin neg (q + q / 2 ^ (min b k) + 1) (e - sh))

/-- |v| at least 2^k, for a finite nonzero v. -/
def atLeast (k : Int) (v : Ex) : Bool :=
  match v.log2? with
  | some l => decide (k ≤ l)
  | none => false

/-- EXP of TACT: e^x (R210). -/
def actExp (w : Word) (v : Ex) : Ex :=
  match v with
  | .nan => .nan
  | .inf n => if n then .fin false 0 0 else .inf false
  | .fin n m _ =>
    if m = 0 then .fin false 1 0
    else if atLeast 8 v then (if n then .fin false 0 0 else .inf false)
    else if !atLeast (-40) v then .fin false 1 0
    else
      let p := fpExp (exFix v)
      ratio 16 w false p.1 1 (p.2 - fpBits) 380

/-- SIGM of TACT: 1 / (1 + e^-x) (R210). -/
def actSigm (w : Word) (v : Ex) : Ex :=
  match v with
  | .nan => .nan
  | .inf n => if n then .fin false 0 0 else .fin false 1 0
  | .fin n m _ =>
    if m = 0 || !atLeast (-40) v then .fin false 1 (-1)
    else if atLeast 8 v then (if n then .fin false 0 0 else .fin false 1 0)
    else
      let a := fpExpWide (-(exFix v).natAbs)
      let one2 := fpOne * fpOne
      -- e^-|x| over 1 + e^-|x| for a negative x
      ratio 17 w false (if n then a else one2) (one2 + a) 0 380

/-- SILU of TACT: x / (1 + e^-x) (R210). -/
def actSilu (w : Word) (v : Ex) : Ex :=
  match v with
  | .nan => .nan
  | .inf n => if n then .fin true 0 0 else .inf false
  | .fin n m e =>
    if m = 0 then v
    else if !atLeast (-40) v then mid12 (nudge (!n) (.fin n m (e - 1)))
    else if atLeast 8 v then (if n then .fin true 0 0 else mid12 (nudge false v))
    else
      let a := fpExpWide (-(exFix v).natAbs)
      let one2 := fpOne * fpOne
      ratio 18 w n (m * (if n then a else one2)) (one2 + a) e 380

/-- TANH of TACT (R210): (1 - e^-2|x|) / (1 + e^-2|x|) with the sign of x. -/
def actTanh (w : Word) (v : Ex) : Ex :=
  match v with
  | .nan => .nan
  | .inf n => .fin n 1 0
  | .fin n m _ =>
    if m = 0 then v
    else if !atLeast (-40) v then mid12 (nudge false v)
    else if atLeast 8 v then .fin n 1 0
    else
      let a := fpExpWide (-(2 * (exFix v).natAbs : Nat))
      let one2 := fpOne * fpOne
      ratio 19 w n (one2 - a) (one2 + a) 0 340

/-- GELU of TACT: x Φ(x) (R210). -/
def actGelu (w : Word) (v : Ex) : Ex :=
  match v with
  | .nan => .nan
  | .inf n => if n then .fin true 0 0 else .inf false
  | .fin n m e =>
    if m = 0 then v
    else if !atLeast (-40) v then mid12 (nudge (!n) (.fin n m (e - 1)))
    else if atLeast 4 v || (exFix v).natAbs > 14 * fpOne then (if n then .fin true 0 0 else mid12 (nudge false v))
    else
      let p := fpPhi (exFix v).natAbs
      let half := fpOne / 2
      ratio 20 w n (m * (if n then half - p else half + p)) fpOne e 240

/-- LOG of TACT: ln x (R210). -/
def actLog (w : Word) (v : Ex) : Ex :=
  match v with
  | .nan => .nan
  | .inf n => if n then .nan else .inf false
  | .fin n m e =>
    if m = 0 then .inf true
    else if n then .nan
    else
      let ip : Int := (m.log2 : Int) + e
      let fr := log2Aux apxBits (m * 2 ^ (300 - m.log2)) 0
      let l : Int := ip * 2 ^ apxBits + fr
      if l = 0 then .fin false 0 0
      else
        let lo := l * fpLn2
        let hi := (l + 2) * (fpLn2 + 2 ^ 12)
        let lo' := if l < 0 then (l + 2) * fpLn2 else lo
        let hi' := if l < 0 then l * (fpLn2 + 2 ^ 12) else hi
        pinned12 21 w (Ex.ofInt lo' (-(apxBits + fpBits : Int))) (Ex.ofInt hi' (-(apxBits + fpBits : Int)))

/-- RCP of TACT: 1 / x (R210). -/
def actRcp (v : Ex) : Ex :=
  match v with
  | .nan => .nan
  | .inf n => .fin n 0 0
  | .fin n m e => if m = 0 then .inf n else mid12 (quotSticky n 1 m (-e))

/-- RSQ of TACT: 1 / √x (R210). -/
def actRsq (v : Ex) : Ex :=
  match v with
  | .nan => .nan
  | .inf n => if n then .nan else .fin false 0 0
  | .fin n m e =>
    if m = 0 then .inf n
    else if n then .nan
    else if e % 2 = 0 then mid12 (sqrtSticky 1 m (-e)) else mid12 (sqrtSticky 1 (2 * m) (1 - e))

/-- TACT's function by SUB, before the final rounding (R210); w is the source's bits. -/
def actFn (sub : Nat) (w : Word) (v : Ex) : Ex :=
  match sub with
  | 0 => v.max (.fin false 0 0)
  | 1 => actGelu w v
  | 2 => actSilu w v
  | 3 => actExp w v
  | 4 => actTanh w v
  | 5 => actSigm w v
  | 6 => actRcp v
  | 7 => actRsq v
  | 8 => actLog w v
  | _ => v.sqrt

end Sys2Proof.Machine
end

