-- ==== Sys2Proof/Machine/State.lean ====
section
/-! DEFINITION. The machine's state: plain data, holding everything the manual gives the module (INVENTORY.md lists it),
and the state right after reset. A sparse table is a list of pairs with keys strictly rising; a key that is not listed
stands for an element at its reset value. A tile is named by its packed number, die in 13:10, x in 9:5, y in 4:0 (R15). -/

namespace Sys2Proof.Machine

/-- A table from numbers to values, keys strictly rising. -/
abbrev AList (α : Type) := List (Nat × α)

/-! ## Values, tokens, firings -/

/-- A poison record (R115). -/
structure PRec where
  w0 : Word
  w1 : Word
deriving DecidableEq, Repr

/-- What one lane of an operand holds: the kind of the token it came in, with its value (R23, R142). -/
inductive LVal where
  | scal (v : Word)
  | runv (v : Word)
  | hand (h : Word)
  | dn
  | pois (r : PRec)
deriving DecidableEq, Repr

/-- The payload of a token (R23); `poison` stands for a payload replaced by its record (PZ = 1). -/
inductive Payload where
  | scalar (v : Word)
  | run (vs : List Word)
  | handle (h : Word)
  | done
  | poison (r : PRec)
deriving DecidableEq, Repr

/-- A token (R22). `link` marks one delivered to a link, which its arrival checks (R128). -/
structure Token where
  dst  : Nat
  ctx  : Nat
  fi   : Nat
  blk  : Nat
  ix   : Nat
  port : Nat
  lb   : Nat
  rl   : Nat
  link : Bool := false
  pay  : Payload
deriving DecidableEq, Repr

/-- The token inputs of a compute tile (R24), in the order in which they are handled within a clk: its own engines, the routed mesh,
the neighbour links. -/
inductive Inp where
  | engine | mesh | north | east | south | west
deriving DecidableEq, Repr

/-- A token that waits at an input, with the clk in which it arrived there (R24). -/
structure Arrived where
  via : Inp
  clk : Nat
  tok : Token
deriving DecidableEq, Repr

/-- A fired instruction (R27): its place, its lanes, and one list of lane values for each token operand; `ser` is the serial that
its issue takes, by which releases name what issued before them (R305). -/
structure Firing where
  tile : Nat
  ctx  : Nat
  fi   : Nat
  blk  : Nat
  ix   : Nat
  lb   : Nat
  rl   : Nat
  ops  : List (List LVal)
  ser  : Nat := 0
deriving DecidableEq, Repr

/-- The ready queues of a compute tile (R34); `nbh` and `nbv` are the queues of the neighbour links to the memory
tiles named by MT = 0 and MT = 1 (R171). -/
inductive QId where
  | lane | row | mat | port | nbh | nbv | send
deriving DecidableEq, Repr

/-- A ready queue (R36): its entries, each with the clk at which it entered, and the guard count G. -/
structure ReadyQ where
  ents : List (Nat × Firing) := []
  g    : Nat := 0
deriving DecidableEq, Repr

/-- A FIFO of numbers that starts as 0 to N - 1 ascending (R99, R177): the next never-used number, then the numbers
that have been returned, oldest first. -/
structure Fifo where
  fresh : Nat := 0
  back  : List Nat := []
deriving DecidableEq, Repr

/-! ## The compute tile -/

/-- The four outstanding counters of a frame (R29). -/
inductive Cnt where
  | old | ost | ocp | oto
deriving DecidableEq, Repr

/-- The states of a frame that is not FREE (R29, R102): granted and not yet LIVE, LIVE, ENDING, FROZEN. -/
inductive FState where
  | granted | live | ending | frozen
deriving DecidableEq, Repr

/-- One parked operand of one lane (R26). -/
structure Parked where
  slot  : Nat
  lane  : Nat
  port  : Nat
  owner : Nat
  val   : LVal
deriving DecidableEq, Repr

/-- A unit (R38): the launch that it belongs to, by its queue and entry index, and its number in the launch. -/
structure UnitId where
  queue : Nat
  entry : Nat
  no    : Nat
deriving DecidableEq, Repr

/-- A frame (R28, R29, R104). Its four counters count operations; `chain` holds NEXT by chain and lane (R278) and
`pend` the tokens that its creator delivers once it is LIVE (R102). `outl` lists the operations counted, each with the serial of
its firing and its counter, so that a release knows its members (R305). `doomed` marks a frame that is to be ENDING once it is LIVE
again: its unit ended between its grant and LIVE (R102), or before or while the frame was FROZEN (R106). -/
structure Frame where
  st     : FState
  lw     : Nat
  blk    : Nat
  ns     : Nat
  ctx    : Nat
  base   : Word
  old    : Nat := 0
  ost    : Nat := 0
  ocp    : Nat := 0
  oto    : Nat := 0
  ret    : Word
  argp   : Word
  lslot  : Nat
  cells  : Nat
  unit   : UnitId
  active : List Nat
  ended  : List Nat
  parked : List Parked := []
  chain  : AList Nat := []
  pend   : List Token := []
  doomed : Bool := false
  outl   : List (Nat × Cnt) := []
deriving DecidableEq, Repr

/-- How far a LOOPN has come (R132): the firing, the lane loops left as (count, value delivered), frame j of the first. -/
structure LoopSt where
  firing : Firing
  d1     : Option Dest
  ar     : Nat
  ix     : Nat
  port   : Nat
  loops  : List (Nat × LVal)
  j      : Nat
deriving DecidableEq, Repr

/-- A frame request in an allocation queue (R100), with what the new frame's header takes (R102); `owner` is the
requesting frame, none for the dealer. -/
structure AllocReq where
  seq    : Nat
  owner  : Option Nat
  unit   : UnitId
  ctx    : Nat
  blk    : Nat
  base   : Word
  argp   : Word
  ret    : Word
  lslot  : Nat
  active : List Nat
  toks   : List Token
  loop   : Option LoopSt := none
deriving DecidableEq, Repr

/-- A block (R43, R44). -/
structure Block where
  ns     : Nat
  lw     : Nat
  pri    : Nat
  sys    : Bool
  strm   : Bool
  gbn    : Nat
  digest : Nat
  words  : List Word
  consts : List Word
deriving DecidableEq, Repr

/-- An entry of the instruction store (R108, R109) with the constants staged in it (R136). -/
structure Entry where
  ctx    : Nat
  blk    : Nat
  block  : Block
  staged : AList Word := []
deriving DecidableEq, Repr

/-- A row-unit operation that has issued (R203): the firing, its fields, the lane of the firing (R458), and whether it has
begun, and whether its elements have been performed, with words that it has still to write (R300). `bad` is the record that a poison token
brought (R205). -/
structure RuOp where
  firing  : Firing
  f       : Fields
  lane    : Nat
  bad     : Option PRec
  started : Bool := false
  done    : Bool := false
deriving DecidableEq, Repr

/-- A message of group 0x8 (R35, R235): the firing, its fields, the lane of the firing, the record that a poison token brought,
and what acceptance fixed: the number under which MXOPc records it, the code table (R243) and the mode (R251). -/
structure MxMsg where
  firing : Firing
  f      : Fields
  lane   : Nat
  bad    : Option PRec := none
  id     : Nat := 0
  table  : Nat := 0
  ecm    : Bool := false
deriving DecidableEq, Repr

/-- A matrix operation that has begun feeding (R236): its message, steps, progress, the records of its poisoned operands by
port, and, while it is halted, the clk at which the halt began with the failing port (R240). `begun` is false for a message that a freeze
wave took from the inbox (R242). -/
structure MxOp where
  msg   : MxMsg
  steps : Nat
  prog  : Nat := 0
  psnA  : Option PRec := none
  psnB  : Option PRec := none
  halt  : Option (Nat × Nat) := none
  begun : Bool := true
deriving DecidableEq, Repr

/-- MXOPc (R244). -/
structure MxRec where
  id    : Nat := 0
  prog  : Nat := 0
  state : Nat := 0
  steps : Nat := 0
  cause : Nat := 0
  ecm   : Bool := false
deriving DecidableEq, Repr

/-- An accumulator bank (R229, R231): the FP32 bits of every latch that is not listed, and the latches that differ, by
64 * row + column. -/
structure MxBank where
  valid : Bool := false
  ctx   : Nat := 0
  psn   : Bool := false
  prec  : PRec := { w0 := 0, w1 := 0 }
  fill  : Nat := 0
  cells : AList Nat := []
deriving DecidableEq, Repr

/-- A CB4 code table with its owner (R87, R243). -/
structure CbTab where
  valid : Bool := false
  ctx   : Nat := 0
  bits  : Nat := 0
deriving DecidableEq, Repr

/-! ## Memory nodes, home-slice operations, copies (R273 to R299, R320 to R340) -/

/-- The read-modify-write operations of R325. -/
inductive AKind where
  | add | fadd | min | max | and | or | xor | xch | cas | incWrap | incSat
deriving DecidableEq, Repr

/-- What a request does where it performs: the lanes of LD and ST that lie in one granule with their addresses (R289), pieces of
rows (R285), the operations of group 0xB (an ARED with the contributions merged into it, R339) and the barrier operations (R325, R328, R336, R338, R366), and the requests of
groups 0xC, 0xD and 0xE, by opcode, SUB and the operand words of one lane. `line` is no request of the net but the entry that an access of n
bytes by the switch die or the host takes in a deferral list: it waits (0), has its turn (1), is done (2) (R329; log entry 126). -/
inductive AccOp where
  | loads (l : List (Nat × Word × Nat))
  | stores (l : List (Nat × Word × List Byte))
  | readRow (n : Nat)
  | writeRow (bytes : List Byte)
  | atom (k : AKind) (ty : Ty) (b c : Word)
  | cask (ty : Ty) (b c tmpl : Word)
  | caddk (ty : Ty) (b c tmpl : Word)
  | itake
  | iread
  | iput (v : Word)
  | iclr
  | ared (k : AKind) (ty : Ty) (vs : List Word)
  | binit (count : Word)
  | arrive
  | bwait (round : Word)
  | sys (op sub : Nat) (a b c : Word)
  | line (n st : Nat)
deriving DecidableEq, Repr

/-- A piece of a memory node that has not been sent: its address, what it does, the lane it belongs to, and for a tile node the
row and the byte offset in the buffer's row (R273, R285). -/
structure Piece where
  va   : Word
  acc  : AccOp
  lane : Nat := 0
  row  : Nat := 0
  off  : Nat := 0
deriving DecidableEq, Repr

/-- Who sent a request: a memory port, a copy channel, a stream slot, the host, another module, a switch. -/
inductive Src where
  | port (t : Nat)
  | chan (m c : Nat)
  | slot (t k : Nat)
  | outside
deriving DecidableEq, Repr

/-- A request on its way to where it performs, or waiting there: `id` rises in issue order; `own` is the number of the memory
operation, copy or slot epoch it belongs to; `place` names its instruction (w1 of R370); `held` marks one that host-bias snooping
holds, `snooped` one whose snoop has been answered (R426). `loc` is the physical address with its die and the bias of its page, once
the owning die has translated it (R259, R316); `part` the request that it is one word of (R300); `via` the UCIe module of its spoke that it
has taken (R417). -/
structure Req where
  id      : Nat
  src     : Src
  own     : Nat
  jid     : Nat
  piece   : Piece
  place   : Word := 0
  held    : Bool := false
  snooped : Bool := false
  tried   : Bool := false
  loc     : Option (Nat × Nat × Bool) := none
  part    : Option Nat := none
  via     : Option Nat := none
deriving DecidableEq, Repr

/-- A request whose words perform one by one (R300): the request, where it performs, the words that have still to perform, the bytes
that have come by offset, the lanes' values, and the first cause. -/
structure Asm where
  req   : Req
  die   : Nat
  pa    : Nat
  left  : Nat
  bytes : AList (List Byte) := []
  vals  : List (Nat × LVal × LVal) := []
  cause : Nat := 0
deriving DecidableEq, Repr

/-- A reply on its way back: the cause (0 for none) with the port at fault and w5, the value and second value of each lane, the
bytes of a row. -/
structure Rep where
  req   : Req
  cause : Nat := 0
  port  : Nat := 0
  extra : Word := 0
  vals  : List (Nat × LVal × LVal) := []
  bytes : List Byte := []
  pois  : Option PRec := none
deriving DecidableEq, Repr

/-- An operation at the memory port (R273, R277): the firing, its fields and opcode, the pieces not yet sent, the requests
without replies, the results by lane, the bytes of rows that have arrived in part as (row, offset, bytes), the failures as (lane or
row, cause, port, address, w5), the counter that the frame holds for it, and the serials of the release set that must complete before
it performs (R305). `lent` marks one that a freeze wave has withdrawn (R337), and `had` the counter that it gave back; `flush` one
whose release has sent its flush to the adapter (R426), `land` holds the words of complete rows that have still to land in the
buffer, as (offset in the scratchpad, bytes) (R285, R300), `row0` is the address of a tile node's first row (R371). -/
structure MemOp where
  id     : Nat
  firing : Firing
  f      : Fields
  op     : Nat
  jid    : Nat
  pieces : List Piece := []
  out    : Nat := 0
  vals   : List (Nat × LVal × LVal) := []
  rows   : List (Nat × Nat × List Byte) := []
  errs   : List (Nat × Nat × Nat × Word × Word) := []
  cnt    : Option Cnt := none
  rel    : List Nat := []
  lent   : Bool := false
  had    : Option Cnt := none
  flush  : Bool := false
  land   : List (Nat × List Byte) := []
  row0   : Word := 0
deriving DecidableEq, Repr

/-- An entry of the fence list (R313): a FENCE with the serials of its members (R305), or a WAITC; `flush` marks one whose flush is
on its way through the adapter, or whose drain markers are, `ahead` the contributions to reductions that the markers have before them
(R426, R429). -/
structure Fence where
  firing : Firing
  f      : Fields
  waitc  : Bool
  mem    : List Nat := []
  flush  : Bool := false
  ahead  : List Nat := []
deriving DecidableEq, Repr

/-- A line of a stream slot: its address, and its bytes once they have arrived; `bad` marks a failed read-ahead (R281, R283). -/
structure Line where
  va    : Word
  bytes : Option (List Byte) := none
  bad   : Bool := false
deriving DecidableEq, Repr

/-- A stream slot (R281, R299); `epoch` tells read-ahead of one opening from that of the next. -/
structure Slot where
  valid  : Bool := false
  ctx    : Nat := 0
  ch     : Nat := 0
  win    : Nat := 0
  nextj  : Nat := 0
  count  : Nat := 0
  base   : Word := 0
  stride : Word := 0
  lines  : List Line := []
  hits   : Nat := 0
  misses : Nat := 0
  epoch  : Nat := 0
deriving DecidableEq, Repr

/-- A bandwidth account (R411, R414): its job, its CREDIT, and whether a request of the job has been queued or issued at the port in the
period that runs. -/
structure Acct where
  jid    : Nat
  credit : Nat := 0
  active : Bool := false
deriving DecidableEq, Repr

/-- The scan test of a compute tile (R397, R402): SCANST, SCANSIG, the tests completed, the SCANGO in progress, the SCANABTs that abort it
with one more than the clk in which the first arrived, and whether the pattern set has ended by itself (R403). -/
structure Scan where
  state : Nat := 0
  last  : Nat := 0
  auto  : Bool := false
  sig   : Word := 0
  done  : Nat := 0
  go    : Option Req := none
  abts  : List Req := []
  abtAt : Nat := 0
  ended : Bool := false
deriving DecidableEq, Repr

/-- A copy (R292, R295, R296): its firing, the lane, the buffer, its span, the pieces, how many have been sent, those that have
arrived, and whether it is cancelled. -/
structure Copy where
  id     : Nat
  firing : Firing
  f      : Fields
  op     : Nat
  jid    : Nat
  lane   : Nat
  handle : Word
  start  : Nat := 0
  stop   : Nat := 0
  pieces : List Piece := []
  sent   : Nat := 0
  done   : List Nat := []
  cancel : Bool := false
  landed : Bool := false
deriving DecidableEq, Repr

/-- A copy channel (R291, R292, R299): WP, END of the copy accepted last, the copies accepted and not complete, the CPYWAITs that
wait, those of one firing's higher lanes that have still to find a place among the 16 (R297, R458), the bytes moved, the follow-on
operations that wait for the matrix queue (R296), the CPYCANs that are not complete, and the words of replies that have still to land,
as (copy, offset in the scratchpad, bytes, the number of the piece whose last word it is) (R300). -/
structure Chan where
  wp    : Nat := 0
  stop  : Nat := 0
  copies : List Copy := []
  waits : List (Firing × Fields × Nat × Nat) := []
  wq    : List (Firing × Fields × Nat × Nat) := []
  bytes : Word := 0
  mma   : List Copy := []
  cans  : List (Firing × Fields × Nat × Nat) := []
  land  : List (Nat × Nat × List Byte × Option Nat) := []
deriving DecidableEq, Repr

/-- A compute tile (R16). Tables that are not listed are at reset: FSCTX quotas 8192, frames FREE, entries invalid. `inputs`
holds the tokens that wait at the six inputs, in order of arrival, `flight` those that the mesh still carries to the tile, `pissue` one more than the clk in which the port last issued a
request of its issue list, with that request's job (R273, R414), `took` one
more than the clk in which a token was handled last (R24), `lubusy` the clk from which the lane unit is not occupied (R139), `held` the firings that wait for room in their queue or in the chain-hold
buffer (R34), `laneOut` the results of lane firings that have not left (R139), `acks` the multi-destination emissions that
wait for a reference increment (R122),
`ksets` the KSETs not yet staged everywhere (R136), `ruOps` the row-unit operations that have issued, `mxIn` the group 0x8 messages not yet in the inbox, `mxRun` the matrix
operations whose outputs have not left, oldest first; `accts` the bandwidth accounts that exist and `acctw` the REQ and WAIT words, both
by account number (R414); `perm` lists banks that are not the identity, by 2 * slot + bank. -/
structure CTile where
  frames    : AList Frame := []
  tags      : Fifo := {}
  quota     : AList Nat := []
  allocq    : AList (List AllocReq) := []
  seq       : Nat := 0
  fsdisc    : Word := 0
  entries   : AList Entry := []
  loadWait  : List (Nat × Nat) := []
  inputs    : List Arrived := []
  flight    : List Token := []
  took      : Nat := 0
  lubusy    : Nat := 0
  held      : List Firing := []
  qlane     : ReadyQ := {}
  qrow      : ReadyQ := {}
  qmat      : ReadyQ := {}
  qport     : ReadyQ := {}
  qnbh      : ReadyQ := {}
  qnbv      : ReadyQ := {}
  qsend     : ReadyQ := {}
  chainHold : List Firing := []
  laneOut   : List (List Token) := []
  acks      : List (Firing × List Dest) := []
  ksets     : List (Firing × Fields × Word) := []
  lufire    : Word := 0
  luocc     : Word := 0
  ruOps     : List RuOp := []
  ruops     : Word := 0
  ruocc     : Word := 0
  perm      : AList Nat := []
  mxIn      : List MxMsg := []
  mxInbox   : List MxMsg := []
  mxRun     : List MxOp := []
  mxFrozen  : List MxOp := []
  mxseq     : Nat := 0
  mxop      : AList MxRec := []
  acc0      : MxBank := {}
  acc1      : MxBank := {}
  tab0      : CbTab := {}
  tab1      : CbTab := {}
  cur       : Nat := 0
  mxhto     : Nat := 0x00249F00
  mxops     : Word := 0
  mxocc     : Word := 0
  mops      : List MemOp := []
  fences    : List Fence := []
  slots     : AList Slot := []
  opens     : List (Firing × Fields) := []
  mpreq     : Word := 0
  pissue    : Nat × Nat := (0, 0)
  bwen      : Bool := true
  accts     : AList Acct := []
  acctw     : AList (Nat × Nat) := []
  bwlast    : Nat := 0
  scan      : Scan := {}
deriving DecidableEq, Repr

/-! ## The memory tile -/

/-- A descriptor entry (R177); one that is not listed is FREE with every field 0. -/
structure Desc where
  shape  : Word := 0
  gen    : Nat := 0
  refs   : Nat := 0
  holder : Nat := 0
  ctx    : Nat := 0
  gran0  : Nat := 0
  ngm1   : Nat := 0
  state  : Nat := 0
  view   : Bool := false
  ro     : Bool := false
  psn    : Bool := false
  voff   : Nat := 0
  root   : Nat := 0
  sdesc  : Option Nat := none
  prec   : PRec := { w0 := 0, w1 := 0 }
deriving DecidableEq, Repr

/-- A request in a memory tile's allocation queue (R179): the firing, its word's fields and granules, the descriptor that a
view is of, and the template or window. -/
structure TAlloc where
  firing : Firing
  f      : Fields
  g      : Nat
  lane   : Nat
  handle : Option Word
  param  : Word
deriving DecidableEq, Repr

/-- A tag-table entry in use (R187). -/
structure TagEnt where
  key    : Word
  handle : Word
  ctx    : Nat
  stamp  : Nat
deriving DecidableEq, Repr

/-- A stream handler (R218, R224). `bound` holds its handles, `next` the next row of the packed side of COMPRESS and EXPAND,
`since` the clk at which it last became runnable, `wrote` the destination rows written. -/
structure Hnd where
  kind   : Nat := 0
  busy   : Bool := false
  ctx    : Nat := 0
  holder : Nat := 0
  pri    : Nat := 0
  mask   : Bool := false
  chn    : Bool := false
  nexth  : Nat := 0
  pend   : Nat := 0
  done   : Nat := 0
  total  : Nat := 0
  oob    : Nat := 0
  w0     : Word := 0
  w1     : Word := 0
  bound  : List Word := []
  next   : Nat := 0
  since  : Nat := 0
  wrote  : Nat := 0
  firing : Option Firing := none
  lane   : Nat := 0
  d1     : Option Dest := none
deriving DecidableEq, Repr

/-- A chained count word on its way to a handler's channel (R223). -/
structure CountWord where
  h     : Nat
  ctx   : Nat
  count : Nat
deriving DecidableEq, Repr

/-- A memory tile (R16, R177 to R187). `owned` lists the granules that are not free and zeroed, `zpend` those of them that
await zeroing, oldest first; `ue` the 8-byte words of the scratchpad that hold an uncorrectable error (R186),
`hallot` the MTHND words that are not at reset, `hwait` the SOPSETs that wait for a handler (R226). -/
structure MTile where
  descs  : AList Desc := []
  dfifo  : Fifo := {}
  owned  : List Nat := []
  zpend  : List Nat := []
  quota  : AList Nat := []
  allocq : List TAlloc := []
  tags   : AList TagEnt := []
  ue     : List Nat := []
  hnd    : AList Hnd := []
  hallot : AList Nat := []
  hwait  : List MxMsg := []
  hwords : List CountWord := []
  hdisc  : Nat := 0
  hguard : Nat := 0
  callot : AList Nat := []
  chans  : AList Chan := []
  cin    : List Copy := []
  crr    : Nat := 3
deriving DecidableEq, Repr

/-! ## Faults of the device -/

/-- A fault that an instruction has taken and INSTRUCTION_FAULT has not yet handled (R372): its cause, the frame whose unit it
ends, and the words of its record that are fixed at detection (R370). `rsm` and `log` mark the records that end nothing
(R240, R383); `after` is the done that TRAP.LOG owes once its record is pushed or lost. -/
structure FaultInfo where
  cause : Nat
  tile  : Nat
  fi    : Nat
  w1    : Word
  va    : Word
  extra : Word
  defer : Bool
  tcode : Nat
  mapv  : Nat
  time  : Nat
  rsm   : Bool := false
  log   : Bool := false
  after : Option (Firing × Option Dest) := none
deriving DecidableEq, Repr

/-! ## Graphs and regions -/

/-- A placement of a configuration (R59). -/
structure Plc where
  rx  : Nat
  ry  : Nat
  blk : Nat
  gbn : Nat
deriving DecidableEq, Repr

/-- A configuration of a region (R58). -/
structure Cfg where
  iters : Nat
  next  : Nat
  plcs  : List Plc
deriving DecidableEq, Repr

/-- What a region's transition has left to do (R110, R112): the configuration it enters (0x1FF for none), the distinct blocks
still to fetch, the blocks fetched and checked, the tiles still to be written, and whether a block failed. -/
structure Load where
  target : Nat
  fetch  : List Nat
  got    : List (Nat × Block)
  tiles  : List Nat
  failed : Bool
deriving DecidableEq, Repr

/-- A bound region (R33, R57): its registers RPC, ISC and RGEO, its launch slots and configurations, the transition armed
(R138) and the one in progress. `rr` is the place in the round at which dealing goes on (R353), `done` that its run has ended
(R138). -/
structure Region where
  vreg    : Nat
  die     : Nat
  qx      : Nat
  qy      : Nat
  wm1     : Nat
  hm1     : Nat
  ctx     : Nat
  nls     : Nat
  cfgs    : List Cfg
  cfg     : Nat := 0
  active  : Bool := false
  loading : Bool := false
  isc     : Nat := 0
  armed   : Option Nat := none
  load    : Option Load := none
  rr      : Nat := 0
  done    : Bool := false
deriving DecidableEq, Repr

/-- The states of a bound graph (R271, R377, R378): in service, a freeze wave in progress, frozen in place, frozen and released. -/
inductive GState where
  | bound | freezing | frozen | released
deriving DecidableEq, Repr

/-- A bound graph (R38, R271): its job, image address, block directory, regions and state, the lease entries that binding it
raised, as (die, age), and whether a launch of it was cancelled while it was frozen, so that its image no longer thaws (R378). -/
structure Graph where
  jid     : Nat
  img     : Nat
  dir     : List Nat
  regions : List Region
  st      : GState := .bound
  ents    : List (Nat × Nat) := []
  dead    : Bool := false
deriving DecidableEq, Repr

/-! ## The memory die (R256 to R266, R316, R317, R319 to R340, R404 to R413) -/

/-- A lease-table entry (R261, R266); `age` rises in the order in which a die makes entries, and names the entry where a slot number could
come to stand for another (R265). -/
structure LEnt where
  size  : Nat
  jid   : Nat
  drain : Bool := false
  ecnt  : Nat := 0
  lcnt  : Nat := 0
  perm  : Nat
  vpage : Nat
  w2    : Word
  w3    : Word
  age   : Nat := 0
deriving DecidableEq, Repr

/-- Who waits for a lease: a launch, by queue and entry index (R262), LEASE.ACQ (R269) or RELOC.BIND (R270) by the number of
its request. -/
inductive LWho where
  | launch (q e : Nat)
  | acq (req : Nat)
  | bind (req : Nat)
deriving DecidableEq, Repr

/-- A lease request at a memory die (R262): the pages of 256 KiB it covers, and the pages already reported to the pager. -/
structure LReq where
  who    : LWho
  jid    : Nat
  pages  : List Nat
  posted : List Nat := []
deriving DecidableEq, Repr

/-- A system-TLB entry (R260): a translation that a walk found. -/
structure TlbEnt where
  jid   : Nat
  size  : Nat
  perm  : Nat
  vpage : Nat
  w2    : Word
  w3    : Word
deriving DecidableEq, Repr

/-- A shuttle entry (R328, R330): the atomic's place, its words, the template address; once drained, the queue and the card that
wait to be pushed. -/
structure ShEnt where
  place : Word
  jid   : Nat
  va    : Word
  old   : Word
  new   : Word
  tmpl  : Word
  push  : Option (Nat × Word × Word) := none
deriving DecidableEq, Repr

/-- A home slice (R319 to R340): shuttle queue, deferral list and I-structure deferral entries (barrier waits among them, R358), each
request with its physical address, the
atomic buffer's granules with the most recently used last, each with whether it is modified (R321), the request that waits at the head
of the TC0 input, or the access of no request that does, as its address and length (R329). -/
structure Slice where
  sh    : List ShEnt := []
  df    : List (Nat × Req) := []
  idq   : List (Nat × Req) := []
  ab    : List (Nat × Bool) := []
  stall : Option Nat := none
  wait  : Option (Nat × Nat) := none
  atoms : Word := 0
  busy  : Word := 0
  conts : Word := 0
  cflts : Word := 0
  wdrs  : Word := 0
deriving DecidableEq, Repr

/-- A pseudo-channel's controller (R406 to R413): counters, REFDEBT, row-policy counters that are not 2, open rows and rows last
opened by bank, activation counts by 65536 * bank + row, the RFMs owed, the demands queued as (bank, row), denial counts of the
row and column bus, the grants last received, the gleaner's next granule and the clk at which its next read is due, the clk of the last
rise of REFDEBT, whether the demand at the head has opened its row, the clk before which no command issues, and one more than the clks in
which it last took the row and the column bus (R408). -/
structure PChan where
  act    : Word := 0
  hit    : Word := 0
  conf   : Word := 0
  ref    : Word := 0
  rfm    : Word := 0
  boc    : Word := 0
  debt   : Int := 0
  alrt   : Word := 0
  policy : AList Nat := []
  openr  : AList Nat := []
  lastr  : AList Nat := []
  counts : AList Nat := []
  owed   : List (Nat × Nat) := []
  dem    : List (Nat × Nat) := []
  denyR  : Nat := 0
  denyC  : Nat := 0
  gotR   : Bool := false
  gotC   : Bool := false
  glnext : Nat := 0
  gldue  : Nat := 0
  refdue : Nat := 0
  warm   : Bool := false
  next   : Nat := 0
  busR   : Nat := 0
  busC   : Nat := 0
deriving DecidableEq, Repr

/-- A memory die. `lt` lists the valid lease entries; `tags` the full words of the I-structure zone, `ue` and `ce` the 64-byte
granules with an uncorrectable or a correctable error, each by physical address; `flips` the BIASREQs, oldest first, `inv` the
TLBINVs that drain here by request number with the ages of the entries that they wait for (R265), `rbase` the clk in which the die came
into service, from which its refreshes fall due (R407). -/
structure MDie where
  lt     : AList LEnt := []
  ltseq  : Nat := 0
  lreq   : List LReq := []
  pglost : Nat := 0
  jtbase : Word := 0
  pgq    : Nat := 0
  pgen   : Bool := false
  pgpend : List (List Word) := []
  ltflt  : Word := 0
  stwalk : Word := 0
  tlb    : List TlbEnt := []
  inv    : List (Nat × List Nat) := []
  flips  : List Req := []
  bfcnt  : Word := 0
  bfbinv : Word := 0
  npg    : Nat := 0
  isbusy : Bool := false
  isrej  : Bool := false
  tags   : List Nat := []
  ue     : List Nat := []
  ce     : List Nat := []
  slices : AList Slice := []
  pcs    : AList PChan := []
  rbase  : Nat := 0
  rhth   : Nat := 1024
  glintv : Nat := 8192
  glce   : Nat := 0
  glue   : Nat := 0
  gllog  : Nat := 0
deriving DecidableEq, Repr

/-! ## The switch die (R341 to R369, R374 to R380, R387 to R403, R414, R420 to R443) -/

/-- A job (R341), with its per-job map state (R396): the degradation versions that wait for acknowledgement with their deadlines. -/
structure Job where
  valid : Bool := false
  sys   : Bool := false
  phase : Nat := 0
  fq    : Nat := 0
  ovf   : Bool := false
  ackv  : Nat := 1
  susp  : Bool := false
  cause : Nat := 0
  dls   : List (Nat × Nat) := []
deriving DecidableEq, Repr

/-- What the first QCTL of a clk found in its queue, and what has changed STATE in that clk since, in order: QCTLs by SUB, and 8 more than a
STATE that has been set (R365). -/
structure QSnap where
  clk   : Nat
  state : Nat
  head  : Nat
  tail  : Nat
  epoch : Nat
  since : List Nat
deriving DecidableEq, Repr

/-- A queue (R342), with the clk at which its head entry became the head (R349). `pushed` is one more than the clk of the last push
accepted and `prank` its place in the order of one clk, `slot` one more than the clk of the last push applied, accepted or not (R345),
`refused` one more than the clk in which a push last met it full (R346), `ctl` what the last QCTL found (R365); `epoch` tells
launches of one entry index apart, and rises when HEAD starts again at 0. -/
structure Queue where
  state : Nat := 0
  kind  : Nat := 0
  pri   : Nat := 0
  dlog  : Nat := 6
  jid   : Nat := 0
  base  : Nat := 0
  head  : Nat := 0
  tail  : Nat := 0
  dv    : Bool := false
  def6  : Nat := 0
  drop  : Nat := 0
  since : Nat := 0
  pushed  : Nat := 0
  prank   : Nat := 0
  refused : Nat := 0
  slot    : Nat := 0
  ctl   : Option QSnap := none
  epoch : Nat := 0
deriving DecidableEq, Repr

/-- The stages of a launch (R349 to R357): waiting for its phase, for edges, for leases, admitted, ended. -/
inductive LStage where
  | phase | edges | leasing | running | ended
deriving DecidableEq, Repr

/-- A footprint range (R348). -/
structure Range where
  base : Nat
  len  : Nat
  r    : Bool
  w    : Bool
deriving DecidableEq, Repr

/-- A launch popped and not complete (R349 to R357): its name, which is its queue with its entry index above which the queue's epoch stands,
card and ranges, the launches it has edges to, the lease entries it
holds as (die, age), the dies that have still to grant, the records dealt, those of units that have ended, the numbers of the units that a
fault or cancel is ending, its units with their record counts and regions, the
regions it holds slots in as (VREG, LSLOT), the frames of the sheaf in hand by region as (VREG, next record, end), the ST that it will end with, and
whether word 1 of its completion record is written and the flush before word 0 on its way (R357, R426), and whether its queue slot has
been pushed again (R356). -/
structure Launch where
  queue  : Nat
  entry  : Nat
  jid    : Nat
  card   : List Word
  cardVA : Word
  foot   : List Range := []
  stage  : LStage := .edges
  edges  : List (Nat × Nat) := []
  ents   : List (Nat × Nat) := []
  need   : List Nat := []
  dealt  : Nat := 0
  comp   : Nat := 0
  killed : List Nat := []
  units  : List (Nat × Nat × Nat) := []
  unitNo : Nat := 0
  slots  : List (Nat × Nat) := []
  sheaf  : List (Nat × Nat × Nat) := []
  stop   : Bool := false
  st     : Nat := 3
  adm    : Nat := 0
  flush  : Bool := false
  unk    : Bool := false
deriving DecidableEq, Repr

/-- A push on its way to a queue (R345): from a QPUSH or LAUNCH request or from the host, with the entry, the clk in which it reached
the switch die, and its place in the order of one clk: 0 the Deuri link, 1 a shuttle entry, then the crossbar ports. -/
structure Push where
  queue : Nat
  entry : List Byte
  req   : Req
  clk   : Nat := 0
  rank  : Nat := 0
deriving DecidableEq, Repr

/-- A fault record that waits for delivery (R372, R374): its job, its fault queue, the unit whose frames must be FREE, the words,
what TRAP.LOG owes afterwards, the accesses of a unit that goes on which must perform first, as (tile, frame, serial), and whether its
flush is on its way through the adapter (R374, R426). -/
structure PendRec where
  jid   : Nat
  fq    : Nat
  unit  : Option UnitId := none
  words : List Word
  after : Option (Firing × Option Dest) := none
  mem   : List (Nat × Nat × Nat) := []
  flush : Bool := false
deriving DecidableEq, Repr

/-- An edge-adder group (R430 to R434): its descriptor, the contributions of the current round that have streamed as (die,
elements, request number, handle), and those waiting. -/
structure Xrg where
  armed : Bool := false
  jid   : Nat := 0
  round : Nat := 0
  chain : List Nat := []
  int   : Bool := false
  elems : Nat := 0
  dest  : Word := 0
  conts : List (Nat × List Nat × Req) := []
  later : List (Nat × List Nat × Req) := []
deriving DecidableEq, Repr

/-- A reduction window (R429, R434). -/
structure RWin where
  v    : Bool := false
  act  : Bool := false
  jid  : Nat := 0
  dev  : Nat := 0
  hold : Nat := 128
  len  : Nat := 0
  base : Nat := 0
  pend : Bool := false
deriving DecidableEq, Repr

/-- A virtual channel of a link at its sender and receiver (R420): FSC, S_s, C_s, S_r, C_r, F_r, and the clk since which FSC has been 0
(R421). -/
structure LinkVc where
  fsc : Nat
  ss  : Nat := 0
  cs  : Nat := 0
  sr  : Nat := 0
  cr  : Nat := 0
  fr  : Nat
  dry : Option Nat := none
deriving DecidableEq, Repr

/-- A link (R420, R421, R434): RSYNC, RFAIL, AUDIT, its channels, the clk at which the resync in progress began, whether the next
audit is the first after a resync, the clks of failed resyncs, those of them that count towards the next narrowing, and how many periods
of 4096 clk had begun when the last audit was made. -/
structure Link where
  rsync : Nat := 0
  audit : Nat := 0
  vcs   : AList LinkVc := []
  sync  : Option Nat := none
  fresh : Bool := false
  fails : List Nat := []
  since : List Nat := []
  last  : Nat := 0
deriving DecidableEq, Repr

/-- The firmware of a die (R437, R443): BOOTSTd, the digest of the running image, and the image that it verifies. -/
structure Boot where
  state  : Nat := 0
  reason : Nat := 0
  svn    : Nat := 0
  wdig   : List Byte := []
  img    : List Byte := []
deriving DecidableEq, Repr

/-- A die's temperature (R441, R443): TEMP, MAX, the clk since which it has been at or above 100 °C and the last step, the clk
since which the die has been below 90 °C and the module below its cap, the clk of its last lowering, and whether it is held after
110 °C. -/
structure Therm where
  temp : Nat := 0
  max  : Nat := 0
  hot  : Option Nat := none
  cool : Option Nat := none
  low  : Option Nat := none
  off  : Bool := false
deriving DecidableEq, Repr

/-- A freeze in progress (R377, R385): the graph, and the FREEZE that asked for it, none for a suspension (R395). -/
structure Freezing where
  g   : Nat
  req : Option Req
deriving DecidableEq, Repr

/-- A RELOC.BIND past its checks (R270): its request, the graph to be, the dies that have still to grant its image's pages, the entries
raised, the dies at which an ECNT stands at 255 (R269). -/
structure Binding where
  req   : Req
  graph : Graph
  need  : List Nat
  ents  : List (Nat × Nat) := []
  lack  : List (Nat × Nat) := []
deriving DecidableEq, Repr

/-- A LEASE.ACQ in progress (R269): its request, the dies that have still to grant, the entries raised. -/
structure Acquire where
  req  : Req
  need : List Nat
  ents : List (Nat × Nat) := []
  lack : List (Nat × Nat) := []
deriving DecidableEq, Repr

/-- A CANCEL in progress (R368): its request, the prior value, the launches and the unit that it stops, and whether
its own frame is among what it stops. -/
structure Cancelling where
  req   : Req
  prior : Word
  ls    : List (Nat × Nat) := []
  unit  : Option UnitId := none
  own   : Bool := false
deriving DecidableEq, Repr

/-- The switch die. `map` lists the map words that are not 0 (R387, R389); at reset VERSION is 1, die 12 and the Deuri link
are READY, and the acknowledgement window is 480,000 clk. `known` holds the ST and OUT of launches that have ended, `marks` the
launches cancelled before their pop (R356, R368), `named` the addresses that pushes named for cards not yet popped, as (queue,
entry, address) (R370). `snoops` lists the snoops for accesses that are no requests of the net, as (die, granule, whether answered)
(R309, R426). `lwait` holds the lease requests that wait here for the home table, in order (R262, R390), `cancd` the graphs, phases and jobs that a
CANCEL has ended, as (level, number, job) (R368), `doneg` the graphs that have
been unbound, whose counters are complete until their number names another (R271), `hdm` the host's accesses to device memory that are
held, as (offset, bytes to read, bytes to write), `drains` the spokes from whose module set one has been removed, as (die, or 13 for the
scale-up links; the number of the first request that came after it) (R388), and `toHost` what reads have returned to the host, oldest first, each with whether it is
marked poisoned (R310, R423, R424); `aredAt` gives the clk in which a switch took each contribution that it holds, by request, and `aredGo` those that a drain marker drives out (R429); `attrep` is the attestation report in progress, as (job, address of the next byte, bytes left) (R440). -/
structure Switch where
  fltsup  : Word := 0
  fltj    : AList (Nat × Nat) := []
  map     : AList Word := [(0, 1), (1, 0x00075300), (14, 1), (288, 0x20041)]
  graphs  : AList Graph := []
  doneg   : List Nat := []
  cancd   : List (Nat × Nat × Nat) := []
  jobs    : AList Job := []
  queues  : AList Queue := []
  flost   : Nat := 0
  badw    : Nat := 0
  popclk  : Option Nat := none
  popg    : Nat := 0
  poplast : AList Nat := []
  launch  : List Launch := []
  known   : List (Nat × Nat × Nat × Nat) := []
  marks   : List (Nat × Nat) := []
  named   : List (Nat × Nat × Nat) := []
  admno   : Nat := 0
  pushes  : List Push := []
  heldp   : List Push := []
  snoops  : List (Nat × Nat × Bool) := []
  recs    : List PendRec := []
  waits   : List Req := []
  mwaits  : List Req := []
  lwait   : List (LWho × Nat × List Nat) := []
  acqs    : List Acquire := []
  binds   : List Binding := []
  unbinds : List Req := []
  cancels : List Cancelling := []
  freezes : List Freezing := []
  jsel    : Nat := 0
  share   : AList Word := []
  faben   : AList Word := []
  adphj   : AList Word := []
  rwin    : AList RWin := []
  drains  : List (Nat × Nat) := []
  areds   : List Req := []
  aredAt  : List (Nat × Nat) := []
  aredGo  : List Nat := []
  xrg     : AList Xrg := []
  links   : AList Link := []
  adpjid  : Nat := 0
  adperr  : Nat := 0
  adpap   : AList Word := []
  hwbase  : Nat := 0
  hwsize  : Nat := 0
  fabid   : Nat := 0
  flash   : AList (List Byte) := []
  boot    : AList Boot := []
  therm   : AList Therm := []
  pwrcap  : Nat := 8000
  pwrnow  : Nat := 0
  pwrhot  : Option Nat := none
  attjid  : Nat := 0
  attcode : Nat := 0
  attdst  : Nat := 0
  attrep  : Option (Nat × Nat × List Byte) := none
  attn    : AList Word := []
  attleaf : Nat := 0
  idleaf  : Nat := 0
  resets  : Nat := 0
  cert    : List Byte := []
  hdm     : List (Nat × Nat × Option (List Byte)) := []
  toHost  : List (List Byte × Bool) := []
  msi0    : Nat := 0
  msi1    : Nat := 0
  trained : Bool := false
  powered : Bool := true
deriving DecidableEq, Repr

/-! ## The whole -/

/-- The part that event 1 of R392 reports READY, with the entries that the event changes. -/
inductive Part where
  | die (d grade : Nat) (live : List Word)
  | link (l lanes rate : Nat)
  | stack (k livech : Nat)
deriving DecidableEq, Repr

/-- A G = 1 access that arrives from another module (R253, R428): the job, the address within this module, the access. -/
structure FabReq where
  jid : Nat
  va  : Word
  acc : AccOp
deriving DecidableEq, Repr

/-- What an event takes from outside the module, or which of several things it concerns: tile or memory tile `tile`, die `die`,
numbers `n` and `k`, a value `v`, a queue, words, bytes, a truth value, a part, a fabric access. -/
structure Args where
  tile  : Nat := 0
  die   : Nat := 0
  n     : Nat := 0
  k     : Nat := 0
  v     : Nat := 0
  q     : QId := .lane
  w     : Word := 0
  w2    : Word := 0
  words : List Word := []
  data  : Option (List Byte) := none
  flag  : Bool := false
  part  : Part := .die 0 0 []
  fab   : FabReq := { jid := 0, va := 0, acc := .arrive }
deriving DecidableEq, Repr

/-- Who reads and writes the words of scratchpads: the row unit of a compute tile, its matrix array, handler h of a memory tile, an
operation at a memory port or a copy of a memory tile's channels, by its number. -/
inductive Owner where
  | row (t : Nat)
  | array (t : Nat)
  | handler (m h : Nat)
  | memop (t id : Nat)
  | copy (m id : Nat)
deriving DecidableEq, Repr

/-- An event to come: the clk that pass before it, which event it is, what it takes, and the memory errors that arise before it, by
the model's address, uncorrectable or not (R186, R404), and the tokens of the mesh that reach their tile's input before it, by tile and place among those
on their way (R24; log entry 1); the words of scratchpads that engine operations in hand read and write before it (R300; log entry 131). -/
structure Happening where
  dt   : Nat
  ev   : Instr
  arg  : Args := {}
  hits : List (Nat × Bool) := []
  land : List (Nat × Nat) := []
  reads  : List (Owner × Nat) := []
  writes : List (Owner × Nat) := []
deriving DecidableEq, Repr

/-- The machine. `issuing` is the firing that a ready queue has just issued, `agenda` the input: what happens next, and `arg` what
the event that happens takes (log entry 1); `net` holds the requests that have not performed, `asm` by request number those whose words perform one by one, `reps` the replies that have not
arrived; `early` the words of scratchpads that an engine operation in hand has read already, by its owner, and `late` those that one has still to
write (R300; log entry 131); `reqno` and `opno` number requests and operations; `free` counts free values (log entry 2). -/
structure State where
  clk      : Nat := 0
  agenda   : List Happening := []
  arg      : Args := {}
  issuing  : Option Firing := none
  detected : List FaultInfo := []
  mem      : List Host.Cell := []
  ct       : AList CTile := []
  mt       : AList MTile := []
  md       : AList MDie := []
  sw       : Switch := {}
  net      : List Req := []
  asm      : AList Asm := []
  reps     : List Rep := []
  early    : List (Nat × Nat × List Byte) := []
  late     : List (Nat × Nat × List (Nat × Byte)) := []
  reqno    : Nat := 0
  opno     : Nat := 0
  free     : Nat := 0
deriving DecidableEq, Repr

/-- The machine right after the switch die leaves reset: every field at the value the manual gives for reset, or at the one that a
log entry names; nothing is listed in memory. -/
def State.reset : State := {}

/-- Why the machine stops with a fault of the model. A fault of the device is a next state and none of these. -/
inductive Fault where
  /-- Raised by `step` when the place that a firing names holds no instruction word. Safe: R108 and R110 keep the entry of a
  block while a firing of it waits, so no run reaches it. -/
  | noWord
  /-- Raised by `step` when the word that a firing names does not decode. Safe: the loader has refused such a block (R53). -/
  | badWord
deriving DecidableEq, Repr

/-- Why the machine refuses to give an instruction a meaning. -/
inductive Refusal where
  /-- Raised by an arm of `exec` whose instruction has no meaning yet, with its mnemonic. Safe: nothing is claimed of it. -/
  | notModelled (mnemonic : String)
deriving DecidableEq, Repr

end Sys2Proof.Machine
end

