-- ==== Sys2Proof/Machine/Operands.lean ====
section
/-! DEFINITION. Operands and results of a firing: reading a lane value at a type, writing a result at a type (R71), the
lanes of a firing's operands (R142), and the grouping of per-lane outputs into tokens (R116, R143). -/

namespace Sys2Proof.Machine

/-- The w low bits of a lane value, as an unsigned number (R71). -/
def readN (ty : Ty) (v : Word) : Nat := v.toNat % 2 ^ ty.width

/-- The integer a lane value holds at an integer type; types that are not i types read as unsigned (R71, R155). -/
def readI (ty : Ty) (v : Word) : Int := bitsInt (isSigned ty) ty.width v.toNat

/-- A result written at a type: the w low bits, sign extended for i types and zero extended otherwise (R71). -/
def writeI (ty : Ty) (i : Int) : Word := BitVec.ofInt 64 (bitsInt (isSigned ty) ty.width (i % 2 ^ ty.width).toNat)

/-- A result of w low bits written at a type (R71). -/
def writeN (ty : Ty) (n : Nat) : Word := writeI ty n

/-- A lane value of a number's low 64 bits. -/
def w64 (n : Nat) : Word := BitVec.ofNat 64 n

/-- The lane floating format of a type (R73); f32 stands for types that have none. -/
def fmtOf : Ty → Fmt
  | .f16 => .f16
  | .bf16 => .bf16
  | .f64 => .f64
  | _ => .f32

/-- The exact value of a lane value at a floating type. -/
def readF (ty : Ty) (v : Word) : Ex := (fmtOf ty).decode (readN ty v)

/-- An exact value rounded once to a lane floating type (R76, R77). -/
def writeF (ty : Ty) (mode : RMode) (v : Ex) : Word := w64 ((fmtOf ty).encode mode false v)

/-- The word that one lane of an operand reads as (R142): a done reads as zero, a handle as its 64 bits. -/
def LVal.word : LVal → Word
  | .scal v | .runv v => v
  | .hand h => h
  | .dn => 0
  | .pois _ => 0

/-- The poison record that a lane value carries, if any. -/
def LVal.poison? : LVal → Option PRec
  | .pois r => some r
  | _ => none

/-- Whether a lane value came in a scalar token. -/
def LVal.isScal : LVal → Bool
  | .scal _ => true
  | _ => false

/-- The handle that a lane value carries, if any. -/
def LVal.handle? : LVal → Option Word
  | .hand h => some h
  | _ => none

/-- The lane value of one lane (counted from the firing's LB) of an operand. -/
def opAt (ops : List (List LVal)) (port lane : Nat) : LVal := (ops.getD port []).getD lane .dn

/-- The record on the lowest-numbered poisoned port of a lane (R117). -/
def poisonAt (ops : List (List LVal)) (lane : Nat) : Option PRec :=
  ops.findSome? fun o => (o.getD lane .dn).poison?

/-- The handles among the operands of a firing. -/
def Firing.handles (fr : Firing) : List Word := fr.ops.flatten.filterMap LVal.handle?

/-- The kind of token that a run of lane values goes in. -/
inductive GKind where
  | value | handle | done | poison (r : PRec)
deriving DecidableEq, Repr

/-- The kind class of one lane value. -/
def LVal.gkind : LVal → GKind
  | .scal _ | .runv _ => .value
  | .hand _ => .handle
  | .dn => .done
  | .pois r => .poison r

/-- Splitting lane outputs into maximal ranges of consecutive lanes of one kind; a handle covers one lane (R23, R116). -/
def groupLanes : Nat → List (Option LVal) → List (Nat × List LVal)
  | _, [] => []
  | lb, none :: rest => groupLanes (lb + 1) rest
  | lb, some v :: rest =>
    match groupLanes (lb + 1) rest with
    | (l, u :: us) :: gs =>
      if l = lb + 1 ∧ v.gkind = u.gkind ∧ v.gkind ≠ .handle then (lb, v :: u :: us) :: gs
      else (lb, [v]) :: (l, u :: us) :: gs
    | gs => (lb, [v]) :: gs

/-- The payload of a group: a scalar when every lane came as a scalar of one value, else a run (R143; log entry 12). -/
def payloadOf (vs : List LVal) : Payload :=
  match vs with
  | [] => .done
  | .pois r :: _ => .poison r
  | .hand h :: _ => .handle h
  | .dn :: _ => .done
  | v :: rest =>
    if v.isScal && rest.all (· == v) then .scalar v.word else .run ((v :: rest).map LVal.word)

/-- The (first lane, lane count, payload) of the tokens that carry lane outputs. -/
def tokenize (lb : Nat) (outs : List (Option LVal)) : List (Nat × Nat × Payload) :=
  (groupLanes lb outs).map fun g => (g.1, g.2.length, payloadOf g.2)

/-- The lane values of a token's payload, one for each covered lane (R23). -/
def Payload.lanes (p : Payload) (rl : Nat) : List LVal :=
  match p with
  | .scalar v => List.replicate rl (.scal v)
  | .run vs => vs.map .runv
  | .handle h => [.hand h]
  | .done => List.replicate rl .dn
  | .poison r => List.replicate rl (.pois r)

/-- The handle that a payload carries, if any. -/
def Payload.handle? : Payload → Option Word
  | .handle h => some h
  | _ => none

end Sys2Proof.Machine
end

