-- ==== Sys2Proof/Machine/Flags.lean ====
section
/-! DEFINITION. Every flag and predicate that the lane unit computes: carry, borrow and clamp of ADDX (R149), the relations
of CMP and FCMP (R155), and the truth function of PLOG (R156). -/

namespace Sys2Proof.Machine

/-- A predicate as a lane value, 0x0 or 0x1 (R71). -/
def pred (b : Bool) : Word := if b then 1 else 0

/-- The flag of an exact sum or difference (R149): outside the type's range. For an n type this is the carry out or the
borrow; for an i type it is the overflow. -/
def outOfRange (ty : Ty) (exact : Int) : Bool :=
  decide (exact < loOf (isSigned ty) ty.width) || decide (hiOf (isSigned ty) ty.width < exact)

/-- The relations of CMP by SUB (R155). -/
def relI (sub : Nat) (a b : Int) : Bool :=
  match sub with
  | 0 => decide (a = b)
  | 1 => decide (a ≠ b)
  | 2 => decide (a < b)
  | 3 => decide (a ≤ b)
  | 4 => decide (b < a)
  | _ => decide (b ≤ a)

/-- Whether a pair is unordered (R155). -/
def unord (a b : Ex) : Bool := a == .nan || b == .nan

/-- The relations of FCMP by SUB (R155). -/
def relF (sub : Nat) (a b : Ex) : Bool :=
  match sub with
  | 0 => a.eq b
  | 1 => !a.eq b
  | 2 => a.lt b
  | 3 => a.lt b || a.eq b
  | 4 => b.lt a
  | 5 => b.lt a || a.eq b
  | 6 => unord a b
  | _ => !unord a b

/-- PLOG's truth function of three predicate bits (R156). -/
def plogBit (table : Nat) (a b c : Word) : Bool :=
  table / 2 ^ (c.toNat % 2 * 4 + b.toNat % 2 * 2 + a.toNat % 2) % 2 == 1

end Sys2Proof.Machine
end

