-- ==== Sys2Proof/Decode.lean ====
section
/-! DEFINITION. Decoding a 64-bit instruction word (R47) and, after it, the encoder. Every word decodes to an instruction
or to the field that rejects it (R53). -/

namespace Sys2Proof

/-- Bits lo to lo + n - 1 of a word, as a number (R3). -/
def field (w : Word) (lo n : Nat) : Nat := w.toNat / 2 ^ lo % 2 ^ n

/-- The type of a TY code (R48). -/
def Ty.ofCode (n : Nat) : Ty :=
  match n with
  | 0 => .b64 | 1 => .i8 | 2 => .i16 | 3 => .i32 | 4 => .i64 | 5 => .n8 | 6 => .n16 | 7 => .n32
  | 8 => .n64 | 9 => .f16 | 10 => .bf16 | 11 => .f32 | 12 => .f64 | 13 => .h | 14 => .p | _ => .va

/-- The TY code of a type (R48). -/
def Ty.code : Ty → Nat
  | .b64 => 0 | .i8 => 1 | .i16 => 2 | .i32 => 3 | .i64 => 4 | .n8 => 5 | .n16 => 6 | .n32 => 7
  | .n64 => 8 | .f16 => 9 | .bf16 => 10 | .f32 => 11 | .f64 => 12 | .h => 13 | .p => 14 | .va => 15

/-- A destination field of ten bits: V at 9, IX at 8:2, P at 1:0 (R47). Invalid bits give none (R50). -/
def decodeDest (n : Nat) : Option (Option Dest) :=
  if n < 512 then (if n == 0 then some none else none)
  else some (some { ix := BitVec.ofNat 7 (n / 4), port := BitVec.ofNat 2 n })

/-- The ten bits of a destination field. -/
def encodeDest : Option Dest → Nat
  | none => 0
  | some d => 512 + d.ix.toNat * 4 + d.port.toNat

/-- The opcode of a word (R47). -/
def opOf (w : Word) : Nat := field w 56 8

/-- Decoding: the instruction a word names, or the first field that rejects it. -/
def decode (w : Word) : Except BadWord Instr :=
  match decodeDest (field w 22 10), decodeDest (field w 12 10) with
  | some d0, some d1 =>
    let f : Fields :=
      { sub := BitVec.ofNat 4 (field w 52 4), ty := Ty.ofCode (field w 48 4), ar := BitVec.ofNat 2 (field w 46 2),
        kc := field w 45 1 == 1, sl := BitVec.ofNat 7 (field w 38 7), ck := BitVec.ofNat 6 (field w 32 6),
        d0 := d0, d1 := d1, x := BitVec.ofNat 12 (field w 0 12) }
    match wordFault (opOf w) f with
    | some e => .error e
    | none =>
      match Instr.ofOp (opOf w) f with
      | some i => .ok i
      | none => .error .sub
  | none, _ => if assigned (opOf w) then .error .d0 else .error .op
  | _, none => if assigned (opOf w) then .error .d1 else .error .op

/-- The word of an opcode and its fields (R47). -/
def encodeWord (op : Nat) (f : Fields) : Word :=
  BitVec.ofNat 64
    (op * 2 ^ 56 + f.sub.toNat * 2 ^ 52 + f.ty.code * 2 ^ 48 + f.ar.toNat * 2 ^ 46 + (if f.kc then 2 ^ 45 else 0)
      + f.sl.toNat * 2 ^ 38 + f.ck.toNat * 2 ^ 32 + encodeDest f.d0 * 2 ^ 22 + encodeDest f.d1 * 2 ^ 12 + f.x.toNat)

/-- The encoder: the word of an instruction row; an event row has none. -/
def encode (i : Instr) : Option Word :=
  i.word?.map fun p => encodeWord p.1 p.2

/-- The host's question: the instruction in a word of `nbits` bits, the bits above zero. A word is 64 bits (R47); the table
gives no row a width. -/
def decodeTableWord (nbits w : Nat) : Option Instr :=
  if nbits ≤ 64 then
    match decode (BitVec.ofNat 64 (w % 2 ^ nbits)) with
    | .ok i => some i
    | .error _ => none
  else none

end Sys2Proof
end

