-- ==== Sys2Proof/Machine/Ops.lean ====
section
/-! DEFINITION. The named operations over memory, tiles, frames, tokens and buffers that every meaning is written with. -/

namespace Sys2Proof.Machine

/-! ## Tables and lists -/

/-- The value at a key. -/
def AList.get? {α : Type} : AList α → Nat → Option α
  | [], _ => none
  | (k, v) :: l, a => if k = a then some v else if a < k then none else AList.get? l a

/-- The value at a key, or the value that an unlisted key stands for. -/
def AList.getD {α : Type} (l : AList α) (a : Nat) (d : α) : α := (AList.get? l a).getD d

/-- Setting the value at a key. -/
def AList.set {α : Type} : AList α → Nat → α → AList α
  | [], a, x => [(a, x)]
  | (k, v) :: l, a, x =>
    if k = a then (a, x) :: l else if a < k then (a, x) :: (k, v) :: l else (k, v) :: AList.set l a x

/-- Removing a key. -/
def AList.erase {α : Type} : AList α → Nat → AList α
  | [], _ => []
  | (k, v) :: l, a => if k = a then l else if a < k then (k, v) :: l else (k, v) :: AList.erase l a

/-- A list without its n-th element. -/
def dropNth {α : Type} : List α → Nat → List α
  | [], _ => []
  | _ :: l, 0 => l
  | x :: l, n + 1 => x :: dropNth l n

/-- A list with its n-th element replaced. -/
def setNth {α : Type} : List α → Nat → α → List α
  | [], _, _ => []
  | _ :: l, 0, y => y :: l
  | x :: l, n + 1, y => x :: setNth l n y

/-- Inserting into a list kept in an order. -/
def insertBy {α : Type} (le : α → α → Bool) (x : α) : List α → List α
  | [] => [x]
  | y :: l => if le x y then x :: y :: l else y :: insertBy le x l

/-- Sorting by insertion; equal elements keep their order. -/
def sortBy {α : Type} (le : α → α → Bool) (l : List α) : List α := l.foldr (insertBy le) []

/-- The least element of a list under an order, the first of equals. -/
def leastBy {α : Type} (lt : α → α → Bool) : List α → Option α
  | [] => none
  | x :: l => match leastBy lt l with
    | none => some x
    | some y => if lt y x then some y else some x

/-- Bits lo to lo + n - 1 of a number. -/
def nbits (x lo n : Nat) : Nat := x / 2 ^ lo % 2 ^ n

/-- A Boolean as a bit. -/
def bit (b : Bool) : Nat := if b then 1 else 0

/-- n divided by d, rounded up. -/
def ceilDiv (n d : Nat) : Nat := (n + d - 1) / d

/-! ## Free values -/

/-- The next n free values (log entry 2). -/
def State.freeWords (s : State) (n : Nat) : List Word := (List.range n).map fun i => Config.freeWord (s.free + i)

/-- n free values have been used. -/
def State.useFree (s : State) (n : Nat) : State := { s with free := s.free + n }

/-! ## FIFOs of free numbers (R99, R177) -/

/-- How many numbers a FIFO over 0 to cap - 1 holds. -/
def Fifo.count (f : Fifo) (cap : Nat) : Nat := (cap - f.fresh) + f.back.length

/-- Taking the number at the head. -/
def Fifo.take (f : Fifo) (cap : Nat) : Option (Nat × Fifo) :=
  if f.fresh < cap then some (f.fresh, { f with fresh := f.fresh + 1 })
  else match f.back with
    | [] => none
    | x :: l => some (x, { f with back := l })

/-- Returning a number to the tail. -/
def Fifo.put (f : Fifo) (x : Nat) : Fifo := { f with back := f.back ++ [x] }

/-! ## Memory: one list of (address, byte), addresses strictly rising, no byte equal to what an unlisted address reads as -/

/-- What an address that is not listed reads as (log entry 3). -/
def memDefault : Byte := 0

/-- The byte at an address of a list in the canonical form. -/
def cellGet : List Host.Cell → Nat → Byte
  | [], _ => memDefault
  | (k, v) :: l, a => if k = a then v else if a < k then memDefault else cellGet l a

/-- Writing a byte; a byte equal to the unlisted value removes the entry. -/
def cellSet : List Host.Cell → Nat → Byte → List Host.Cell
  | [], a, b => if b = memDefault then [] else [(a, b)]
  | (k, v) :: l, a, b =>
    if k = a then (if b = memDefault then l else (a, b) :: l)
    else if a < k then (if b = memDefault then (k, v) :: l else (a, b) :: (k, v) :: l)
    else (k, v) :: cellSet l a b

/-- Every address of a list is above a bound. -/
def cellsAbove (a : Nat) : List Host.Cell → Bool
  | [] => true
  | (k, _) :: _ => decide (a < k)

/-- The canonical form: addresses strictly rising and no byte equal to the unlisted value. -/
def Memory.wf : List Host.Cell → Bool
  | [] => true
  | (k, v) :: l => v != memDefault && cellsAbove k l && Memory.wf l

/-- The byte at an address. -/
def State.byte (s : State) (a : Nat) : Byte := cellGet s.mem a

/-- Writing one byte. -/
def State.setByte (s : State) (a : Nat) (b : Byte) : State := { s with mem := cellSet s.mem a b }

/-- The n bytes from an address up. -/
def State.readBytes (s : State) (a : Nat) : Nat → List Byte
  | 0 => []
  | n + 1 => s.byte a :: s.readBytes (a + 1) n

/-- Writing bytes from an address up. -/
def State.writeBytes (s : State) (a : Nat) : List Byte → State
  | [] => s
  | b :: bs => (s.setByte a b).writeBytes (a + 1) bs

/-- A number from bytes, the first the lowest (R42). -/
def ofBytes : List Byte → Nat
  | [] => 0
  | b :: bs => b.toNat + 256 * ofBytes bs

/-- The n bytes of a number, the lowest first (R42). -/
def toBytes : Nat → Nat → List Byte
  | 0, _ => []
  | n + 1, x => BitVec.ofNat 8 x :: toBytes n (x / 256)

/-- The number that n bytes at an address hold. -/
def State.readN (s : State) (a n : Nat) : Nat := ofBytes (s.readBytes a n)

/-- The 64-bit word at an address. -/
def State.readWord (s : State) (a : Nat) : Word := w64 (s.readN a 8)

/-- Writing a number in n bytes. -/
def State.writeN (s : State) (a n x : Nat) : State := s.writeBytes a (toBytes n x)

/-- Where byte `pa` of the HBM of memory die `k` (0 to 3) stands in the model's one address space. -/
def hbmAddr (k pa : Nat) : Nat := k * 2 ^ 38 + pa
/-- Where byte `off` of the scratchpad of a memory tile stands. -/
def padAddr (m off : Nat) : Nat := 2 ^ 41 + m * 2 ^ 21 + off
/-- Where byte `hpa` of host memory stands. -/
def hostAddr (hpa : Nat) : Nat := 2 ^ 53 + hpa

/-! ## Tiles (R12 to R15, R171) -/

/-- The die of a packed tile. -/
def tileDie (t : Nat) : Nat := t / 1024
/-- The column of a packed tile. -/
def tileX (t : Nat) : Nat := t / 32 % 32
/-- The row of a packed tile. -/
def tileY (t : Nat) : Nat := t % 32
/-- Packing a tile (R15). -/
def mkTile (d x y : Nat) : Nat := d * 1024 + x * 32 + y
/-- A packed number that names a tile of a compute die (R15). -/
def isTile (t : Nat) : Bool := decide (t < 8192) && decide (tileY t < 20)
/-- Compute tiles have x + y even (R12). -/
def isCompute (t : Nat) : Bool := isTile t && (tileX t + tileY t) % 2 == 0
/-- Memory tiles have x + y odd (R12). -/
def isMemTile (t : Nat) : Bool := isTile t && (tileX t + tileY t) % 2 == 1
/-- Two tiles lie in one quad (R14). -/
def sameQuad (a b : Nat) : Bool :=
  tileDie a == tileDie b && tileX a / 2 == tileX b / 2 && tileY a / 2 == tileY b / 2
/-- The memory tile that MT names for a compute tile: the one in its row, or in its column (R171). -/
def memTileOf (t mt : Nat) : Nat :=
  if mt = 0 then mkTile (tileDie t) (tileX t / 2 * 2 + (1 - tileX t % 2)) (tileY t)
  else mkTile (tileDie t) (tileX t) (tileY t / 2 * 2 + (1 - tileY t % 2))

/-- A compute tile's state. -/
def State.tile (s : State) (t : Nat) : CTile := AList.getD s.ct t {}
/-- Setting a compute tile's state. -/
def State.setTile (s : State) (t : Nat) (c : CTile) : State := { s with ct := AList.set s.ct t c }
/-- Changing a compute tile's state. -/
def State.onTile (s : State) (t : Nat) (g : CTile → CTile) : State := s.setTile t (g (s.tile t))
/-- A memory tile's state. -/
def State.mtile (s : State) (m : Nat) : MTile := AList.getD s.mt m {}
/-- Setting a memory tile's state. -/
def State.setMtile (s : State) (m : Nat) (c : MTile) : State := { s with mt := AList.set s.mt m c }
/-- Changing a memory tile's state. -/
def State.onMtile (s : State) (m : Nat) (g : MTile → MTile) : State := s.setMtile m (g (s.mtile m))

/-! ## The resource map (R387 to R391) -/

/-- A map word (R389); one that is not listed reads as zero. -/
def State.mapWord (s : State) (mix : Nat) : Word := AList.getD s.sw.map mix 0

/-- Setting a map word. -/
def State.setMapWord (s : State) (mix : Nat) (w : Word) : State :=
  { s with sw := { s.sw with map := if w = 0 then AList.erase s.sw.map mix else AList.set s.sw.map mix w } }

/-- VERSION (R387). -/
def State.version (s : State) : Nat := (s.mapWord 0).toNat

/-- STATE of a die: 0 NOTREADY, 1 READY, 2 DEGRADED, 3 DEAD (R389). -/
def State.dieState (s : State) (d : Nat) : Nat := field (s.mapWord (2 + d)) 0 2

/-- A die in service: READY or DEGRADED. -/
def State.dieUp (s : State) (d : Nat) : Bool := s.dieState d == 1 || s.dieState d == 2

/-- The firmware of a die. -/
def State.fw (s : State) (d : Nat) : Boot := AList.getD s.sw.boot d {}

/-- Whether the switch die runs its firmware (R435). -/
def State.switchRuns (s : State) : Bool := (s.fw 12).state == 2

/-- GRADE of a die (R389). -/
def State.gradeOf (s : State) (d : Nat) : Nat := field (s.mapWord (2 + d)) 2 3

/-- The compute dies in service (R441). -/
def compUp (s : State) : List Nat := (List.range 8).filter fun d => s.dieUp d

/-- The LIVE bit of a tile (R389): index 32 y + x. -/
def State.tileLive (s : State) (t : Nat) : Bool :=
  let i := 32 * tileY t + tileX t
  field (s.mapWord (16 + 10 * tileDie t + i / 64)) (i % 64) 1 == 1

/-- A tile that the map records as DEAD: on a DEAD die, or cleared in the LIVE words of a die in service (R391). -/
def State.tileDead (s : State) (t : Nat) : Bool :=
  isTile t && (s.dieState (tileDie t) == 3 || (s.dieUp (tileDie t) && !s.tileLive t))

/-! ## Instruction store and frames -/

/-- The valid entry for a context and block number, with its index (R108). -/
def CTile.entryIx (c : CTile) (ctx blk : Nat) : Option (Nat × Entry) :=
  c.entries.find? fun e => e.2.ctx == ctx && e.2.blk == blk

/-- The valid entry for a context and block number (R108). -/
def CTile.entry (c : CTile) (ctx blk : Nat) : Option Entry := (c.entryIx ctx blk).map (·.2)

/-- The instruction word at an index of a block (R43). -/
def Block.word? (b : Block) (ix : Nat) : Option Word := b.words[ix]?

/-- The fields of the instruction at an index of a block; a word that does not decode has none. -/
def Block.instr? (b : Block) (ix : Nat) : Option Instr :=
  match b.word? ix with
  | none => none
  | some w => match decode w with
    | .ok i => some i
    | .error _ => none

/-- Opcode and fields of the instruction at an index of a block. -/
def Block.fields? (b : Block) (ix : Nat) : Option (Nat × Fields) := (b.instr? ix).bind Instr.word?

/-- The arity of the instruction at an index; 0 where there is none. -/
def Block.arity (b : Block) (ix : Nat) : Nat := ((b.fields? ix).map fun p => p.2.ar.toNat).getD 0

/-- A frame of a tile. -/
def State.frame? (s : State) (t fi : Nat) : Option Frame := AList.get? (s.tile t).frames fi

/-- Setting a frame. -/
def CTile.setFrame (c : CTile) (fi : Nat) (fr : Frame) : CTile := { c with frames := AList.set c.frames fi fr }

/-- Changing a frame, if the tile holds it. -/
def State.onFrame (s : State) (t fi : Nat) (g : Frame → Frame) : State :=
  match s.frame? t fi with
  | none => s
  | some fr => s.onTile t fun c => c.setFrame fi (g fr)

/-- The frame of a firing. -/
def State.frameOf (s : State) (fr : Firing) : Option Frame := s.frame? fr.tile fr.fi

/-- The block of a firing. -/
def State.blockOf (s : State) (fr : Firing) : Option Block := ((s.tile fr.tile).entry fr.ctx fr.blk).map (·.block)

/-- Constant k of the block of a firing (R43). -/
def State.constOf (s : State) (fr : Firing) (k : Nat) : Word :=
  ((s.blockOf fr).map fun b => b.consts.getD k 0).getD 0

/-- The lane value on a port of a lane of a firing; with KC = 1 the constant CK supplies port AR as a scalar (R25, R142). -/
def State.operand (s : State) (fr : Firing) (f : Fields) (port lane : Nat) : LVal :=
  if f.kc && port == f.ar.toNat then .scal (s.constOf fr f.ck.toNat) else opAt fr.ops port lane

/-- A counter of a frame. -/
def Frame.cnt (fr : Frame) : Cnt → Nat
  | .old => fr.old
  | .ost => fr.ost
  | .ocp => fr.ocp
  | .oto => fr.oto

/-- Setting a counter of a frame. -/
def Frame.setCnt (fr : Frame) (c : Cnt) (n : Nat) : Frame :=
  match c with
  | .old => { fr with old := n }
  | .ost => { fr with ost := n }
  | .ocp => { fr with ocp := n }
  | .oto => { fr with oto := n }

/-- Raising a counter of a firing's frame (R30). -/
def State.count (s : State) (fr : Firing) (c : Cnt) : State :=
  s.onFrame fr.tile fr.fi fun x => { x.setCnt c (x.cnt c + 1) with outl := x.outl ++ [(fr.ser, c)] }

/-- One outstanding operation of a firing leaves the list. -/
def dropOut (ser : Nat) (c : Cnt) : List (Nat × Cnt) → List (Nat × Cnt)
  | [] => []
  | e :: l => if e.1 = ser ∧ e.2 = c then l else e :: dropOut ser c l

/-- Lowering a counter of a firing's frame (R30). -/
def State.uncount (s : State) (fr : Firing) (c : Cnt) : State :=
  s.onFrame fr.tile fr.fi fun x => { x.setCnt c (x.cnt c - 1) with outl := dropOut fr.ser c x.outl }

/-- Opcode and fields of the instruction that a firing is of. -/
def State.fieldsOf (s : State) (fr : Firing) : Option (Nat × Fields) := (s.blockOf fr).bind fun b => b.fields? fr.ix

/-- Whether a firing's frame is LIVE. -/
def State.isLive (s : State) (fr : Firing) : Bool :=
  match s.frameOf fr with
  | some x => x.st == .live
  | none => false

/-- Whether a frame has ended or is ending. -/
def State.isEnding (s : State) (fr : Firing) : Bool :=
  match s.frameOf fr with
  | some x => x.st == .ending
  | none => true

/-! ## Handles and references (R173, R182, R183) -/

/-- The memory tile that a handle names, on a die (R173). -/
def hTile (die : Nat) (h : Word) : Nat := die * 1024 + field h 54 10
/-- GRAN0 of a handle. -/
def hGran0 (h : Word) : Nat := field h 45 9
/-- NGM1 of a handle. -/
def hNgm1 (h : Word) : Nat := field h 37 8
/-- GEN of a handle. -/
def hGen (h : Word) : Nat := field h 29 8
/-- DESC of a handle. -/
def hDesc (h : Word) : Nat := field h 20 9
/-- HOLDER of a handle. -/
def hHolder (h : Word) : Nat := field h 10 10
/-- SCALE of a handle. -/
def hScale (h : Word) : Bool := field h 2 1 == 1
/-- RO of a handle. -/
def hRo (h : Word) : Bool := field h 1 1 == 1
/-- VIEW of a handle. -/
def hView (h : Word) : Bool := field h 0 1 == 1

/-- A handle's 64 bits (R173). -/
def mkHandle (m g0 ngm1 gen desc holder : Nat) (psn scale ro view : Bool) : Word :=
  w64 (m % 1024 * 2 ^ 54 + g0 * 2 ^ 45 + ngm1 * 2 ^ 37 + gen * 2 ^ 29 + desc * 2 ^ 20 + holder % 1024 * 2 ^ 10
    + bit psn * 8 + bit scale * 4 + bit ro * 2 + bit view)

/-- A descriptor entry. -/
def MTile.desc (c : MTile) (d : Nat) : Desc := AList.getD c.descs d {}
/-- Setting a descriptor entry. -/
def MTile.setDesc (c : MTile) (d : Nat) (x : Desc) : MTile := { c with descs := AList.set c.descs d x }

/-- SCL of a template (R175). -/
def tScl (w : Word) : Bool := field w 31 1 == 1
/-- FMT of a template. -/
def tFmt (w : Word) : Nat := field w 26 5
/-- The rows of a template. -/
def tRows (w : Word) : Nat := field w 0 13 + 1
/-- The columns of a template. -/
def tCols (w : Word) : Nat := field w 13 13 + 1
/-- PITCH of a template. -/
def tPitch (w : Word) : Nat := field w 32 16

/-- Freeing a descriptor whose REFS has reached zero (R183): GEN advances, the number goes to the tail of the FIFO, and the
granules of a root go to zeroing. The references that a view and a scale link hold are released by the caller. -/
def MTile.freeDesc (c : MTile) (d : Nat) : MTile :=
  let x := c.desc d
  let c := { c.setDesc d { x with gen := (x.gen + 1) % 256, refs := 0, state := 0 } with dfifo := c.dfifo.put d }
  if x.view then c else { c with zpend := c.zpend ++ (List.range (x.ngm1 + 1)).map (x.gran0 + ·) }

/-- Releasing one reference of a descriptor, with the references that freeing it releases in turn: a view's root, a scale
link's panel (R182, R183). The chain of links is at most as deep as `fuel`. -/
def MTile.unref : Nat → MTile → Nat → MTile
  | 0, c, _ => c
  | fuel + 1, c, d =>
    let x := c.desc d
    if x.state = 0 then c
    else if x.refs > 1 then c.setDesc d { x with refs := x.refs - 1 }
    else
      let c := c.freeDesc d
      let c := if x.view then MTile.unref fuel c x.root else c
      match x.sdesc with
      | some e => MTile.unref fuel c e
      | none => c

/-- The depth that links of one memory tile can have: view, root, scale panel. -/
def linkDepth : Nat := 4

/-- Whether a handle names a live descriptor of its own generation and extent (R178). -/
def staleIn (c : MTile) (h : Word) : Bool :=
  let x := c.desc (hDesc h)
  x.state == 0 || x.gen != hGen h || x.gran0 != hGran0 h || x.ngm1 != hNgm1 h || x.view != hView h
    || tScl x.shape != hScale h

/-- Releasing the reference of a handle on a die (R122); a handle that is stale, or names no memory tile, holds none. -/
def State.release (s : State) (die : Nat) (h : Word) : State :=
  let m := hTile die h
  if isMemTile m && !staleIn (s.mtile m) h then s.onMtile m fun c => MTile.unref linkDepth c (hDesc h) else s

/-- Releasing the references of several handles. -/
def State.releaseAll (s : State) (die : Nat) (hs : List Word) : State := hs.foldl (fun s h => s.release die h) s

/-- Releasing the handles among the operands of a firing (R122). -/
def State.releaseOps (s : State) (fr : Firing) : State := s.releaseAll (tileDie fr.tile) fr.handles

/-! ## Tokens -/

/-- The place of an input in the order of one clk (R24). -/
def Inp.rank : Inp → Nat
  | .engine => 0 | .mesh => 1 | .north => 2 | .east => 3 | .south => 4 | .west => 5

/-- The neighbour link by which a memory tile reaches a compute tile: y runs north to south, x west to east (R6, R13). -/
def linkFrom (t m : Nat) : Inp :=
  if tileY t = tileY m then (if tileX t < tileX m then .east else .west) else (if tileY t < tileY m then .south else .north)

/-- A token arrives at an input of its destination tile (R24). -/
def State.deliver (s : State) (via : Inp) (k : Token) : State :=
  s.onTile k.dst fun c => { c with inputs := c.inputs ++ [{ via := via, clk := s.clk, tok := k }] }

/-- Several tokens arrive at an input, in order. -/
def State.deliverAll (s : State) (via : Inp) (ks : List Token) : State := ks.foldl (fun s k => s.deliver via k) s

/-- A token for a link leaves on the mesh (R128); it arrives when the input says (R40; log entry 1). -/
def State.depart (s : State) (k : Token) : State := s.onTile k.dst fun c => { c with flight := c.flight ++ [k] }

/-- Several tokens leave on the mesh, in order. -/
def State.departAll (s : State) (ks : List Token) : State := ks.foldl State.depart s

/-- A discarded token releases any handle that it carries (R105). -/
def State.discard (s : State) (k : Token) : State :=
  match k.pay.handle? with
  | some h => s.release (tileDie k.dst) h
  | none => s

/-- A discarded token that FSDISC counts (R31, R105, R108). -/
def State.discardCount (s : State) (k : Token) : State :=
  (s.discard k).onTile k.dst fun c => { c with fsdisc := c.fsdisc + 1 }

/-- The tokens that carry lane outputs to a destination of the firing's own block (R50). -/
def tokensTo (fr : Firing) (d : Dest) (lb : Nat) (outs : List (Option LVal)) : List Token :=
  (tokenize lb outs).map fun p =>
    { dst := fr.tile, ctx := fr.ctx, fi := fr.fi, blk := fr.blk, ix := d.ix.toNat, port := d.port.toNat,
      lb := p.1, rl := p.2.1, pay := p.2.2 }

/-- The handles among lane outputs. -/
def outHandles (outs : List (Option LVal)) : List Word := outs.filterMap fun o => o.bind LVal.handle?

/-- The neighbour link that an instruction of groups 0x5, 0x7 and 0xA takes: the memory tile that X names by MT, or the one that
its first handle names; a handle that names neither memory tile of the quad takes the first link and fails there (R171,
R184; log entry 13). -/
def nbQueue (fr : Firing) (mt : Option Nat) : QId :=
  let n := match mt with
    | some n => n
    | none =>
      match fr.handles.head? with
      | some h => if hTile (tileDie fr.tile) h = memTileOf fr.tile 1 then 1 else 0
      | none => 0
  if n = 0 then .nbh else .nbv

/-- The queue of a fired instruction (R34). -/
def queueOf (fr : Firing) (op : Nat) (f : Fields) : QId :=
  if op == 0x06 then .send
  else if op == 0x0D then .port
  else if op < 0x50 || op == 0xC9 || op == 0xE5 || op == 0xE0 || (op == 0xD3 && f.sub == 0) then .lane
  else if op < 0x60 then nbQueue fr (if [0x50, 0x56, 0x58].contains op then some (xbits f.x 0 1) else none)
  else if op < 0x70 then .row
  else if op < 0x80 then nbQueue fr (some (xbits f.x 4 1))
  else if op < 0x90 then .mat
  else if 0xA0 ≤ op && op < 0xB0 then nbQueue fr (some (xbits f.x 2 1))
  else .port

/-- The input by which results of a firing reach its own tile: the neighbour link for groups 0x5, 0x7 and 0xA, which a memory tile
performs, and the tile's own engines for the others (R24, R34). -/
def State.viaOf (s : State) (fr : Firing) : Inp :=
  match (s.fieldsOf fr).map fun p => queueOf fr p.1 p.2 with
  | some .nbh => linkFrom fr.tile (memTileOf fr.tile 0)
  | some .nbv => linkFrom fr.tile (memTileOf fr.tile 1)
  | _ => .engine

/-- A result of an engine, memory node or memory tile for a firing's frame: tokens to the destination; where the destination
is empty, or the frame is no longer LIVE, the values are discarded and their handles released (R50, R105, R122). -/
def State.emit (s : State) (fr : Firing) (d : Option Dest) (lb : Nat) (outs : List (Option LVal)) : State :=
  match d with
  | some d =>
    if s.isLive fr then s.deliverAll (s.viaOf fr) (tokensTo fr d lb outs)
    else s.releaseAll (tileDie fr.tile) (outHandles outs)
  | none => s.releaseAll (tileDie fr.tile) (outHandles outs)

/-- A token of a tile's own engines that no outstanding counter covers arrives, or is discarded and counted where its frame takes no more
tokens (R31, R105, R140). -/
def State.deliverOwn (s : State) (k : Token) : State :=
  match s.frame? k.dst k.fi with
  | some x => if x.st == .live || x.st == .frozen then s.deliver .engine k else s.discardCount k
  | none => s.discardCount k

/-- Done over every lane of a firing that no outstanding counter covers (R105, R136, R282, R383). -/
def State.emitDoneOwn (s : State) (fr : Firing) (d : Option Dest) : State :=
  match d with
  | some d => (tokensTo fr d fr.lb (List.replicate fr.rl (some .dn))).foldl State.deliverOwn s
  | none => s

/-- One lane's output. -/
def State.emit1 (s : State) (fr : Firing) (d : Option Dest) (lane : Nat) (v : LVal) : State :=
  s.emit fr d (fr.lb + lane) [some v]

/-- Done over every lane of a firing. -/
def State.emitDone (s : State) (fr : Firing) (d : Option Dest) : State :=
  s.emit fr d fr.lb (List.replicate fr.rl (some .dn))

/-- The results of a lane firing wait to leave the unit (R139). -/
def State.laneEmit (s : State) (t : Nat) (ks : List Token) : State :=
  s.onTile t fun c => { c with laneOut := c.laneOut ++ [ks] }

/-! ## Faults (R115, R370 to R372) -/

/-- w1 of a fault record: an instruction's place, with the port and lane at fault (R370). -/
def placeWord (tile ctx fi blk ix port lane : Nat) : Word :=
  w64 (tileDie tile + tileX tile * 2 ^ 4 + tileY tile * 2 ^ 9 + ctx * 2 ^ 14 + fi * 2 ^ 18 + blk * 2 ^ 30 + ix * 2 ^ 34
    + port % 4 * 2 ^ 41 + lane % 32 * 2 ^ 43 + 2 ^ 48)

/-- Word 0 of a poison record for an instruction (R115). -/
def poisonWord (cause tile ctx fi blk ix port lane : Nat) : Word :=
  w64 (cause + tileDie tile * 2 ^ 8 + tileX tile * 2 ^ 12 + tileY tile * 2 ^ 17 + ctx * 2 ^ 22 + fi * 2 ^ 26
    + blk * 2 ^ 38 + ix * 2 ^ 42 + port % 4 * 2 ^ 49 + lane % 32 * 2 ^ 51)

/-- The poison record of a firing that defers a fault (R116). -/
def poisonOf (fr : Firing) (cause port lane : Nat) (va : Word) : PRec :=
  { w0 := poisonWord cause fr.tile fr.ctx fr.fi fr.blk fr.ix port lane, w1 := w64 (field va 0 57) }

/-- w1 of the record that names the instruction of origin of a poison record (R118). -/
def originWord (r : PRec) : Word :=
  w64 (field r.w0 8 4 + field r.w0 12 5 * 2 ^ 4 + field r.w0 17 5 * 2 ^ 9 + field r.w0 22 4 * 2 ^ 14
    + field r.w0 26 12 * 2 ^ 18 + field r.w0 38 4 * 2 ^ 30 + field r.w0 42 7 * 2 ^ 34 + field r.w0 49 2 * 2 ^ 41
    + field r.w0 51 5 * 2 ^ 43 + 2 ^ 48)

/-- What an instruction's fault names: cause, port (3 when no single operand is at fault), lane counted from LB, address, w5
(R371). -/
structure Err where
  cause : Nat
  port  : Nat := 3
  lane  : Nat := 0
  va    : Word := 0
  extra : Word := 0
deriving DecidableEq, Repr

/-- A firing takes Fault(code) (R372): the fault is detected, and INSTRUCTION_FAULT follows at once. -/
def State.raise (s : State) (fr : Firing) (e : Err) : State :=
  { s with detected := s.detected ++ [{
      cause := e.cause, tile := fr.tile, fi := fr.fi,
      w1 := placeWord fr.tile fr.ctx fr.fi fr.blk fr.ix e.port (fr.lb + e.lane), va := w64 (field e.va 0 57), extra := e.extra,
      defer := false, tcode := 0, mapv := s.version, time := s.clk }] }

/-- A side-effecting instruction consumes poison (R118): the original fault, naming the instruction of origin in w1 and the
consumer in w5, with the port and lane on which it met the poison. -/
def State.raisePoison (s : State) (fr : Firing) (port lane : Nat) (r : PRec) : State :=
  { s with detected := s.detected ++ [{
      cause := field r.w0 0 8, tile := fr.tile, fi := fr.fi, w1 := originWord r, va := w64 (field r.w1 0 57),
      extra := placeWord fr.tile fr.ctx fr.fi fr.blk fr.ix port (fr.lb + lane), defer := true, tcode := 0, mapv := s.version,
      time := s.clk }] }

/-- A fault against the unit of a frame that no firing names: the target of a link (R128), an overrun (R26). -/
def State.raiseAt (s : State) (k : Token) (cause : Nat) (extra : Word) : State :=
  { s with detected := s.detected ++ [{
      cause := cause, tile := k.dst, fi := k.fi, w1 := placeWord k.dst k.ctx k.fi k.blk k.ix k.port k.lb, va := 0,
      extra := extra, defer := false, tcode := 0, mapv := s.version, time := s.clk }] }

/-- The lowest poisoned port of one lane among ports below n, with its record. -/
def poisonPort (fr : Firing) (n lane : Nat) : Option (Nat × PRec) :=
  (List.range n).findSome? fun p => ((opAt fr.ops p lane).poison?).map fun r => (p, r)

/-- The lowest poisoned lane of a firing, with the lowest poisoned port below n and its record. -/
def firstPoison (fr : Firing) (n : Nat := 3) : Option (Nat × Nat × PRec) :=
  (List.range fr.rl).findSome? fun l => (poisonPort fr n l).map fun q => (l, q.1, q.2)

/-- The firing that a ready queue has issued leaves the model's hand. -/
def State.issued (s : State) : State := { s with issuing := none }

/-! ## Words of registers that a freeze image also holds (R29, R177, R224, R244, R379) -/

/-- LW as its code (R43). -/
def lwCode (lw : Nat) : Nat := if lw = 32 then 2 else if lw = 8 then 1 else 0

/-- STATE of a frame header (R29); a frame that is granted and not yet LIVE reads FREE (R102). -/
def FState.code : FState → Nat
  | .granted => 0
  | .live => 1
  | .ending => 2
  | .frozen => 3

/-- Word w of a frame's header cell (R29). -/
def Frame.header (x : Frame) (w : Nat) : Word :=
  match w with
  | 0 => w64 (x.st.code + lwCode x.lw * 2 ^ 3 + x.blk * 2 ^ 5 + x.ns * 2 ^ 16 + field x.base 0 32 * 2 ^ 32)
  | 1 => w64 (field x.base 32 32 + x.old * 2 ^ 32 + x.ost * 2 ^ 40 + x.ocp * 2 ^ 48 + x.oto * 2 ^ 56)
  | 2 => w64 (field x.ret 0 43)
  | 3 => w64 (field x.argp 0 57)
  | 4 => w64 x.lslot
  | _ => 0

/-- MXBANKb.Ww (R244). -/
def MxBank.word (b : MxBank) (w : Nat) : Word :=
  match w with
  | 0 => w64 (bit b.valid + b.ctx * 2 + bit b.psn * 2 ^ 5)
  | 1 => b.prec.w0
  | _ => b.prec.w1

/-- TDENTn.Ww (R177). -/
def Desc.word (x : Desc) (w : Nat) : Word :=
  match w with
  | 0 => x.shape
  | 1 => w64 (x.gen + x.refs * 2 ^ 8 + x.holder % 1024 * 2 ^ 24 + x.ctx * 2 ^ 34 + x.gran0 * 2 ^ 38 + x.ngm1 * 2 ^ 47 + x.state * 2 ^ 55
      + bit x.view * 2 ^ 57 + bit x.ro * 2 ^ 58 + bit x.psn * 2 ^ 59)
  | 2 => w64 (x.voff + x.root * 2 ^ 20 + x.sdesc.getD 0 * 2 ^ 29 + bit x.sdesc.isSome * 2 ^ 38)
  | 3 => x.prec.w0
  | _ => x.prec.w1

/-- SHCFGn (R224). -/
def Hnd.cfg (x : Hnd) : Word :=
  w64 (x.kind + bit x.busy * 2 ^ 4 + x.ctx * 2 ^ 5 + x.holder % 1024 * 2 ^ 9 + x.pri * 2 ^ 19 + bit x.mask * 2 ^ 21 + bit x.chn * 2 ^ 22
    + x.nexth * 2 ^ 23)

/-- SHCNTn (R224). -/
def Hnd.cnt (x : Hnd) : Word := w64 (x.pend + x.done * 2 ^ 16 + x.total * 2 ^ 32 + x.oob * 2 ^ 48)

end Sys2Proof.Machine
end

