-- ==== Sys2Proof/Machine/Lane.lean ====
section
/-! DEFINITION. Groups 0x1 to 0x4: integer, logic, floating point, conversions and runs on the lane unit (R139 to R170). A
value function gives the result of one lane from its operands; one shared operation runs it over a firing. -/

namespace Sys2Proof.Machine

/-- The result of one lane: the values for D0 and D1, or a failure of DIV and REM (R147). -/
inductive LRes where
  | ok (r0 r1 : Word)
  | fail
deriving DecidableEq, Repr

/-- One result for both destinations (R145). -/
def one (w : Word) : LRes := .ok w w

/-- What a lane result becomes once the failing lanes are known (R116, R117): poison carries a record, a failure the record
of the lowest lane of its range. -/
inductive LOut where
  | val (r0 r1 : Word)
  | pois (r : PRec)
  | fail
deriving DecidableEq, Repr

/-- The results of the lanes of a firing, lane by lane (R143, R117). -/
def laneOuts (s : State) (fr : Firing) (f : Fields) (op : Nat → Word → Word → Word → LRes) : List LOut :=
  (List.range fr.rl).map fun i =>
    match poisonAt fr.ops i with
    | some r => .pois r
    | none =>
      match op (fr.lb + i) (s.operand fr f 0 i).word (s.operand fr f 1 i).word (s.operand fr f 2 i).word with
      | .ok a b => .val a b
      | .fail => .fail

/-- Whether every token operand of a firing is a scalar, so that its result is one (R143). -/
def allScalar (fr : Firing) : Bool := !fr.ops.isEmpty && fr.ops.all fun o => o.all LVal.isScal

/-- A result lane of a firing. -/
def resLane (sc : Bool) (w : Word) : LVal := if sc then .scal w else .runv w

/-- Lane results as outputs of D0 or D1: failed lanes carry the record that names the lowest lane of their range (R116). -/
def outLanes (fr : Firing) (sc second : Bool) (cause port : Nat) : Nat → Option PRec → List LOut → List (Option LVal)
  | _, _, [] => []
  | i, prev, o :: rest =>
    match o with
    | .val a b => some (resLane sc (if second then b else a)) :: outLanes fr sc second cause port (i + 1) none rest
    | .pois r => some (.pois r) :: outLanes fr sc second cause port (i + 1) none rest
    | .fail =>
      let r := prev.getD (poisonOf fr cause port (fr.lb + i) 0)
      some (.pois r) :: outLanes fr sc second cause port (i + 1) (some r) rest

/-- Tokens for an optional destination. -/
def tokensOpt (fr : Firing) (d : Option Dest) (outs : List (Option LVal)) : List Token :=
  match d with
  | some d => tokensTo fr d fr.lb outs
  | none => []

/-- The results of a lane firing wait in the unit until they leave together, D0 first (R139, R140). -/
def State.laneResult (s : State) (fr : Firing) (f : Fields) (o0 o1 : List (Option LVal)) : State :=
  s.laneEmit fr.tile (tokensOpt fr f.d0 o0 ++ tokensOpt fr f.d1 o1)

/-- Index of the first failed lane. -/
def firstFail (outs : List LOut) : Option Nat := outs.findIdx? (· == .fail)

/-- Running a value function over the firing that has issued: handles among the operands release their references (R142),
a failure with D = 0 takes Fault(0x08) and emits nothing, and otherwise the results go to D0 and D1 (R143, R147). The
record's w5 is the dividend's 64 bits as the token carried them (DEDUCED, log entry 115). -/
def runLanes (f : Fields) (op : Nat → Word → Word → Word → LRes) (s : State) : State :=
  match s.issuing with
  | none => s
  | some fr =>
    let outs := laneOuts s fr f op
    let s1 := s.issued.releaseOps fr
    match firstFail outs, xbits f.x 0 1 == 1 with
    | some i, false =>
      s1.raise fr { cause := 0x08, port := 1, lane := i, extra := (s.operand fr f 0 i).word }
    | _, _ =>
      let sc := allScalar fr
      s1.laneResult fr f (outLanes fr sc false 0x08 1 0 none outs) (outLanes fr sc true 0x08 1 0 none outs)

/-! ## Integer arithmetic (R146 to R151) -/

/-- An integer result of two operands. -/
def int2 (f : Fields) (g : Int → Int → Int) (_ : Nat) (a b _ : Word) : LRes :=
  one (writeI f.ty (g (readI f.ty a) (readI f.ty b)))

/-- ADD (R146). -/
def addV (f : Fields) := int2 f (· + ·)
/-- SUB (R146). -/
def subV (f : Fields) := int2 f (· - ·)
/-- MUL (R146). -/
def mulV (f : Fields) := int2 f (· * ·)
/-- MULH: the high w bits of the exact product (R146). -/
def mulhV (f : Fields) := int2 f fun a b => a * b / 2 ^ f.ty.width
/-- MAD (R146). -/
def madV (f : Fields) (_ : Nat) (a b c : Word) : LRes :=
  one (writeI f.ty (readI f.ty a * readI f.ty b + readI f.ty c))
/-- DIV: truncated toward zero (R147). -/
def divV (f : Fields) (_ : Nat) (a b _ : Word) : LRes :=
  if readI f.ty b = 0 then .fail else one (writeI f.ty (Int.tdiv (readI f.ty a) (readI f.ty b)))
/-- REM: the sign of the dividend (R147). -/
def remV (f : Fields) (_ : Nat) (a b _ : Word) : LRes :=
  if readI f.ty b = 0 then .fail else one (writeI f.ty (Int.tmod (readI f.ty a) (readI f.ty b)))
/-- MIN (R148). -/
def minV (f : Fields) := int2 f fun a b => if b < a then b else a
/-- MAX (R148). -/
def maxV (f : Fields) := int2 f fun a b => if a < b then b else a
/-- ABS (R148). -/
def absV (f : Fields) (_ : Nat) (a _ _ : Word) : LRes :=
  let r : Int := (readI f.ty a).natAbs
  one (writeI f.ty (if f.sub == 1 then clampI (loOf true f.ty.width) (hiOf true f.ty.width) r else r))
/-- NEG (R148). -/
def negV (f : Fields) (_ : Nat) (a _ _ : Word) : LRes :=
  let r := - readI f.ty a
  one (writeI f.ty (if f.sub == 1 then clampI (loOf true f.ty.width) (hiOf true f.ty.width) r else r))
/-- ADDX: the result on D0 and the flag on D1 (R149). -/
def addxV (f : Fields) (_ : Nat) (a b c : Word) : LRes :=
  let x := readI f.ty a
  let y := readI f.ty b
  let cin : Int := (c.toNat % 2 : Nat)
  let lo := loOf (isSigned f.ty) f.ty.width
  let hi := hiOf (isSigned f.ty) f.ty.width
  match f.sub.toNat with
  | 0 => .ok (writeI f.ty (x + y + cin)) (pred (outOfRange f.ty (x + y + cin)))
  | 1 => .ok (writeI f.ty (clampI lo hi (x + y))) (pred (outOfRange f.ty (x + y)))
  | 2 => .ok (writeI f.ty (clampI lo hi (x - y))) (pred (outOfRange f.ty (x - y)))
  | _ => .ok (writeI f.ty (x - y - cin)) (pred (outOfRange f.ty (x - y - cin)))
/-- LEA (R150): b and c read as i64; with arity 2 and no constant there is no c. -/
def leaV (f : Fields) (_ : Nat) (a b c : Word) : LRes :=
  let third := f.ar.toNat == 3 || (f.ar.toNat == 2 && f.kc)
  let r : Int := (field a 0 57 : Nat) + readI .i64 b * 2 ^ xbits f.x 0 4 + (if third then readI .i64 c else 0)
  one (writeI .va r)
/-- CLZ (R151). -/
def clzV (f : Fields) (_ : Nat) (a _ _ : Word) : LRes :=
  one (writeN f.ty (f.ty.width - bitLen (readN f.ty a)))
/-- The number of one bits among the n low bits. -/
def popc : Nat → Nat → Nat
  | 0, _ => 0
  | n + 1, x => x % 2 + popc n (x / 2)
/-- POPC (R151). -/
def popcV (f : Fields) (_ : Nat) (a _ _ : Word) : LRes := one (writeN f.ty (popc f.ty.width (readN f.ty a)))
/-- The n low bits in reverse order. -/
def brev : Nat → Nat → Nat → Nat
  | 0, _, acc => acc
  | n + 1, x, acc => brev n (x / 2) (2 * acc + x % 2)
/-- BREV (R151). -/
def brevV (f : Fields) (_ : Nat) (a _ _ : Word) : LRes := one (writeN f.ty (brev f.ty.width (readN f.ty a) 0))

/-! ## Logic, shifts, fields, compares (R152 to R156) -/

/-- A bitwise result of two operands. -/
def log2V (f : Fields) (g : Nat → Nat → Nat) (_ : Nat) (a b _ : Word) : LRes :=
  one (writeN f.ty (g (readN f.ty a) (readN f.ty b)))
/-- AND (R152). -/
def andV (f : Fields) := log2V f (· &&& ·)
/-- OR (R152). -/
def orV (f : Fields) := log2V f (· ||| ·)
/-- XOR (R152). -/
def xorV (f : Fields) := log2V f (· ^^^ ·)
/-- NOT (R152). -/
def notV (f : Fields) (_ : Nat) (a _ _ : Word) : LRes := one (writeN f.ty (2 ^ f.ty.width - 1 - readN f.ty a))
/-- The count of a shift: X[5:0] at arity 1, else b as n64 (R153). -/
def shiftCount (f : Fields) (b : Word) : Nat := if f.ar.toNat == 1 && !f.kc then xbits f.x 0 6 else b.toNat
/-- A left shift within w bits; zero from w up. -/
def shl (w n a : Nat) : Nat := if n < w then a * 2 ^ n % 2 ^ w else 0
/-- A right shift within w bits; zero from w up. -/
def shr (w n a : Nat) : Nat := if n < w then a / 2 ^ n else 0
/-- SHL (R153). -/
def shlV (f : Fields) (_ : Nat) (a b _ : Word) : LRes := one (writeN f.ty (shl f.ty.width (shiftCount f b) (readN f.ty a)))
/-- SHR (R153). -/
def shrV (f : Fields) (_ : Nat) (a b _ : Word) : LRes := one (writeN f.ty (shr f.ty.width (shiftCount f b) (readN f.ty a)))
/-- SHA: bit w - 1 is the sign whatever TY says (R153). -/
def shaV (f : Fields) (_ : Nat) (a b _ : Word) : LRes :=
  let n := shiftCount f b
  let i := bitsInt true f.ty.width a.toNat
  one (writeI f.ty (if n < f.ty.width then i / 2 ^ n else if i < 0 then -1 else 0))
/-- A rotation left by n below w within w bits. -/
def rotl (w n a : Nat) : Nat := (a * 2 ^ n + a / 2 ^ (w - n)) % 2 ^ w
/-- ROT (R153): .L, or .R which turns the other way. -/
def rotV (f : Fields) (_ : Nat) (a b _ : Word) : LRes :=
  let w := f.ty.width
  let n := shiftCount f b % w
  one (writeN f.ty (rotl w (if f.sub == 1 then (w - n) % w else n) (readN f.ty a)))
/-- BFX (R154). -/
def bfxV (f : Fields) (_ : Nat) (a _ _ : Word) : LRes :=
  let len := xbits f.x 6 6 + 1
  one (writeI f.ty (bitsInt (f.sub == 1) len (a.toNat / 2 ^ xbits f.x 0 6)))
/-- BFI (R154). -/
def bfiV (f : Fields) (_ : Nat) (a b _ : Word) : LRes :=
  let pos := xbits f.x 0 6
  let len := xbits f.x 6 6 + 1
  let x := readN f.ty a
  one (writeN f.ty (x / 2 ^ (pos + len) * 2 ^ (pos + len) + b.toNat % 2 ^ len * 2 ^ pos + x % 2 ^ pos))
/-- CMP (R155). -/
def cmpV (f : Fields) (_ : Nat) (a b _ : Word) : LRes := one (pred (relI f.sub.toNat (readI f.ty a) (readI f.ty b)))
/-- FCMP (R155). -/
def fcmpV (f : Fields) (_ : Nat) (a b _ : Word) : LRes := one (pred (relF f.sub.toNat (readF f.ty a) (readF f.ty b)))
/-- PLOG (R156); a port without a token or constant reads as 0. -/
def plogV (f : Fields) (_ : Nat) (a b c : Word) : LRes := one (pred (plogBit (xbits f.x 0 8) a b c))

/-! ## Floating point (R157 to R161) -/

/-- FADD (R157). -/
def faddV (f : Fields) (_ : Nat) (a b _ : Word) : LRes :=
  let m := RMode.ofCode f.sub.toNat
  one (writeF f.ty m (exSum m [readF f.ty a, readF f.ty b]))
/-- FSUB (R157). -/
def fsubV (f : Fields) (_ : Nat) (a b _ : Word) : LRes :=
  let m := RMode.ofCode f.sub.toNat
  one (writeF f.ty m (exSum m [readF f.ty a, (readF f.ty b).neg]))
/-- FMUL (R157). -/
def fmulV (f : Fields) (_ : Nat) (a b _ : Word) : LRes :=
  one (writeF f.ty (RMode.ofCode f.sub.toNat) ((readF f.ty a).mul (readF f.ty b)))
/-- FFMA: the product is never rounded (R157). -/
def ffmaV (f : Fields) (_ : Nat) (a b c : Word) : LRes :=
  let m := RMode.ofCode f.sub.toNat
  one (writeF f.ty m (exSum m [(readF f.ty a).mul (readF f.ty b), readF f.ty c]))
/-- A value that is one of its operands or the canonical NaN, written back exactly. -/
def pick2 (f : Fields) (g : Ex → Ex → Ex) (a b : Word) : LRes := one (writeF f.ty .rn (g (readF f.ty a) (readF f.ty b)))
/-- FMIN (R158). -/
def fminV (f : Fields) (_ : Nat) (a b _ : Word) : LRes := pick2 f (if f.sub == 1 then Ex.minNum else Ex.min) a b
/-- FMAX (R158). -/
def fmaxV (f : Fields) (_ : Nat) (a b _ : Word) : LRes := pick2 f (if f.sub == 1 then Ex.maxNum else Ex.max) a b
/-- FABS: clears the sign bit and leaves every other bit (R158). -/
def fabsV (f : Fields) (_ : Nat) (a _ _ : Word) : LRes := one (w64 (readN f.ty a % 2 ^ (f.ty.width - 1)))
/-- FNEG: inverts the sign bit and leaves every other bit (R158). -/
def fnegV (f : Fields) (_ : Nat) (a _ _ : Word) : LRes :=
  one (w64 ((readN f.ty a + 2 ^ (f.ty.width - 1)) % 2 ^ f.ty.width))
/-- FDIV (R159). -/
def fdivV (f : Fields) (_ : Nat) (a b _ : Word) : LRes := one (writeF f.ty .rn ((readF f.ty a).div (readF f.ty b)))
/-- FSQRT (R159). -/
def fsqrtV (f : Fields) (_ : Nat) (a _ _ : Word) : LRes := one (writeF f.ty .rn (readF f.ty a).sqrt)
/-- RCPA (R160). -/
def rcpaV (_ : Fields) (_ : Nat) (a _ _ : Word) : LRes := one (w64 (rcpa (readF .f32 a)))
/-- RSQA (R160). -/
def rsqaV (_ : Fields) (_ : Nat) (a _ _ : Word) : LRes := one (w64 (rsqa (readF .f32 a)))
/-- EXPA (R160). -/
def expaV (_ : Fields) (_ : Nat) (a _ _ : Word) : LRes := one (w64 (expa (readN .f32 a)))
/-- LOGA (R160). -/
def logaV (_ : Fields) (_ : Nat) (a _ _ : Word) : LRes := one (w64 (loga (readN .f32 a)))
/-- Whether RCPR and RSQR leave b unchanged: either operand a zero or an infinity (R161). -/
def refineKeeps (x : Ex) : Bool :=
  match x with
  | .nan => false
  | .inf _ => true
  | .fin _ m _ => m == 0
/-- An exact value rounded to a lane type under RNE, as a value (R161). -/
def rne (ty : Ty) (v : Ex) : Ex := (fmtOf ty).decode ((fmtOf ty).encode .rn false v)
/-- The value 1. -/
def exOne : Ex := .fin false 1 0
/-- One Newton step with the correction that `e` computes from a and b (R161). -/
def refine (f : Fields) (corr : Ex → Ex → Ex) (a b : Word) : LRes :=
  let x := readF f.ty a
  let y := readF f.ty b
  if x == .nan || y == .nan then one (writeF f.ty .rn .nan)
  else if refineKeeps x || refineKeeps y then one (w64 (readN f.ty b))
  else one (writeF f.ty .rn (exSum .rn [y, corr x y]))
/-- RCPR (R161). -/
def rcprV (f : Fields) (_ : Nat) (a b _ : Word) : LRes :=
  refine f (fun x y => y.mul (rne f.ty (exSum .rn [exOne, (x.mul y).neg]))) a b
/-- RSQR (R161). -/
def rsqrV (f : Fields) (_ : Nat) (a b _ : Word) : LRes :=
  refine f (fun x y => (y.mul (rne f.ty (exSum .rn [exOne, (x.mul (rne f.ty (y.mul y))).neg]))).scale (-1)) a b

/-! ## Conversions (R162 to R165) -/

/-- The float format of a target code (R162). -/
def tgtFmt (x : Nat) : Fmt :=
  match x with
  | 0 => .f32 | 1 => .fp19 | 2 => .bf16 | 3 => .f16 | 4 => .e4m3 | 5 => .e5m2 | 6 => .e3m2 | 7 => .e2m3 | 8 => .e2m1
  | _ => .f64
/-- The integer type of a target code (R162). -/
def tgtTy (x : Nat) : Ty := Ty.ofCode (x % 16)
/-- Whether a target code names an integer type (R162). -/
def tgtIsInt (x : Nat) : Bool := decide (0x20 ≤ x)
/-- The width of a target in bits (R162). -/
def tgtWidth (x : Nat) : Nat := if tgtIsInt x then (tgtTy x).width else (tgtFmt x).width
/-- Whether a conversion to a float target saturates (R89): 8 bits or fewer, and bf16 and f16 under SR. -/
def tgtSat (x : Nat) (sr : Bool) : Bool := (tgtFmt x).narrow || (sr && (x == 2 || x == 3))
/-- The state of lane ℓ's generator after n Steps (R92, R164). -/
def srAfter (k : Word) (lane : Nat) : Nat → Nat
  | 0 => srSeed k lane
  | n + 1 => srStep (srAfter k lane n)
/-- The mode of a conversion: SUB's, or stochastic with the draw after n Steps (R164). -/
def cvtMode (f : Fields) (k : Word) (lane n : Nat) : RMode :=
  if f.sub == 4 then .sr (srG (srAfter k lane n)) else RMode.ofCode f.sub.toNat
/-- CVTII (R163). -/
def cvtiiV (f : Fields) (_ : Nat) (a _ _ : Word) : LRes :=
  let t := tgtTy f.x.toNat
  let i := readI f.ty a
  one (writeI t (if f.sub == 1 then clampI (loOf (isSigned t) t.width) (hiOf (isSigned t) t.width) i else i))
/-- CVTIF (R163). -/
def cvtifV (f : Fields) (_ : Nat) (a _ _ : Word) : LRes :=
  one (w64 ((tgtFmt f.x.toNat).encode (RMode.ofCode f.sub.toNat) false (Ex.ofInt (readI f.ty a) 0)))
/-- CVTFI (R163). -/
def cvtfiV (f : Fields) (_ : Nat) (a _ _ : Word) : LRes :=
  let t := tgtTy f.x.toNat
  one (writeI t (exToInt (RMode.ofCode f.sub.toNat) (loOf (isSigned t) t.width) (hiOf (isSigned t) t.width) (readF f.ty a)))
/-- CVTFF (R164); k is the seed constant. -/
def cvtffV (f : Fields) (k : Word) (lane : Nat) (a _ _ : Word) : LRes :=
  let x := f.x.toNat
  one (w64 ((tgtFmt x).encode (cvtMode f k lane 1) (tgtSat x (f.sub == 4)) (readF f.ty a)))
/-- One element of PACKN, as w bits (R165). -/
def packElem (f : Fields) (mode : RMode) (v : Word) : Nat :=
  let x := f.x.toNat
  if tgtIsInt x then
    let t := tgtTy x
    let lo := loOf (isSigned t) t.width
    let hi := hiOf (isSigned t) t.width
    let i := if Ty.flt.contains f.ty then exToInt mode lo hi (readF f.ty v) else clampI lo hi (readI f.ty v)
    (i % 2 ^ t.width).toNat
  else (tgtFmt x).encode mode (tgtSat x (f.sub == 4)) (readF f.ty v)
/-- PACKN (R165): .SR draws a's Step, then b's. -/
def packnV (f : Fields) (k : Word) (lane : Nat) (a b _ : Word) : LRes :=
  one (w64 (packElem f (cvtMode f k lane 2) b * 2 ^ tgtWidth f.x.toNat + packElem f (cvtMode f k lane 1) a))
/-- UNPKN (R165). -/
def unpknV (f : Fields) (_ : Nat) (a _ _ : Word) : LRes :=
  let x := f.x.toNat
  let w := tgtWidth x
  let e := a.toNat / 2 ^ (if f.sub == 1 then w else 0) % 2 ^ w
  if tgtIsInt x then one (writeI f.ty (bitsInt (isSigned (tgtTy x)) w e))
  else one (writeF f.ty .rn ((tgtFmt x).decode e))

/-! ## Runs (R166 to R170) -/

/-- The reduction of a list of values by SUB (R167). -/
def runFold (f : Fields) (vs : List Word) : Word :=
  let is := vs.map (readI f.ty)
  let ns := vs.map (readN f.ty)
  let lo := loOf (isSigned f.ty) f.ty.width
  let hi := hiOf (isSigned f.ty) f.ty.width
  match f.sub.toNat with
  | 0 => writeI f.ty (is.foldl (· + ·) 0)
  | 1 => writeI f.ty (is.foldl (fun a b => if b < a then b else a) hi)
  | 2 => writeI f.ty (is.foldl (fun a b => if a < b then b else a) lo)
  | 3 => writeN f.ty (ns.foldl (· &&& ·) (2 ^ f.ty.width - 1))
  | 4 => writeN f.ty (ns.foldl (· ||| ·) 0)
  | 5 => writeN f.ty (ns.foldl (· ^^^ ·) 0)
  | 8 => writeF f.ty .rn (if vs.isEmpty then .fin false 0 0 else exSum .rn (vs.map (readF f.ty)))
  | 9 => writeF f.ty .rn (vs.foldl (fun a b => a.min (readF f.ty b)) (.inf false))
  | _ => writeF f.ty .rn (vs.foldl (fun a b => a.max (readF f.ty b)) (.inf true))

/-- The record that a run carries, if it is poisoned: a poison token covers every lane of its run (R166). -/
def runPoison (fr : Firing) : Option PRec := poisonAt fr.ops 0

/-- The values of the run (R166). -/
def runVals (s : State) (fr : Firing) (f : Fields) : List Word :=
  (List.range fr.rl).map fun i => (s.operand fr f 0 i).word

/-- RUNRED: one scalar over the run's lanes (R167). -/
def runredO (f : Fields) (vs : List Word) (pz : Option PRec) : List (Option LVal) :=
  match pz with
  | some r => vs.map fun _ => some (.pois r)
  | none => vs.map fun _ => some (.scal (runFold f vs))
/-- RUNSCAN: lane i is the reduction up to i, or before it when X[0] = 1 (R167); its first exclusive lane is the identity,
poisoned or not (R166). -/
def runscanO (f : Fields) (vs : List Word) (pz : Option PRec) : List (Option LVal) :=
  let ex := xbits f.x 0 1
  (List.range vs.length).map fun i =>
    match pz with
    | some r => if i + 1 - ex = 0 then some (.runv (runFold f [])) else some (.pois r)
    | none => some (.runv (runFold f (vs.take (i + 1 - ex))))
/-- The run index that lane i of RUNSHF receives; none for the fill (R168). -/
def shfSource (sub s rl i : Nat) : Option Nat :=
  match sub with
  | 0 => if s ≤ i then some (i - s) else none
  | 1 => if i + s < rl then some (i + s) else none
  | _ => some ((i + rl - s % rl) % rl)
/-- RUNSHF (R168): the fill is 0, or the constant read at TY; fill lanes are not poisoned (R166). -/
def runshfO (f : Fields) (fill : Word) (vs : List Word) (pz : Option PRec) : List (Option LVal) :=
  (List.range vs.length).map fun i =>
    match shfSource f.sub.toNat (xbits f.x 0 6) vs.length i, pz with
    | none, _ => some (.runv fill)
    | some _, some r => some (.pois r)
    | some j, none => some (.runv (writeN f.ty (readN f.ty (vs.getD j 0))))
/-- RUNBC: lane min(X[4:0], RL - 1) as a scalar (R169). -/
def runbcO (f : Fields) (vs : List Word) (pz : Option PRec) : List (Option LVal) :=
  match pz with
  | some r => vs.map fun _ => some (.pois r)
  | none =>
    let w := vs.getD (min (xbits f.x 0 5) (vs.length - 1)) 0
    vs.map fun _ => some (.scal (writeN f.ty (readN f.ty w)))

/-- Running a run instruction over the firing that has issued (R166). -/
def runRun (f : Fields) (op : List Word → Option PRec → List (Option LVal)) (s : State) : State :=
  match s.issuing with
  | none => s
  | some fr =>
    let o := op (runVals s fr f) (runPoison fr)
    (s.issued.releaseOps fr).laneResult fr f o o

/-- The value that LANE emits in lane ℓ (R170). -/
def laneV (f : Fields) (base : Word) (rl lane : Nat) : Word :=
  match f.sub.toNat with
  | 0 => writeN f.ty lane
  | 1 => writeN f.ty (base.toNat + lane)
  | _ => writeN f.ty rl

/-- Running LANE: a run; its trigger's value is discarded, its poison propagates (R170, R142). -/
def runLane (f : Fields) (s : State) : State :=
  match s.issuing with
  | none => s
  | some fr =>
    let base := ((s.frameOf fr).map (·.base)).getD 0
    let o := (List.range fr.rl).map fun i =>
      match poisonAt fr.ops i with
      | some r => some (LVal.pois r)
      | none => some (.runv (laneV f base fr.rl (fr.lb + i)))
    (s.issued.releaseOps fr).laneResult fr f o o

/-- The constant that seeds .SR in CVTFF, and in PACKN, where the constant on port b takes CK (R145). -/
def seedOf (s : State) (f : Fields) (packs : Bool) : Word :=
  match s.issuing with
  | none => 0
  | some fr => s.constOf fr (f.ck.toNat + (if packs && f.kc then 1 else 0))

/-- The fill of RUNSHF: the constant read at TY, or 0 (R168). -/
def shfFill (s : State) (f : Fields) : Word :=
  match s.issuing, f.kc with
  | some fr, true => writeN f.ty (readN f.ty (s.constOf fr f.ck.toNat))
  | _, _ => 0

end Sys2Proof.Machine
end

