-- ==== Sys2Proof/Machine/Tokens.lean ====
section
/-! DEFINITION. Tokens meeting in frames: regions and contexts, ready queues, the end of frames, frame requests, matching and
firing (R22 to R36, R98 to R106, R128, R278, R280). -/

namespace Sys2Proof.Machine

/-! ## Regions and context slots (R32, R33) -/

/-- Whether a tile lies in a region. -/
def Region.covers (r : Region) (t : Nat) : Bool :=
  tileDie t == r.die && decide (2 * r.qx ≤ tileX t) && decide (tileX t < 2 * (r.qx + r.wm1 + 1))
    && decide (2 * r.qy ≤ tileY t) && decide (tileY t < 2 * (r.qy + r.hm1 + 1))

/-- The tile at a place relative to a region's origin (R59). -/
def Region.tileAt (r : Region) (rx ry : Nat) : Nat := mkTile r.die (2 * r.qx + rx) (2 * r.qy + ry)

/-- Every tile of a region, in ascending y, then x. -/
def Region.tiles (r : Region) : List Nat :=
  (List.range (2 * (r.hm1 + 1))).flatMap fun ry => (List.range (2 * (r.wm1 + 1))).map fun rx => r.tileAt rx ry

/-- The compute tiles of a region. -/
def Region.computeTiles (r : Region) : List Nat := r.tiles.filter isCompute

/-- The graph number, region index and region whose context a slot of a tile is (R32); a graph frozen and released has none. -/
def State.regionAt (s : State) (t ctx : Nat) : Option (Nat × Nat × Region) :=
  s.sw.graphs.findSome? fun g =>
    if g.2.st == .released then none
    else (g.2.regions.zipIdx.find? fun r => r.1.ctx == ctx && r.1.covers t).map fun r => (g.1, r.2, r.1)

/-- A graph by its number. -/
def State.graph? (s : State) (g : Nat) : Option Graph := AList.get? s.sw.graphs g

/-- Changing a graph. -/
def State.onGraph (s : State) (g : Nat) (h : Graph → Graph) : State :=
  match s.graph? g with
  | none => s
  | some x => { s with sw := { s.sw with graphs := AList.set s.sw.graphs g (h x) } }

/-- A region of a graph. -/
def State.region? (s : State) (g v : Nat) : Option Region := (s.graph? g).bind fun x => x.regions[v]?

/-- Changing a region of a graph. -/
def State.onRegion (s : State) (g v : Nat) (h : Region → Region) : State :=
  s.onGraph g fun x => match x.regions[v]? with
    | none => x
    | some r => { x with regions := setNth x.regions v (h r) }

/-- The job whose context a slot of a tile is. -/
def State.jobAt (s : State) (t ctx : Nat) : Option Nat :=
  (s.regionAt t ctx).bind fun p => (s.graph? p.1).map (·.jid)

/-- The job of a firing. -/
def State.jobOf (s : State) (fr : Firing) : Option Nat := s.jobAt fr.tile fr.ctx

/-- Whether a freeze wave has stopped firing in a context slot of a tile (R377). -/
def State.frozenAt (s : State) (t ctx : Nat) : Bool :=
  match s.regionAt t ctx with
  | none => false
  | some p => match s.graph? p.1 with
    | some g => g.st != .bound
    | none => false

/-! ## Ready queues (R34, R36) -/

/-- The depth of a queue (R34). -/
def QId.depth : QId → Nat
  | .lane | .port => 64
  | .mat => 2
  | _ => 32

/-- A queue of a tile. -/
def CTile.queue (c : CTile) : QId → ReadyQ
  | .lane => c.qlane | .row => c.qrow | .mat => c.qmat | .port => c.qport | .nbh => c.qnbh | .nbv => c.qnbv
  | .send => c.qsend

/-- Setting a queue of a tile. -/
def CTile.setQueue (c : CTile) (q : QId) (r : ReadyQ) : CTile :=
  match q with
  | .lane => { c with qlane := r }
  | .row => { c with qrow := r }
  | .mat => { c with qmat := r }
  | .port => { c with qport := r }
  | .nbh => { c with qnbh := r }
  | .nbv => { c with qnbv := r }
  | .send => { c with qsend := r }

/-- Every queue. -/
def QId.all : List QId := [.lane, .row, .mat, .port, .nbh, .nbv, .send]

/-- Whether an instruction is a chained node: groups 0x9 and 0xB with SEQ other than 0 (R51, R278). -/
def isChained (op : Nat) (f : Fields) : Bool :=
  ((0x90 ≤ op && op < 0x98) || (0xB0 ≤ op && op < 0xBF)) && xbits f.x 3 7 != 0

/-- NEXT of a chain on a lane (R278). -/
def Frame.chainNext (fr : Frame) (ch lane : Nat) : Nat := AList.getD fr.chain (ch * 32 + lane) 0

/-- Whether a chained firing is next on every lane that it covers (R278). -/
def State.isNext (s : State) (fr : Firing) (f : Fields) : Bool :=
  match s.frameOf fr with
  | none => false
  | some x => (List.range fr.rl).all fun i => x.chainNext (xbits f.x 10 2) (fr.lb + i) + 1 == xbits f.x 3 7

/-- Whether a firing has room where it goes: its queue, or the chain-hold buffer for a chained one that is not next (R34, R280). -/
def State.hasRoom (s : State) (fr : Firing) : Bool :=
  match s.fieldsOf fr with
  | none => true
  | some (op, f) =>
    let c := s.tile fr.tile
    if isChained op f && !s.isNext fr f then decide (c.chainHold.length < 64)
    else decide ((c.queue (queueOf fr op f)).ents.length < (queueOf fr op f).depth)

/-- The account of a job at a tile is active in the period that runs (R411). -/
def CTile.markActive (c : CTile) (jid : Option Nat) : CTile :=
  { c with accts := c.accts.map fun a => if some a.2.jid == jid then (a.1, { a.2 with active := true }) else a }

/-- Whether an instruction of the port queue sends requests: FENCE and WAITC, ORD and REGION send none (R277, R281, R287, R313). -/
def sendsRequest (op : Nat) : Bool := !(op == 0xD0 || op == 0xD1 || op == 0x96 || op == 0x97)

/-- A firing with room enters its queue, with the present clk as its age, or the chain-hold buffer (R36, R280). -/
def State.enqueue (s : State) (fr : Firing) : State :=
  match s.fieldsOf fr with
  | none => s
  | some (op, f) =>
    if isChained op f && !s.isNext fr f then s.onTile fr.tile fun c => { c with chainHold := c.chainHold ++ [fr] }
    else s.onTile fr.tile fun c =>
      let q := queueOf fr op f
      (if q = .port ∧ sendsRequest op then c.markActive (s.jobOf fr) else c).setQueue q { c.queue q with ents := (c.queue q).ents ++ [(s.clk, fr)] }

/-- A firing that the matching store makes enters where it goes, or is held while there is no room (R34). -/
def State.fire (s : State) (fr : Firing) : State :=
  if (s.tile fr.tile).held.isEmpty && s.hasRoom fr then s.enqueue fr
  else s.onTile fr.tile fun c => { c with held := c.held ++ [fr] }

/-- Several firings, in order. -/
def State.fireAll (s : State) (frs : List Firing) : State := frs.foldl State.fire s

/-- The index of the first held firing that has room, each queue's held firings entering in order. -/
def firstRoom (s : State) : List Firing → List QId → Nat → Option Nat
  | [], _, _ => none
  | fr :: rest, full, i =>
    let q := match s.fieldsOf fr with
      | some (op, f) => queueOf fr op f
      | none => .lane
    if !full.contains q && s.hasRoom fr then some i else firstRoom s rest (q :: full) (i + 1)

/-- HELD_FIRING_ENTER_QUEUE: a held firing enters in the clk in which it finds room (R34, R36). -/
def heldEnter (s : State) (t : Nat) : State :=
  match firstRoom s (s.tile t).held [] 0 with
  | none => s
  | some i =>
    match (s.tile t).held[i]? with
    | none => s
    | some fr => (s.onTile t fun c => { c with held := dropNth c.held i }).enqueue fr

/-! ## Frames ending (R104) -/

/-- Whether a firing belongs to a frame of its tile. -/
def Firing.of (fi : Nat) (fr : Firing) : Bool := fr.fi == fi

/-- A tile without the fired entries of a frame that have not issued, and without its frame requests (R104). -/
def CTile.dropEntries (c : CTile) (fi : Nat) : CTile :=
  let c := QId.all.foldl (fun (c : CTile) q =>
    c.setQueue q { c.queue q with ents := (c.queue q).ents.filter fun e => !e.2.of fi }) c
  { c with
    held := c.held.filter fun e => !e.of fi
    chainHold := c.chainHold.filter fun e => !e.of fi
    allocq := c.allocq.map fun p => (p.1, p.2.filter fun r => r.owner != some fi) }

/-- The handles among the entries and requests that a frame drops. -/
def CTile.dropHandles (c : CTile) (fi : Nat) : List Word :=
  let ents := QId.all.flatMap fun q => (c.queue q).ents.map (·.2)
  ((ents ++ c.held ++ c.chainHold).filter (Firing.of fi)).flatMap Firing.handles
    ++ (c.allocq.flatMap fun p => (p.2.filter fun r => r.owner == some fi).flatMap fun r =>
          r.toks.filterMap fun k => k.pay.handle?)

/-- A channel of a memory tile. -/
def MTile.chan (c : MTile) (n : Nat) : Chan := AList.getD c.chans n {}
/-- Setting a channel. -/
def MTile.setChan (c : MTile) (n : Nat) (x : Chan) : MTile := { c with chans := AList.set c.chans n x }
/-- Changing a channel of a memory tile. -/
def State.onChan (s : State) (m n : Nat) (g : Chan → Chan) : State := s.onMtile m fun c => c.setChan n (g (c.chan n))

/-- WP has reached a target (R292). -/
def reached (wp t : Nat) : Bool := decide ((wp + 2 ^ 32 - t % 2 ^ 32) % 2 ^ 32 < 2 ^ 31)

/-- One round of a channel's CPYWAITs: those whose targets WP has reached emit done, and higher lanes of a firing take the places that
are free (R297, R458). -/
def waitRound : Nat → State → Nat → Nat → State
  | 0, s, _, _ => s
  | k + 1, s, m, n =>
    let x := (s.mtile m).chan n
    let go := x.waits.filter fun w => reached x.wp w.2.2.1
    let stay := x.waits.filter fun w => !reached x.wp w.2.2.1
    let s := s.onChan m n fun x => { x with waits := stay ++ x.wq.take (16 - stay.length), wq := x.wq.drop (16 - stay.length) }
    let s := go.foldl (fun (s : State) w => (s.emit1 w.1 w.2.1.d0 w.2.2.2 .dn).uncount w.1 .ocp) s
    if go.isEmpty && x.wq.isEmpty then s else waitRound k s m n

/-- The CPYWAITs whose targets WP has reached emit done (R297). -/
def releaseWaits (s : State) (m n : Nat) : State := waitRound (((s.mtile m).chan n).wq.length + 2) s m n

/-- The CPYWAITs of a frame that has entered ENDING are discarded (R297), and its CPYMs that wait to deliver are (R296). -/
def dropWaits (s : State) (t fi : Nat) : State :=
  [memTileOf t 0, memTileOf t 1].foldl (fun (s : State) m =>
    (List.range 4).foldl (fun (s : State) n =>
      let x := (s.mtile m).chan n
      let ws := (x.waits ++ x.wq).filter fun w => w.1.tile == t && w.1.fi == fi
      let ms := x.mma.filter fun c => c.firing.tile == t && c.firing.fi == fi
      if ws.isEmpty && ms.isEmpty then s
      else
        let s := s.onChan m n fun x => { x with
          waits := x.waits.filter (fun w => !(w.1.tile == t && w.1.fi == fi))
          wq := x.wq.filter (fun w => !(w.1.tile == t && w.1.fi == fi))
          mma := x.mma.filter fun c => !(c.firing.tile == t && c.firing.fi == fi) }
        let s := ws.foldl (fun (s : State) w => s.uncount w.1 .ocp) s
        releaseWaits (ms.foldl (fun (s : State) c => (s.releaseOps c.firing).uncount c.firing .ocp) s) m n) s) s

/-- A frame enters ENDING (R104): its parked operands, its unissued entries and its frame requests go, and each handle among
them releases its reference. A CPYM whose MMA has not issued no longer counts (R296). A frame that is granted and not yet LIVE is
marked, and ends when it becomes LIVE (R102). A FROZEN frame stays FROZEN (R106) and is marked likewise: it ends should its graph come
back into service. -/
def State.endFrame (s : State) (t fi : Nat) : State :=
  match s.frame? t fi with
  | none => s
  | some fr =>
    match fr.st with
    | .granted => s.onFrame t fi fun x => { x with doomed := true }
    | .ending => s
    | .frozen => s.onFrame t fi fun x => { x with doomed := true }
    | .live =>
      let hs := fr.parked.filterMap (fun p => p.val.handle?) ++ (s.tile t).dropHandles fi
      let left := (s.tile t).qmat.ents.filter fun e => e.2.of fi && (s.fieldsOf e.2).any fun p => p.1 == 0xA1
      let fr : Frame := { fr with
        ocp := fr.ocp - left.length
        outl := left.foldl (fun l e => dropOut e.2.ser .ocp l) fr.outl }
      let s := s.onTile t fun c => (c.dropEntries fi).setFrame fi { fr with st := .ending, parked := [] }
      dropWaits (s.releaseAll (tileDie t) hs) t fi

/-- The frames of a unit, by tile and index (R103). -/
def State.unitFrames (s : State) (u : UnitId) : List (Nat × Nat) :=
  s.ct.flatMap fun c => (c.2.frames.filter fun f => f.2.unit == u).map fun f => (c.1, f.1)

/-- Every frame of a unit enters ENDING (R104, R372). -/
def State.endUnit (s : State) (u : UnitId) : State :=
  (s.unitFrames u).foldl (fun s p => s.endFrame p.1 p.2) s

/-- Lanes of a frame end (R104); when every active lane has ended, the frame enters ENDING. -/
def State.endLanes (s : State) (fr : Firing) : State :=
  let s := s.onFrame fr.tile fr.fi fun x =>
    { x with ended := x.ended ++ ((List.range fr.rl).map (fr.lb + ·)).filter fun l => !x.ended.contains l }
  match s.frameOf fr with
  | some x => if x.active.all x.ended.contains then s.endFrame fr.tile fr.fi else s
  | none => s

/-! ## Frame requests (R98 to R103) -/

/-- Cells of a frame of a block (R28, R98). -/
def Block.cells (b : Block) : Nat := b.ns * ceilDiv b.lw 8 + 1

/-- QUOTA of a context slot; above 8192 it acts as 8192 (R107). -/
def CTile.quotaOf (c : CTile) (ctx : Nat) : Nat := min (AList.getD c.quota ctx 8192) 8192

/-- USED of a context slot (R107). -/
def CTile.usedOf (c : CTile) (ctx : Nat) : Nat :=
  c.frames.foldl (fun n f => if f.2.ctx = ctx then n + f.2.cells else n) 0

/-- Free cells of the frame store (R107). -/
def CTile.freeCells (c : CTile) : Nat := 8192 - c.frames.foldl (fun n f => n + f.2.cells) 0

/-- The allocation queue of a context slot (R100). -/
def CTile.allocOf (c : CTile) (ctx : Nat) : List AllocReq := AList.getD c.allocq ctx []

/-- A request enters its context's queue (R100). -/
def State.request (s : State) (t : Nat) (r : AllocReq) : State :=
  s.onTile t fun c => { c with
    seq := c.seq + 1
    allocq := AList.set c.allocq r.ctx (c.allocOf r.ctx ++ [{ r with seq := c.seq }]) }

/-- The cells that a request asks for: those of its block's frame. -/
def CTile.reqCells (c : CTile) (r : AllocReq) : Nat := ((c.entry r.ctx r.blk).map fun e => e.block.cells).getD 0

/-- Whether a request fits its context's quota (R98, R100). -/
def CTile.fitsQuota (c : CTile) (r : AllocReq) : Bool := decide (c.usedOf r.ctx + c.reqCells r ≤ c.quotaOf r.ctx)

/-- The request that the tile considers: the oldest among the queue heads that fit their quota (R100). -/
def CTile.allocHead (c : CTile) (open? : Nat → Bool) : Option AllocReq :=
  leastBy (fun a b => decide (a.seq < b.seq)) ((c.allocq.filterMap fun p => p.2.head?).filter fun r => open? r.ctx && c.fitsQuota r)

/-- Whether a request is satisfiable (R98). -/
def CTile.satisfiable (c : CTile) (r : AllocReq) : Bool :=
  decide (c.reqCells r ≤ c.freeCells) && (c.tags.take 4096).isSome && c.fitsQuota r

/-- The frames that a LOOPN still has to ask for after frame j of its first loop: the next loop state, none when that was the
last frame of the last loop (R132). -/
def LoopSt.advance (l : LoopSt) (lw : Nat) : Option LoopSt :=
  match l.loops with
  | [] => none
  | (n, _) :: rest =>
    if (l.j + 1) * lw < n then some { l with j := l.j + 1 }
    else
      let rest := rest.filter fun p => decide (0 < p.1)
      if rest.isEmpty then none else some { l with loops := rest, j := 0 }

/-- The request for frame j of a LOOPN (R102, R132): active lanes 0 to min(LW, N - j LW) - 1, and b as a scalar over them;
a done or a poison record goes to them as itself (log entry 135). -/
def LoopSt.req (l : LoopSt) (r : AllocReq) (lw : Nat) : AllocReq :=
  let n := (l.loops.head?.map (·.1)).getD 0
  let b := (l.loops.head?.map (·.2)).getD .dn
  let k := min lw (n - l.j * lw)
  let pay : Payload := match b with
    | .pois r => .poison r
    | .dn => .done
    | v => .scalar v.word
  { r with
    base := w64 (l.j * lw)
    active := List.range k
    toks := if l.ar = 2 then
        [{ dst := l.firing.tile, ctx := r.ctx, fi := 0, blk := r.blk, ix := l.ix, port := l.port, lb := 0, rl := k, pay := pay }]
      else []
    loop := some l }

/-- FRAME_REQUEST_GRANT: the oldest head that fits its quota takes the FI at the head of the tag pool and its cells, if it is
satisfiable (R98 to R102); a context that a freeze wave has reached asks for none (R377). A LOOPN's next request enters in the same clk, unless the context's QUOTA has been set below it meanwhile, which refuses it (R101); its
last grant emits its done (R132). -/
def frameGrant (s : State) (t : Nat) : State :=
  let c := s.tile t
  match c.allocHead fun x => !s.frozenAt t x with
  | none => s
  | some r =>
    match c.satisfiable r, c.tags.take 4096, c.entry r.ctx r.blk with
    | true, some (fi, tags), some e =>
      let x : Frame :=
        { st := .granted, lw := e.block.lw, blk := r.blk, ns := e.block.ns, ctx := r.ctx, base := r.base, ret := r.ret,
          argp := r.argp, lslot := r.lslot, cells := e.block.cells, unit := r.unit, active := r.active,
          ended := (List.range e.block.lw).filter fun l => !r.active.contains l,
          pend := r.toks.map fun k => { k with fi := fi } }
      let s := s.setTile t { (c.setFrame fi x) with
        tags := tags, allocq := AList.set c.allocq r.ctx ((c.allocOf r.ctx).drop 1) }
      match r.loop with
      | none => s
      | some l =>
        match l.advance e.block.lw with
        | some l' =>
          if c.quotaOf r.ctx < e.block.cells then s.raise l.firing { cause := 0x09, extra := w64 e.block.cells }
          else s.request t (l'.req r e.block.lw)
        | none => s.emitDone l.firing l.d1
    | _, _, _ => s

/-- The firings of a block's arity-0 instructions in ascending IX, each over the maximal ranges of the active lanes (R25, R102). -/
def arity0 (t fi : Nat) (x : Frame) (b : Block) : List Firing :=
  (List.range b.words.length).flatMap fun ix =>
    match b.fields? ix with
    | some (_, f) =>
      if f.ar.toNat = 0 then
        (groupLanes 0 ((List.range x.lw).map fun l => if x.active.contains l then some LVal.dn else none)).map fun g =>
          { tile := t, ctx := x.ctx, fi := fi, blk := x.blk, ix := ix, lb := g.1, rl := g.2.length, ops := [] }
      else []
    | none => []

/-- FRAME_BECOMES_LIVE: two clk after its grant a frame becomes LIVE, its arity-0 instructions fire, and then its creator's
tokens enter; a frame whose unit has ended meanwhile enters ENDING and nothing fires (R102). -/
def frameLive (s : State) (t fi : Nat) : State :=
  match s.frame? t fi with
  | none => s
  | some x =>
    if x.st != .granted then s
    else
      let s := s.onFrame t fi fun x => { x with st := .live, pend := [] }
      if x.doomed then (s.releaseAll (tileDie t) (x.pend.filterMap fun k => k.pay.handle?)).endFrame t fi
      else
        let s := match (s.tile t).entry x.ctx x.blk with
          | some e => s.fireAll (arity0 t fi x e.block)
          | none => s
        s.deliverAll .engine x.pend

/-! ## Matching (R26, R27) -/

/-- The frame slots that an instruction uses (R25). -/
def slotsOf (f : Fields) : List Nat := (List.range (f.ar.toNat - 1)).map (f.sl.toNat + ·)

/-- What matching one lane of an arriving token does: it fails, parks in a slot, or fires with the operands in port order. -/
inductive Match where
  | fault
  | park (slot : Nat)
  | fire (ops : List LVal)
deriving DecidableEq, Repr

/-- Matching one lane (R26): operands are matched by port, whatever slot they occupy. -/
def matchLane (f : Fields) (ix : Nat) (parked : List Parked) (lane port : Nat) (v : LVal) : Match :=
  let n := f.ar.toNat
  let slots := slotsOf f
  let inRange := parked.filter fun p => slots.contains p.slot
  let here := inRange.filter fun p => p.lane == lane
  if inRange.any (fun p => p.owner != ix) || here.any (fun p => p.port == port) then .fault
  else if here.length + 1 = n then
    .fire ((List.range n).map fun p =>
      if p = port then v else ((here.find? fun q => q.port == p).map (·.val)).getD .dn)
  else
    match slots.find? fun j => !here.any fun p => p.slot == j with
    | some j => .park j
    | none => .fault

/-- The result of matching a token's lanes in turn: the operands left parked, the lanes that fired with their operands, or none
for a frame overrun. -/
def matchLanes (f : Fields) (ix port : Nat) : List Parked → List (Nat × LVal) → Option (List Parked × List (Nat × List LVal))
  | parked, [] => some (parked, [])
  | parked, (l, v) :: rest =>
    match matchLane f ix parked l port v with
    | .fault => none
    | .park j => matchLanes f ix port (parked ++ [{ slot := j, lane := l, port := port, owner := ix, val := v }]) rest
    | .fire ops =>
      let left := parked.filter fun p => !((slotsOf f).contains p.slot && p.lane == l)
      (matchLanes f ix port left rest).map fun r => (r.1, (l, ops) :: r.2)

/-- Fired lanes split into maximal ranges of consecutive lanes (R27). -/
def rangesOf : List (Nat × List LVal) → List (Nat × List (List LVal))
  | [] => []
  | (l, o) :: rest =>
    match rangesOf rest with
    | (l', os) :: gs => if l' = l + 1 then (l, o :: os) :: gs else (l, [o]) :: (l', os) :: gs
    | [] => [(l, [o])]

/-- Lane-major operands turned into one list for each port. -/
def byPort (n : Nat) (lanes : List (List LVal)) : List (List LVal) :=
  (List.range n).map fun p => lanes.map fun o => o.getD p .dn

/-- The firings of a token's fired lanes, in ascending LB (R27). -/
def firingsOf (k : Token) (n : Nat) (fired : List (Nat × List LVal)) : List Firing :=
  (rangesOf fired).map fun g =>
    { tile := k.dst, ctx := k.ctx, fi := k.fi, blk := k.blk, ix := k.ix, lb := g.1, rl := g.2.length, ops := byPort n g.2 }

/-- The value that MERGE leaves parked for a first arrival: its value has already left (R127). -/
def mergeMark (ps : List Parked) (ix : Nat) : List Parked :=
  ps.map fun p => if p.owner == ix then { p with val := .dn } else p

/-- The lanes of a token that no ended lane of its frame takes (R105). -/
def openLanes (x : Frame) (k : Token) : List (Nat × LVal) :=
  (((k.pay.lanes k.rl).zipIdx).map fun p => (k.lb + p.2, p.1)).filter fun p => !x.ended.contains p.1

/-- An arriving token at a LIVE frame: lanes on ended lanes drop out, the others are matched, and the fired ranges enter their
queue (R26, R27, R105). The first arrival on a lane of MERGE both parks and fires (R127). -/
def matchToken (s : State) (k : Token) (x : Frame) (b : Block) : State :=
  match b.fields? k.ix with
  | none => s.discardCount k
  | some (op, f) =>
    let lanes := openLanes x k
    if lanes.isEmpty then s.discardCount k
    else
      match matchLanes f k.ix k.port x.parked lanes with
      | none => (s.discard k).raiseAt k 0x09 0
      | some (parked, fired) =>
        let first := if op == 0x05 then lanes.filter fun p => !(fired.any fun q => q.1 == p.1) else []
        let s := s.onFrame k.dst k.fi fun x =>
          { x with parked := if op == 0x05 then mergeMark parked k.ix else parked }
        s.fireAll (firingsOf k 1 (first.map fun p => (p.1, [p.2])) ++ firingsOf k f.ar.toNat fired)

/-- Whether a token delivered to a link fails the check on arrival (R128). -/
def linkFails (k : Token) (x : Frame) (b : Block) : Bool :=
  k.blk != x.blk || decide (b.words.length ≤ k.ix) || decide (b.arity k.ix ≤ k.port) || decide (x.lw < k.lb + k.rl)

/-- A token's header (R22); the KIND of a poison token is 0 (R115 leaves it open; log entry 14). -/
def Token.header (k : Token) : Word :=
  let kind := match k.pay with
    | .scalar _ => 0 | .run _ => 1 | .handle _ => 2 | .done => 3 | .poison _ => 0
  let pz := match k.pay with
    | .poison _ => 1 | _ => 0
  w64 (k.ctx * 2 ^ 60 + k.fi * 2 ^ 48 + k.blk * 2 ^ 44 + k.ix * 2 ^ 37 + k.port * 2 ^ 35 + k.lb * 2 ^ 30 + k.rl * 2 ^ 24
    + kind * 2 ^ 22 + pz * 2 ^ 21 + k.dst * 2 ^ 7)

/-- The matching store handles one arriving token (R26, R31, R105, R108, R128). -/
def arrive (s : State) (k : Token) : State :=
  match (s.tile k.dst).entry k.ctx k.blk with
  | none => s.discardCount k
  | some e =>
    match s.frame? k.dst k.fi with
    | none => s.discardCount k
    | some x =>
      if x.st != .live then s.discardCount k
      else if k.link && linkFails k x e.block then (s.discard k).raiseAt k 0x09 k.header
      else matchToken s k x e.block

/-- Whether a token `y` that stands before another one, `x`, in order of arrival or after it must be handled first: at one input the
earlier goes first, and of two that arrived in one clk the one at the earlier input (R24). -/
def Arrived.first (y x : Arrived) (earlier : Bool) : Bool :=
  (y.via == x.via && earlier) || (y.clk == x.clk && decide (y.via.rank < x.via.rank))

/-- Whether the n-th token that waits at a tile is one that the tile may handle next: none that must be handled before it waits, but for
tokens that a freeze wave has caught (R24, R377). -/
def tokenNext (s : State) (t n : Nat) : Bool :=
  match (s.tile t).inputs[n]? with
  | none => false
  | some x => !((s.tile t).inputs.zipIdx.any fun y => y.2 != n && !s.frozenAt t y.1.tok.ctx && y.1.first x (decide (y.2 < n)))

/-- TOKEN_ARRIVAL: the matching store handles the n-th token that waits at a tile: one in each clk, in the order of R24, and none while
a held firing stops it (R34). A context that a freeze wave has reached catches its tokens, which keep waiting (R377); at a DEAD tile it
is discarded (R391). -/
def tokenArrival (s : State) (t n : Nat) : State :=
  match (s.tile t).inputs[n]?, (s.tile t).held with
  | some k, [] =>
    if s.frozenAt t k.tok.ctx || !tokenNext s t n || decide (s.clk < (s.tile t).took) then s
    else
      let s := s.onTile t fun c => { c with inputs := dropNth c.inputs n, took := s.clk + 1 }
      if s.tileDead t then s.discard k.tok else arrive s k.tok
  | _, _ => s

end Sys2Proof.Machine
end

