-- ==== Sys2Proof/Machine/Flow.lean ====
section
/-! DEFINITION. Group 0x0, CFGNEXT and CFGLOAD (R115 to R138), but for ARG, which is a load (Ports.lean). -/

namespace Sys2Proof.Machine

/-- Running a pure data instruction of group 0x0 over the firing that has issued. -/
def withFiring (s : State) (g : Firing → State → State) : State :=
  match s.issuing with
  | none => s
  | some fr => g fr s.issued

/-- The lanes of a firing, counted from its LB. -/
def lanesOf (fr : Firing) : List Nat := List.range fr.rl

/-- DROP (R123): emits nothing; a handle is released, poison vanishes. -/
def runDrop (s : State) : State := withFiring s fun fr s => s.releaseOps fr

/-- The third destination of DUP: X[9:0] in the layout of D0 (R124). -/
def dupThird (f : Fields) : Option Dest := (decodeDest (xbits f.x 0 10)).join

/-- The non-empty destinations of DUP, in order (R124). -/
def dupDests (f : Fields) : List Dest := [f.d0, f.d1, dupThird f].filterMap id

/-- Lane values as outputs of every lane. -/
def allLanes (vs : List LVal) : List (Option LVal) := vs.map some

/-- DUP (R124): the operand to each destination. A handle that goes to several destinations first sends the increment to its
memory tile, counted in OTO, and its copies wait for the acknowledgement (R122). -/
def runDup (f : Fields) (s : State) : State :=
  withFiring s fun fr s =>
    let ds := dupDests f
    let vs := fr.ops.headD []
    if ds.isEmpty then s.releaseOps fr
    else if !fr.handles.isEmpty && decide (1 < ds.length) then
      (s.onTile fr.tile fun c => { c with acks := c.acks ++ [(fr, ds)] }).count fr .oto
    else s.laneEmit fr.tile (ds.flatMap fun d => tokensTo fr d fr.lb (allLanes vs))

/-- Raising REFS of a handle's descriptor by k (R182). -/
def State.addRefs (s : State) (die : Nat) (h : Word) (k : Nat) : State :=
  s.onMtile (hTile die h) fun c =>
    let x := c.desc (hDesc h)
    c.setDesc (hDesc h) { x with refs := x.refs + k }

/-- Whether raising REFS by k would take it above 65,535 (R182). -/
def State.refsOver (s : State) (die : Nat) (h : Word) (k : Nat) : Bool :=
  decide (65535 < ((s.mtile (hTile die h)).desc (hDesc h)).refs + k)

/-- HANDLE_INCREMENT_ACK: the memory tile performs the increment and the copies are emitted; a handle that has gone stale raises a
stale handle fault (R178), and an increment above 65,535 a handle owner fault, at the instruction that asked for it (R122, R182). -/
def handleAck (s : State) (t n : Nat) : State :=
  match (s.tile t).acks[n]? with
  | none => s
  | some (fr, ds) =>
    let die := tileDie t
    let k := ds.length - 1
    let s := (s.onTile t fun c => { c with acks := dropNth c.acks n }).uncount fr .oto
    match fr.handles.head? with
    | none => s
    | some h =>
      if staleIn (s.mtile (hTile die h)) h then s.raise fr { cause := 0x06, port := 0, extra := h }
      else if s.refsOver die h k then (s.releaseOps fr).raise fr { cause := 0x05, port := 0, extra := h }
      else ds.foldl (fun s d => s.emit fr (some d) fr.lb (allLanes (fr.ops.headD []))) (s.addRefs die h k)

/-- A lane value carries a true predicate: bit 0 (R125). -/
def LVal.isTrue (v : LVal) : Bool := v.word.toNat % 2 == 1

/-- The outputs of SWITCH on one arm (R125). Where both operands of a lane are poison, R117 would name the record of port a, and the
pseudocode of R125 emits that of b, the predicate: the model follows the pseudocode of the instruction (DEDUCED, log entry 95). -/
def switchArm (fr : Firing) (arm : Bool) : List (Option LVal) :=
  (lanesOf fr).map fun i =>
    match (opAt fr.ops 1 i).poison? with
    | some r => some (.pois r)
    | none => if (opAt fr.ops 1 i).isTrue == arm then some (opAt fr.ops 0 i) else none

/-- The handles that SWITCH discards: the data of lanes whose predicate is poison, the predicate, and data for an empty arm. -/
def switchDrops (fr : Firing) (f : Fields) : List Word :=
  (lanesOf fr).filterMap (fun i => if ((opAt fr.ops 1 i).poison?).isSome then (opAt fr.ops 0 i).handle? else none)
    ++ (fr.ops.getD 1 []).filterMap LVal.handle?
    ++ (if f.d0.isNone then outHandles (switchArm fr true) else [])
    ++ (if f.d1.isNone then outHandles (switchArm fr false) else [])

/-- SWITCH (R125). -/
def runSwitch (f : Fields) (s : State) : State :=
  withFiring s fun fr s =>
    (s.releaseAll (tileDie fr.tile) (switchDrops fr f)).laneResult fr f (switchArm fr true) (switchArm fr false)

/-- The result of SELECT on one lane: its value, and the value it discards (R125). -/
def selectLane (a b c : LVal) : LVal × List LVal :=
  match a with
  | .pois r => (.pois r, [b, c])
  | _ => if a.isTrue then (b, [c]) else (c, [b])

/-- SELECT (R125): the winnow is silent and releases handles (R119, R122). -/
def runSelect (f : Fields) (s : State) : State :=
  withFiring s fun fr s =>
    let rs := (lanesOf fr).map fun i =>
      selectLane (s.operand fr f 0 i) (s.operand fr f 1 i) (s.operand fr f 2 i)
    let outs := rs.map fun r => some r.1
    let drops := (rs.flatMap (·.2)).filterMap LVal.handle? ++ (fr.ops.getD 0 []).filterMap LVal.handle?
      ++ (if f.d0.isNone then outHandles outs else [])
    (s.releaseAll (tileDie fr.tile) drops).laneResult fr f outs []

/-- GATE on one lane (R126, R117). -/
def gateLane (a b : LVal) : LVal :=
  match a, b with
  | .pois r, _ => .pois r
  | _, .pois r => .pois r
  | v, _ => v

/-- GATE (R126). -/
def runGate (f : Fields) (s : State) : State :=
  withFiring s fun fr s =>
    let outs := (lanesOf fr).map fun i => some (gateLane (opAt fr.ops 0 i) (opAt fr.ops 1 i))
    let drops := (fr.ops.getD 1 []).filterMap LVal.handle?
      ++ (lanesOf fr).filterMap (fun i => if ((opAt fr.ops 1 i).poison?).isSome then (opAt fr.ops 0 i).handle? else none)
      ++ (if f.d0.isNone then outHandles outs else [])
    (s.releaseAll (tileDie fr.tile) drops).laneResult fr f outs []

/-- MERGE (R127): a first arrival has fired alone and is emitted; the second fires with both ports and is discarded. -/
def runMerge (f : Fields) (s : State) : State :=
  withFiring s fun fr s =>
    if fr.ops.length = 1 then
      let vs := allLanes (fr.ops.headD [])
      (if f.d0.isNone then s.releaseOps fr else s).laneResult fr f vs []
    else s.releaseOps fr

/-! ## Links (R121, R128) -/

/-- A link's 64 bits (R121). -/
def mkLink (dst ctx fi blk ix port : Nat) : Word :=
  w64 (dst + ctx * 2 ^ 14 + fi * 2 ^ 18 + blk * 2 ^ 30 + ix * 2 ^ 34 + port * 2 ^ 41)

/-- A token to the port that a link names. -/
def linkToken (l : Word) (lb rl : Nat) (p : Payload) : Token :=
  { dst := field l 0 14, ctx := field l 14 4, fi := field l 18 12, blk := field l 30 4, ix := field l 34 7,
    port := field l 41 2, lb := lb, rl := rl, link := true, pay := p }

/-- The tokens that lane values make when sent to a link. -/
def linkTokens (l : Word) (lb : Nat) (vs : List LVal) : List Token :=
  (tokenize lb (allLanes vs)).map fun p => linkToken l p.1 p.2.1 p.2.2

/-- The check of a SEND's target (R128, R391, R172): the cause that it raises, with the word that w5 holds. -/
def sendFault (s : State) (fr : Firing) (l : Word) (v : LVal) : Option (Nat × Word) :=
  let t := field l 0 14
  if field l 43 21 != 0 then some (0x03, 0)
  else if s.tileDead t then some (0x12, 0)
  else if !isCompute t || !s.dieUp (tileDie t) || s.jobAt t (field l 14 4) != s.jobOf fr || (s.jobOf fr).isNone then
    some (0x03, 0)
  else match v.handle? with
    | some h => if tileDie t != tileDie fr.tile then some (0x05, h) else none
    | none => none

/-- The lanes of a SEND grouped by equal links: (link, first lane from LB, values). -/
def sendGroups : Nat → List (Word × LVal) → List (Word × Nat × List LVal)
  | _, [] => []
  | i, (l, v) :: rest =>
    match sendGroups (i + 1) rest with
    | (l', j, vs) :: gs => if l' = l then (l, i, v :: vs) :: gs else (l, i, [v]) :: (l', j, vs) :: gs
    | [] => [(l, i, [v])]

/-- Sending lane values to their links and reporting on D1, unless a check of any lane fails, which sends nothing (R128);
consecutive lanes with one link make one token (log entry 134). -/
def sendAll (f : Fields) (fr : Firing) (port : Nat) (ls : List (Word × LVal)) (s : State) : State :=
  match ls.zipIdx.findSome? fun p => (sendFault s fr p.1.1 p.1.2).map fun e => (p.2, e) with
  | some (i, c, w) =>
    (s.releaseOps fr).raise fr { cause := c, port := if c = 0x05 then 0 else port, lane := i, extra := w }
  | none =>
    let toks := (sendGroups 0 ls).flatMap fun g => linkTokens g.1 (fr.lb + g.2.1) g.2.2
    let s := if port = 1 then s.releaseAll (tileDie fr.tile) ((fr.ops.getD 1 []).filterMap LVal.handle?) else s
    (s.departAll toks).emitDone fr f.d1

/-- SEND_LINK: a to the link that b holds (R128). -/
def runSendLink (f : Fields) (s : State) : State :=
  withFiring s fun fr s =>
    match firstPoison fr with
    | some (l, p, r) => (s.releaseOps fr).raisePoison fr p l r
    | none => sendAll f fr 1 ((lanesOf fr).map fun i => ((opAt fr.ops 1 i).word, opAt fr.ops 0 i)) s

/-- SEND_RET: a to the frame's RET link; with an empty RET, a is discarded (R128). -/
def runSendRet (f : Fields) (s : State) : State :=
  withFiring s fun fr s =>
    match firstPoison fr with
    | some (l, p, r) => (s.releaseOps fr).raisePoison fr p l r
    | none =>
      let ret := ((s.frameOf fr).map (·.ret)).getD 0
      if ret = 0 then (s.releaseOps fr).emitDone fr f.d1
      else sendAll f fr 3 ((lanesOf fr).map fun i => (ret, opAt fr.ops 0 i)) s

/-! ## Frames made by programs (R129 to R133) -/

/-- An entry constant's block (R121). -/
def entBlk (e : Word) : Nat := field e 0 4
/-- An entry constant's instruction index. -/
def entIx (e : Word) : Nat := field e 4 7
/-- An entry constant's port. -/
def entPort (e : Word) : Nat := field e 11 2

/-- The check of an entry constant for a delivery of n ports (R129, R132): the block it enters. -/
def checkEntry (s : State) (fr : Firing) (e : Word) (n : Nat) : Option Block :=
  if field e 13 51 != 0 then none
  else match (s.tile fr.tile).entry fr.ctx (entBlk e) with
    | none => none
    | some x =>
      if x.block.words.length ≤ entIx e ∨ entPort e = 3 then none
      else if 0 < n ∧ x.block.arity (entIx e) ≤ entPort e + n - 1 then none
      else some x.block

/-- The tokens that a firing's operands make at consecutive ports of an instruction of a new frame (R129). -/
def argTokens (fr : Firing) (blk ix port : Nat) : List Token :=
  (fr.ops.zipIdx).flatMap fun p =>
    (tokenize fr.lb (allLanes p.1)).map fun q =>
      { dst := fr.tile, ctx := fr.ctx, fi := 0, blk := blk, ix := ix, port := port + p.2, lb := q.1, rl := q.2.1, pay := q.2.2 }

/-- A frame request of a firing (R100), refused with a frame overrun when it could never be satisfied (R101). -/
def State.askFrame (s : State) (fr : Firing) (b : Block) (r : AllocReq) : State :=
  if (s.tile fr.tile).quotaOf fr.ctx < b.cells then
    (s.releaseOps fr).raise fr { cause := 0x09, extra := w64 b.cells }
  else s.request fr.tile r

/-- ENTER (R129). -/
def runEnter (f : Fields) (s : State) : State :=
  withFiring s fun fr s =>
    match s.frameOf fr with
    | none => s.releaseOps fr
    | some x =>
      let e := s.constOf fr f.ck.toNat
      match checkEntry s fr e f.ar.toNat with
      | none => (s.releaseOps fr).raise fr { cause := 0x09 }
      | some b =>
        if b.lw ≠ x.lw then (s.releaseOps fr).raise fr { cause := 0x09 }
        else s.askFrame fr b
          { seq := 0, owner := some fr.fi, unit := x.unit, ctx := fr.ctx, blk := entBlk e, base := x.base, argp := x.argp,
            ret := match f.d0 with
              | some d => mkLink fr.tile fr.ctx fr.fi fr.blk d.ix.toNat d.port.toNat
              | none => 0
            lslot := x.lslot, active := (lanesOf fr).map (fr.lb + ·),
            toks := argTokens fr (entBlk e) (entIx e) (entPort e) }

/-- EXIT (R130): a to RET, then the lanes end; ISC never changes. -/
def runExit (s : State) : State :=
  withFiring s fun fr s =>
    match firstPoison fr with
    | some (l, p, r) => (s.releaseOps fr).raisePoison fr p l r
    | none =>
      let ret := ((s.frameOf fr).map (·.ret)).getD 0
      let s := if ret = 0 then s.releaseOps fr else s.departAll (linkTokens ret fr.lb (fr.ops.headD []))
      s.endLanes fr

/-- ITER (R131): the next iteration's frame of the current block. -/
def runIter (f : Fields) (s : State) : State :=
  withFiring s fun fr s =>
    match s.frameOf fr, s.blockOf fr, f.d0 with
    | some x, some b, some d =>
      s.askFrame fr b
        { seq := 0, owner := some fr.fi, unit := x.unit, ctx := fr.ctx, blk := fr.blk, base := x.base + w64 x.lw, argp := x.argp,
          ret := x.ret, lslot := x.lslot, active := (lanesOf fr).map (fr.lb + ·),
          toks := argTokens fr fr.blk d.ix.toNat d.port.toNat }
    | _, _, _ => s.releaseOps fr

/-- LOOPN (R132): one loop for each lane, its frames requested one at a time; done at once when every count is 0. A handle that
arrives on b is delivered as its 64 bits, and its reference is released (log entry 15). -/
def runLoopn (f : Fields) (s : State) : State :=
  withFiring s fun fr s =>
    match firstPoison fr 1 with
    | some (l, p, r) => (s.releaseOps fr).raisePoison fr p l r
    | none =>
      let e := s.constOf fr f.ck.toNat
      match s.frameOf fr, checkEntry s fr e (f.ar.toNat - 1) with
      | some x, some b =>
        let loops := ((lanesOf fr).map fun i => ((opAt fr.ops 0 i).word.toNat, opAt fr.ops 1 i)).filter fun p =>
          decide (0 < p.1)
        if loops.isEmpty then (s.releaseOps fr).emitDone fr f.d1
        else
          let l : LoopSt := { firing := { fr with ops := [] }, d1 := f.d1, ar := f.ar.toNat, ix := entIx e, port := entPort e,
                              loops := loops, j := 0 }
          let r : AllocReq := { seq := 0, owner := some fr.fi, unit := x.unit, ctx := fr.ctx, blk := entBlk e, base := 0,
                                argp := x.argp, ret := 0, lslot := x.lslot, active := [], toks := [] }
          (s.releaseOps fr).askFrame { fr with ops := [] } b (l.req r b.lw)
      | _, _ => (s.releaseOps fr).raise fr { cause := 0x09 }

/-- FREE (R133): the current frame ends at once. -/
def runFree (s : State) : State :=
  withFiring s fun fr s => (s.releaseOps fr).endFrame fr.tile fr.fi

/-- One word on both destinations; a poisoned trigger propagates (R134, R117). -/
def emitConst (f : Fields) (fr : Firing) (w : Word) (s : State) : State :=
  let outs := (lanesOf fr).map fun i =>
    match poisonAt fr.ops i with
    | some r => some (LVal.pois r)
    | none => some (.scal w)
  (s.releaseOps fr).laneResult fr f outs outs

/-- CONST (R134). -/
def runConst (f : Fields) (s : State) : State :=
  withFiring s fun fr s => emitConst f fr (s.constOf fr f.ck.toNat) s

/-- CONST_SELF: a link to this frame (R134). -/
def runConstSelf (f : Fields) (s : State) : State :=
  withFiring s fun fr s =>
    let k := s.constOf fr f.ck.toNat
    emitConst f fr (mkLink fr.tile fr.ctx fr.fi fr.blk (field k 0 7) (field k 7 2)) s

/-! ## Staging and configuration order (R136 to R138) -/

/-- KSET (R136): the value of the firing's highest lane goes to every tile that holds the block. -/
def runKset (f : Fields) (s : State) : State :=
  withFiring s fun fr s =>
    match firstPoison fr with
    | some (l, p, r) => (s.releaseOps fr).raisePoison fr p l r
    | none =>
      let v := (opAt fr.ops 0 (fr.rl - 1)).word
      (s.releaseOps fr).onTile fr.tile fun c => { c with ksets := c.ksets ++ [({ fr with ops := [] }, f, v)] }

/-- Staging a constant in every entry of a tile that holds a graph block as a block number of a context. -/
def CTile.stage (c : CTile) (ctx blk gbn k : Nat) (v : Word) : CTile :=
  { c with entries := c.entries.map fun e =>
      if e.2.ctx == ctx && e.2.blk == blk && e.2.block.gbn == gbn then (e.1, { e.2 with staged := AList.set e.2.staged k v })
      else e }

/-- KSET_STAGE_COMPLETE: every tile of the region where the same GBN is resident as the same BLK has staged the value, and KSET
emits done (R136). -/
def ksetComplete (s : State) (t n : Nat) : State :=
  match (s.tile t).ksets[n]? with
  | none => s
  | some (fr, f, v) =>
    let s := s.onTile t fun c => { c with ksets := dropNth c.ksets n }
    let s := match s.regionAt t fr.ctx, s.blockOf fr with
      | some (_, _, r), some b =>
        r.computeTiles.foldl (fun (s : State) u => s.onTile u fun c => c.stage fr.ctx fr.blk b.gbn f.ck.toNat v) s
      | _, _ => s
    s.emitDoneOwn fr f.d1

/-- DONE (R137): the firing's lanes end and ISC falls by RL; below zero it stays zero and a frame overrun is raised. -/
def runDone (s : State) : State :=
  withFiring s fun fr s =>
    match firstPoison fr with
    | some (l, p, r) => (s.releaseOps fr).raisePoison fr p l r
    | none =>
      let s := (s.releaseOps fr).endLanes fr
      match s.regionAt fr.tile fr.ctx with
      | none => s
      | some (g, v, r) =>
        let s := s.onRegion g v fun r => { r with isc := r.isc - fr.rl }
        if r.isc < fr.rl then s.raise fr { cause := 0x09 } else s

/-- Arming a transition: the first of a configuration stands, later ones have no effect (R138). -/
def State.arm (s : State) (fr : Firing) (target : Region → Nat) : State :=
  match s.regionAt fr.tile fr.ctx with
  | none => s
  | some (g, v, _) => s.onRegion g v fun r => if r.armed.isSome then r else { r with armed := some (target r) }

/-- NEXT of the current configuration; 0x1FF ends the region's run (R58, R138). -/
def Region.nextCfg (r : Region) : Nat := ((r.cfgs[r.cfg]?).map (·.next)).getD 0x1FF

/-- CFGNEXT (R138). -/
def runCfgnext (s : State) : State :=
  withFiring s fun fr s =>
    match firstPoison fr with
    | some (l, p, r) => (s.releaseOps fr).raisePoison fr p l r
    | none => (s.releaseOps fr).arm fr Region.nextCfg

/-- CFGLOAD (R138): c from port a or the constant, at TY; c beyond the region's configurations raises cause 0x14. The lowest lane
of the firing supplies c (log entry 16). The check stands also where a transition is armed already, and a CFGLOAD that fails it arms
none (log entry 96). -/
def runCfgload (f : Fields) (s : State) : State :=
  withFiring s fun fr s =>
    match firstPoison fr with
    | some (l, p, r) => (s.releaseOps fr).raisePoison fr p l r
    | none =>
      let c := readN f.ty (if f.kc then s.constOf fr f.ck.toNat else (opAt fr.ops 0 0).word)
      let n := ((s.regionAt fr.tile fr.ctx).map fun p => p.2.2.cfgs.length).getD 0
      let s := s.releaseOps fr
      if n ≤ c then s.raise fr { cause := 0x14, port := if f.kc then 3 else 0, extra := w64 c }
      else s.arm fr fun _ => c

end Sys2Proof.Machine
end

