-- ==== Sys2Proof/Machine/Buffers.lean ====
section
/-! DEFINITION. Tile buffers and handles: the checks of R184, elements of buffers (R83, R175, R176), poison in buffers (R186), the
allocation queue (R179, R180) and group 0x5 (R189 to R200). -/

namespace Sys2Proof.Machine

/-! ## Shapes and elements -/

/-- Bits of an element by FMT code (R78, R175); 0 for a code that names no format. -/
def fmtBits (c : Nat) : Nat :=
  [32, 32, 16, 16, 8, 8, 6, 6, 4, 0, 8, 8, 6, 6, 4, 8, 4, 8, 8, 4, 4, 4, 32, 32, 1, 32, 32].getD c 0

/-- Bits of an element of a template: 8 for a scale panel (R190). -/
def tBits (w : Word) : Nat := if tScl w then 8 else fmtBits (tFmt w)

/-- RB, the bytes of a row of n columns (R176). -/
def rowBytes (w : Word) : Nat := if tBits w = 6 then 3 * ceilDiv (tCols w) 4 else ceilDiv (tCols w * tBits w) 8

/-- Granules of a template (R176). -/
def tGranules (w : Word) : Nat := ceilDiv (tRows w * tPitch w) 4096

/-- The conditions on a template (R175, R176). -/
def tValid (w : Word) : Bool :=
  fmtBits (tFmt w) != 0 && decide (tRows w ≤ 4096) && decide (tCols w ≤ 4096) && field w 48 16 == 0
    && (!tScl w || (10 ≤ tFmt w && tFmt w ≤ 16)) && (decide (tRows w ≤ 64) || decide (tCols w ≤ 64))
    && decide (rowBytes w ≤ tPitch w) && tPitch w != 0 && tPitch w % 16 == 0 && decide (tRows w * tPitch w ≤ 2 ^ 20)

/-- The first byte of row r of a buffer in its scratchpad (R176, R195). -/
def Desc.rowOff (x : Desc) (r : Nat) : Nat := x.gran0 * 4096 + x.voff + r * tPitch x.shape

/-- The bytes of a row as one number, the first byte lowest (R83). -/
def State.rowGet (s : State) (m : Nat) (x : Desc) (r : Nat) : Nat := s.readN (padAddr m (x.rowOff r)) (rowBytes x.shape)

/-- Element c of a row's number: bits b c + b - 1 : b c (R83). -/
def rowElem (b row c : Nat) : Nat := nbits row (b * c) b

/-- The bytes of an element: offset and count. -/
def Desc.elemBytes (x : Desc) (r c : Nat) : Nat × Nat :=
  let b := tBits x.shape
  (x.rowOff r + b * c / 8, ceilDiv (b * (c + 1)) 8 - b * c / 8)

/-- The element at a place of a buffer, as bits. -/
def State.elemGet (s : State) (m : Nat) (x : Desc) (r c : Nat) : Nat :=
  let e := x.elemBytes r c
  nbits (s.readN (padAddr m e.1) e.2) (tBits x.shape * c % 8) (tBits x.shape)

/-- A row's number with element c replaced. -/
def rowSet (b row c v : Nat) : Nat := row - rowElem b row c * 2 ^ (b * c) + v % 2 ^ b * 2 ^ (b * c)

/-- Writing bytes of a scratchpad; each 8-byte word that the write covers whole is sound again (R186). -/
def State.padWrite (s : State) (m off : Nat) (bs : List Byte) : State :=
  (s.writeBytes (padAddr m off) bs).onMtile m fun c =>
    if c.ue.isEmpty then c
    else { c with ue := c.ue.filter fun w => !(decide (off ≤ 8 * w) && decide (8 * w + 8 ≤ off + bs.length)) }

/-- The bits of a row above its last element: the device writes them as zero (R83); below a view they hold elements of its root,
which a write to the view leaves (log entry 17). -/
def rowTail (x : Desc) (row : Nat) : Nat :=
  if x.view then row / 2 ^ (tBits x.shape * tCols x.shape) * 2 ^ (tBits x.shape * tCols x.shape) else 0

/-- Writing one element: the bytes that hold it, and the unused bits of the row's last byte with its last element. -/
def State.elemSet (s : State) (m : Nat) (x : Desc) (r c v : Nat) : State :=
  let b := tBits x.shape
  let row := s.rowGet m x r
  let row' := rowSet b row c v
  let row' := if c + 1 = tCols x.shape then row' % 2 ^ (b * tCols x.shape) + rowTail x row else row'
  let lo := b * c / 8
  let hi := if c + 1 = tCols x.shape then rowBytes x.shape else ceilDiv (b * (c + 1)) 8
  s.padWrite m (x.rowOff r + lo) (toBytes (hi - lo) (row' / 2 ^ (8 * lo)))

/-- The number that elements make, the first lowest. -/
def packElems (b : Nat) : List Nat → Nat
  | [] => 0
  | v :: vs => v % 2 ^ b + 2 ^ b * packElems b vs

/-- Writing a whole row. -/
def State.rowPut (s : State) (m : Nat) (x : Desc) (r : Nat) (vs : List Nat) : State :=
  s.padWrite m (x.rowOff r)
    (toBytes (rowBytes x.shape) (packElems (tBits x.shape) (vs.take (tCols x.shape)) + rowTail x (s.rowGet m x r)))

/-- The elements of a row. -/
def State.rowVals (s : State) (m : Nat) (x : Desc) (r : Nat) : List Nat :=
  let row := s.rowGet m x r
  (List.range (tCols x.shape)).map fun c => rowElem (tBits x.shape) row c

/-! ## Poison in buffers (R186) -/

/-- The descriptor that keeps a buffer's poison state: its own, or a view's root. -/
def MTile.psnDesc (c : MTile) (d : Nat) : Nat := if (c.desc d).view then (c.desc d).root else d

/-- The record of a poisoned buffer. -/
def MTile.poison? (c : MTile) (d : Nat) : Option PRec :=
  let x := c.desc (c.psnDesc d)
  if x.psn then some x.prec else none

/-- Marking a buffer poisoned; the first record set stays. -/
def MTile.taint (c : MTile) (d : Nat) (r : PRec) : MTile :=
  let e := c.psnDesc d
  let x := c.desc e
  if x.psn then c else c.setDesc e { x with psn := true, prec := r }

/-- Marking the buffer of a descriptor of a memory tile. -/
def State.taint (s : State) (m d : Nat) (r : PRec) : State := s.onMtile m fun c => c.taint d r

/-- The record of an uncorrectable scratchpad error: cause 0x0D with the memory tile as origin (R186). -/
def ueRec (m : Nat) : PRec := { w0 := poisonWord 0x0D m 0 0 0 0 3 0, w1 := 0 }

/-- Whether any of n bytes from an offset lies in a word that holds an uncorrectable error. -/
def MTile.ueIn (c : MTile) (off n : Nat) : Bool :=
  c.ue.any fun w => decide (8 * w < off + n) && decide (off < 8 * w + 8)

/-- A read of bytes of a buffer: an uncorrectable error in them marks the buffer (R186). -/
def State.touch (s : State) (m d off n : Nat) : State :=
  if (s.mtile m).ueIn off n then s.taint m d (ueRec m) else s

/-! ## The checks of R184 -/

/-- Steps 1 to 4 of R184 for a handle of a compute tile's context: the cause of the first that fails. -/
def handleFault (s : State) (t ctx : Nat) (h : Word) (holder write : Bool) : Option Nat :=
  let m := hTile (tileDie t) h
  if !(isMemTile m && sameQuad m t) then some 0x05
  else
    let c := s.mtile m
    let x := c.desc (hDesc h)
    if staleIn c h then some 0x06
    else if holder && !(x.holder == t % 1024 && x.ctx == ctx) then some 0x05
    else if write && (hRo h || x.ro) then some 0x03
    else none

/-- A handle operand and its check: a token of another kind is refused with cause 0x05 (R174, R184). -/
def needHandle (s : State) (fr : Firing) (port lane : Nat) (holder write : Bool) : Except Err Word :=
  match opAt fr.ops port lane with
  | .hand h =>
    match handleFault s fr.tile fr.ctx h holder write with
    | none => .ok h
    | some c => .error { cause := c, port := port, lane := lane, extra := if c = 0x03 then 0 else h }
  | v => .error { cause := 0x05, port := port, lane := lane, extra := v.word }

/-- The handle that the memory tile emits for a buffer: PSN tells its poison state now (R173, R186). -/
def MTile.handleOf (c : MTile) (m d : Nat) : Word :=
  let x := c.desc d
  mkHandle m x.gran0 x.ngm1 x.gen d x.holder (c.poison? d).isSome (tScl x.shape) x.ro x.view

/-- A kept handle re-emitted: its own bits with PSN as it now is (R182, R186). -/
def rehandle (s : State) (die : Nat) (h : Word) : Word :=
  let m := hTile die h
  let p := ((s.mtile m).poison? (hDesc h)).isSome
  w64 (field h 4 60 * 16 + bit p * 8 + field h 0 3)

/-- The port of a value that the constant may supply: 3 names the constant (R206, R235). -/
def constPort (f : Fields) (port : Nat) : Nat := if f.kc && port == f.ar.toNat then 3 else port

/-- The handles of one lane of a firing. -/
def laneHandles (fr : Firing) (lane : Nat) : List Word := fr.ops.filterMap fun o => (o.getD lane .dn).handle?

/-- An operation of each lane of a firing in ascending order; once a lane has faulted, the lanes above it are not performed, and
their handles are released (R458). -/
def perLane (fr : Firing) (g : Nat → State → State) (s : State) : State :=
  (lanesOf fr).foldl (fun s i =>
    if s.detected.isEmpty then g i s else s.releaseAll (tileDie fr.tile) (laneHandles fr i)) s

/-- A lane's operation faults: its handles are released and the fault is taken. -/
def failLane (s : State) (fr : Firing) (lane : Nat) (e : Err) : State :=
  (s.releaseAll (tileDie fr.tile) (laneHandles fr lane)).raise fr e

/-- A lane's poison on every destination; its handle operands are released (R117, R174). -/
def poisonLane (s : State) (fr : Firing) (f : Fields) (lane : Nat) (r : PRec) : State :=
  ((s.releaseAll (tileDie fr.tile) (laneHandles fr lane)).emit1 fr f.d0 lane (.pois r)).emit1 fr f.d1 lane (.pois r)

/-- The handles that one lane brings on ports whose values the instruction reads: their references are released (R142, R182). -/
def State.releaseVals (s : State) (fr : Firing) (ports : List Nat) (lane : Nat) : State :=
  s.releaseAll (tileDie fr.tile) (ports.filterMap fun p => (opAt fr.ops p lane).handle?)

/-- One lane's operation of a side-effecting instruction: poison on the lane raises (R118, R458). -/
def orRaise (fr : Firing) (g : Nat → State → State) (lane : Nat) (s : State) : State :=
  match poisonPort fr 3 lane with
  | some (p, r) => (s.releaseAll (tileDie fr.tile) (laneHandles fr lane)).raisePoison fr p lane r
  | none => g lane s

/-- One lane's operation of an instruction that propagates poison, given what it does without (R117). -/
def orPoison (fr : Firing) (f : Fields) (g : Nat → State → State) (lane : Nat) (s : State) : State :=
  match poisonAt fr.ops lane with
  | some r => poisonLane s fr f lane r
  | none => g lane s

/-- A lane's checked handle, or its fault. -/
def withHandle (s : State) (fr : Firing) (port lane : Nat) (holder write : Bool) (g : Word → State) : State :=
  match needHandle s fr port lane holder write with
  | .ok h => g h
  | .error e => failLane s fr lane e

/-- The value on a port of a lane, the constant included. -/
def laneWord (s : State) (fr : Firing) (f : Fields) (port lane : Nat) : Word := (s.operand fr f port lane).word

/-! ## TREL, TREF, TGIVE (R192 to R194) -/

/-- TREL on one lane (R192): checks 1 and 2 only. -/
def trelLane (fr : Firing) (f : Fields) (i : Nat) (s : State) : State :=
  withHandle s fr 0 i false false fun h => (s.release (tileDie fr.tile) h).emit1 fr f.d1 i .dn

/-- TREL (R192). -/
def runTrel (f : Fields) (s : State) : State :=
  withFiring s fun fr s => perLane fr (orPoison fr f (trelLane fr f)) s

/-- TREF on one lane (R193). -/
def trefLane (fr : Firing) (f : Fields) (i : Nat) (s : State) : State :=
  withHandle s fr 0 i true false fun h =>
    let n := ((s.mtile (hTile (tileDie fr.tile) h)).desc (hDesc h)).refs
    (s.emit1 fr f.d0 i (.scal (w64 n))).emit1 fr f.d1 i (.hand (rehandle s (tileDie fr.tile) h))

/-- TREF (R193). -/
def runTref (f : Fields) (s : State) : State :=
  withFiring s fun fr s => perLane fr (orPoison fr f (trefLane fr f)) s

/-- TGIVE on one lane (R194): HOLDER and CTX become the link's, and the handle goes to the frame that the link names. -/
def tgiveLane (fr : Firing) (f : Fields) (i : Nat) (s : State) : State :=
  let l := laneWord s fr f 1 i
  let t := field l 0 14
  if field l 43 21 ≠ 0 then failLane s fr i { cause := 0x04, port := 1, lane := i, extra := l }
  else withHandle s fr 0 i true false fun h =>
    let m := hTile (tileDie fr.tile) h
    if s.tileDead t then failLane s fr i { cause := 0x12, port := 1, lane := i }
    else if isTile t && s.dieState (tileDie t) == 0 then failLane s fr i { cause := 0x03, port := 1, lane := i }
    else if !(isCompute t && sameQuad t m) || s.jobAt t (field l 14 4) != s.jobOf fr || (s.jobOf fr).isNone then
      failLane s fr i { cause := 0x05, port := 1, lane := i, extra := h }
    else
      let s := (s.releaseVals fr [1] i).onMtile m fun c =>
        let x := c.desc (hDesc h)
        c.setDesc (hDesc h) { x with holder := t % 1024, ctx := field l 14 4 }
      let h' := rehandle s (tileDie fr.tile) h
      let h' := w64 (field h' 20 44 * 2 ^ 20 + t % 1024 * 2 ^ 10 + field h' 0 10)
      (s.deliver (linkFrom t m) (linkToken l 0 1 (.handle h'))).emit1 fr f.d1 i .dn

/-- TGIVE (R194): a side effect, so poison raises (R37). -/
def runTgive (f : Fields) (s : State) : State :=
  withFiring s fun fr s => perLane fr (orRaise fr (tgiveLane fr f)) s

/-! ## TDESC, TLOOK, TTAG, TUNTAG (R196 to R199) -/

/-- TDESC_RD on one lane (R196). -/
def tdescRdLane (fr : Firing) (f : Fields) (i : Nat) (s : State) : State :=
  withHandle s fr 0 i true false fun h =>
    let x := (s.mtile (hTile (tileDie fr.tile) h)).desc (hDesc h)
    (s.emit1 fr f.d0 i (.scal x.shape)).emit1 fr f.d1 i (.hand (rehandle s (tileDie fr.tile) h))

/-- TDESC_RD (R196). -/
def runTdescRd (f : Fields) (s : State) : State :=
  withFiring s fun fr s => perLane fr (orPoison fr f (tdescRdLane fr f)) s

/-- TDESC_LINK on one lane (R196): the reference of b moves into the link; a link replaced releases its own. A breach of what R196 asks of
the two together names port b (DEDUCED, log entry 109). -/
def tdescLinkLane (fr : Firing) (f : Fields) (i : Nat) (s : State) : State :=
  withHandle s fr 0 i true false fun a => withHandle s fr 1 i true false fun b =>
    let die := tileDie fr.tile
    let m := hTile die a
    let c := s.mtile m
    let x := c.desc (hDesc a)
    let y := c.desc (hDesc b)
    if hTile die b ≠ m || !tScl y.shape || tFmt x.shape ≠ tFmt y.shape || x.view || tScl x.shape then
      failLane s fr i { cause := 0x04, port := 1, lane := i }
    else
      let s := s.onMtile m fun c =>
        let c := c.setDesc (hDesc a) { x with sdesc := some (hDesc b) }
        match x.sdesc with
        | some e => c.unref linkDepth e
        | none => c
      s.emit1 fr f.d0 i (.hand (rehandle s die a))

/-- TDESC_LINK (R196). -/
def runTdescLink (f : Fields) (s : State) : State :=
  withFiring s fun fr s => perLane fr (orPoison fr f (tdescLinkLane fr f)) s

/-- Slots of the tag table. -/
def tagSlots : List Nat := List.range 256

/-- TLOOK's status on a miss: the lowest empty slot, else the requester's entry with the oldest STAMP, else neither (R197). STAMPs are
compared as numbers, and of equal ones the lowest slot is the oldest (DESIGN CHOICE, log entry 110). -/
def lookMiss (c : MTile) (ctx : Nat) : Word :=
  match tagSlots.find? fun k => (AList.get? c.tags k).isNone with
  | some k => w64 (0x8000000000000100 + k)
  | none =>
    match leastBy (fun a b => decide (a.2.stamp < b.2.stamp)) (c.tags.filter fun e => e.2.ctx == ctx) with
    | some e => w64 (0x8000000000000000 + e.1)
    | none => w64 0x8000000000000200

/-- The handle of a descriptor number as a tag holds it, with PSN as it now is. -/
def tagHandle (s : State) (t : Nat) (h : Word) : Word := rehandle s (tileDie t) h

/-- TLOOK on one lane (R197): a hit emits the handle held with one more reference and updates STAMP; a handle that has become stale raises
(R178). -/
def tlookLane (fr : Firing) (f : Fields) (i : Nat) (s : State) : State :=
  let m := memTileOf fr.tile (xbits f.x 0 1)
  let c := s.mtile m
  match c.tags.find? fun e => e.2.ctx == fr.ctx && e.2.key == laneWord s fr f 0 i with
  | none => s.emit1 fr f.d0 i (.scal (lookMiss c fr.ctx))
  | some (k, e) =>
    if staleIn c e.handle then s.raise fr { cause := 0x06, port := 0, lane := i, extra := e.handle }
    else if s.refsOver (tileDie fr.tile) e.handle 1 then s.raise fr { cause := 0x05, port := 0, lane := i, extra := e.handle }
    else
      let s := (s.onMtile m fun c => { c with tags := AList.set c.tags k { e with stamp := s.clk % 2 ^ 32 } }).addRefs
        (tileDie fr.tile) e.handle 1
      (s.emit1 fr f.d0 i (.scal (w64 k))).emit1 fr f.d1 i (.hand (tagHandle s fr.tile e.handle))

/-- TLOOK (R197); a handle that arrives as the key reads as its bits and is released (R142; log entry 15). -/
def runTlook (f : Fields) (s : State) : State :=
  withFiring s fun fr s =>
    perLane fr (orPoison fr f fun i s => tlookLane fr f i (s.releaseAll (tileDie fr.tile) (laneHandles fr i))) s

/-- TTAG's status (R198). -/
def tagStatus (c : MTile) (ctx : Nat) (key : Word) (slot : Nat) : Nat :=
  if 255 < slot then 3
  else if (AList.get? c.tags slot).isSome then 1
  else if c.tags.any fun e => e.2.ctx == ctx && e.2.key == key then 2
  else 0

/-- TTAG on one lane (R198). STAMP takes the module's clk, which CLKNOW reads (DEDUCED, log entry 111). -/
def ttagLane (fr : Firing) (f : Fields) (i : Nat) (s : State) : State :=
  withHandle s fr 1 i true false fun h =>
    let m := hTile (tileDie fr.tile) h
    let key := laneWord s fr f 0 i
    let slot := (laneWord s fr f 2 i).toNat
    let st := tagStatus (s.mtile m) fr.ctx key slot
    let s := (s.releaseVals fr [0, 2] i).emit1 fr f.d0 i (.scal (w64 st))
    if st = 0 then
      s.onMtile m fun c => { c with
        tags := AList.set c.tags slot { key := key, handle := h, ctx := fr.ctx, stamp := s.clk % 2 ^ 32 } }
    else s.emit1 fr f.d1 i (.hand (rehandle s (tileDie fr.tile) h))

/-- TTAG (R198). -/
def runTtag (f : Fields) (s : State) : State :=
  withFiring s fun fr s => perLane fr (orPoison fr f (ttagLane fr f)) s

/-- TUNTAG on one lane (R199). Every word of an emptied slot then reads 0 (DESIGN CHOICE, log entry 112). -/
def tuntagLane (fr : Firing) (f : Fields) (i : Nat) (s : State) : State :=
  let m := memTileOf fr.tile (xbits f.x 0 1)
  let k := (laneWord s fr f 0 i).toNat
  match if 255 < k then none else AList.get? (s.mtile m).tags k with
  | none => s.emit1 fr f.d0 i .dn
  | some e =>
    if e.ctx ≠ fr.ctx then s.emit1 fr f.d0 i .dn
    else
      let s := s.onMtile m fun c => { c with tags := AList.erase c.tags k }
      (s.emit1 fr f.d0 i (.hand (tagHandle s fr.tile e.handle))).emit1 fr f.d1 i (.scal e.key)

/-- TUNTAG (R199). -/
def runTuntag (f : Fields) (s : State) : State :=
  withFiring s fun fr s =>
    perLane fr (orPoison fr f fun i s => tuntagLane fr f i (s.releaseAll (tileDie fr.tile) (laneHandles fr i))) s

/-! ## TGET, TSET, TFILL (R190, R200) -/

/-- The row and column of an index word, if they lie inside a shape (R190). -/
def indexIn (shape w : Word) : Option (Nat × Nat) :=
  let r := field w 0 13
  let c := field w 13 13
  if field w 26 38 = 0 ∧ r < tRows shape ∧ c < tCols shape then some (r, c) else none

/-- TGET on one lane (R200, R186). -/
def tgetLane (fr : Firing) (f : Fields) (i : Nat) (s : State) : State :=
  withHandle s fr 0 i true false fun h =>
    let m := hTile (tileDie fr.tile) h
    let x := (s.mtile m).desc (hDesc h)
    match indexIn x.shape (laneWord s fr f 1 i) with
    | none => failLane s fr i { cause := 0x04, port := constPort f 1, lane := i }
    | some (r, c) =>
      let s := s.touch m (hDesc h) (x.elemBytes r c).1 (x.elemBytes r c).2
      let v : LVal := match (s.mtile m).poison? (hDesc h) with
        | some p => .pois p
        | none => .scal (w64 (s.elemGet m x r c))
      ((s.releaseVals fr [1] i).emit1 fr f.d0 i v).emit1 fr f.d1 i (.hand (rehandle s (tileDie fr.tile) h))

/-- TGET (R200). -/
def runTget (f : Fields) (s : State) : State :=
  withFiring s fun fr s => perLane fr (orPoison fr f (tgetLane fr f)) s

/-- The poison of the lanes of a firing on ports other than the value port. -/
def orPoisonBut (fr : Firing) (f : Fields) (vp : Nat) (g : Nat → State → State) (lane : Nat) (s : State) : State :=
  match (List.range vp).findSome? fun p => (opAt fr.ops p lane).poison? with
  | some r => poisonLane s fr f lane r
  | none => g lane s

/-- TSET on one lane: a poison value marks the buffer and writes no element (R186, R200). -/
def tsetLane (fr : Firing) (f : Fields) (i : Nat) (s : State) : State :=
  withHandle s fr 0 i true true fun h =>
    let m := hTile (tileDie fr.tile) h
    let x := (s.mtile m).desc (hDesc h)
    match indexIn x.shape (laneWord s fr f 1 i) with
    | none => failLane s fr i { cause := 0x04, port := constPort f 1, lane := i }
    | some (r, c) =>
      let s := match s.operand fr f 2 i with
        | .pois p => s.taint m (hDesc h) p
        | v => s.elemSet m x r c v.word.toNat
      (s.releaseVals fr [1, 2] i).emit1 fr f.d0 i (.hand (rehandle s (tileDie fr.tile) h))

/-- TSET (R200). -/
def runTset (f : Fields) (s : State) : State :=
  withFiring s fun fr s => perLane fr (orPoisonBut fr f 2 (tsetLane fr f)) s

/-- A value in every element of a buffer's shape, row by row. -/
def State.fill (s : State) (m : Nat) (x : Desc) (v : Nat) : State :=
  (List.range (tRows x.shape)).foldl (fun s r => s.rowPut m x r (List.replicate (tCols x.shape) v)) s

/-- TFILL on one lane: a value that is not poison clears PSN (R186, R200). -/
def tfillLane (fr : Firing) (f : Fields) (i : Nat) (s : State) : State :=
  withHandle s fr 0 i true true fun h =>
    let m := hTile (tileDie fr.tile) h
    let x := (s.mtile m).desc (hDesc h)
    let s := match s.operand fr f 1 i with
      | .pois p => s.taint m (hDesc h) p
      | v => (s.fill m x v.word.toNat).onMtile m fun c =>
          let e := c.psnDesc (hDesc h)
          c.setDesc e { c.desc e with psn := false }
    (s.releaseVals fr [1] i).emit1 fr f.d0 i (.hand (rehandle s (tileDie fr.tile) h))

/-- TFILL (R200). -/
def runTfill (f : Fields) (s : State) : State :=
  withFiring s fun fr s => perLane fr (orPoisonBut fr f 1 (tfillLane fr f)) s

/-! ## TALLOC, TVIEW and the allocation queue (R179, R191, R195) -/

/-- QUOTA of a context slot in a memory tile; above 512 it acts as 512 (R181). -/
def MTile.quotaOf (c : MTile) (ctx : Nat) : Nat := min (AList.getD c.quota ctx 512) 512

/-- USED of a context slot: granules of its LIVE and FROZEN root buffers (R181). -/
def MTile.usedOf (c : MTile) (ctx : Nat) : Nat :=
  c.descs.foldl (fun n d => if d.2.state ≠ 0 ∧ d.2.view = false ∧ d.2.ctx = ctx then n + d.2.ngm1 + 1 else n) 0

/-- A request enters a memory tile's allocation queue and counts in OTO (R179, R190). -/
def State.askTile (s : State) (m : Nat) (r : TAlloc) : State :=
  (s.onMtile m fun c => { c with allocq := c.allocq ++ [r] }).count r.firing .oto

/-- TALLOC on one lane (R191): the template is checked and the request queued. -/
def tallocLane (fr : Firing) (f : Fields) (i : Nat) (s : State) : State :=
  let m := memTileOf fr.tile (xbits f.x 0 1)
  let w := laneWord s fr f (if f.kc then f.ar.toNat else 0) i
  let p := if f.kc then 3 else 0
  if !tValid w then failLane s fr i { cause := 0x04, port := p, lane := i, extra := w }
  else if (s.mtile m).quotaOf fr.ctx < tGranules w then
    failLane s fr i { cause := 0x04, port := p, lane := i, extra := w64 (tGranules w) }
  else s.askTile m { firing := { fr with ops := [] }, f := f, g := tGranules w, lane := i, handle := none, param := w }

/-- TALLOC (R191): a side effect, so a poison operand raises; a trigger's handle is released (R142). -/
def runTalloc (f : Fields) (s : State) : State :=
  withFiring s fun fr s =>
    perLane fr (orRaise fr fun i s => tallocLane { fr with ops := fr.ops.map fun o => o.map fun v => .scal v.word } f i (s.releaseVals fr [0] i)) s

/-- Whether a view's window lies inside a shape and its first column starts a byte or a three-byte group (R195). -/
def windowOk (shape w : Word) : Bool :=
  let c0 := field w 13 13
  let b := tBits shape
  let al := if b = 4 then 2 else if b = 1 then 8 else if b = 6 then 4 else 1
  field w 52 12 == 0 && decide (field w 0 13 + field w 26 13 < tRows shape) && decide (c0 + field w 39 13 < tCols shape)
    && c0 % al == 0

/-- TVIEW on one lane (R195): checked, then queued for a descriptor. -/
def tviewLane (fr : Firing) (f : Fields) (i : Nat) (s : State) : State :=
  withHandle s fr 0 i true false fun h =>
    let m := hTile (tileDie fr.tile) h
    let c := s.mtile m
    let w := laneWord s fr f 1 i
    if !windowOk (c.desc (hDesc h)).shape w then failLane s fr i { cause := 0x04, port := constPort f 1, lane := i }
    else (s.releaseVals fr [1] i).askTile m { firing := { fr with ops := [] }, f := f, g := 0, lane := i, handle := some h, param := w }

/-- TVIEW (R195). -/
def runTview (f : Fields) (s : State) : State :=
  withFiring s fun fr s => perLane fr (orPoison fr f (tviewLane fr f)) s

/-- The lowest run of g granules that are free and zeroed (R179). -/
def MTile.freeRun (c : MTile) (g : Nat) : Option Nat :=
  (List.range (513 - g)).find? fun i => !c.owned.any fun o => decide (i ≤ o) && decide (o < i + g)

/-- The descriptor that a granted TALLOC writes (R191). -/
def allocDesc (r : TAlloc) (gen g0 : Nat) : Desc :=
  { shape := r.param, gen := gen, refs := 1, holder := r.firing.tile % 1024, ctx := r.firing.ctx, gran0 := g0,
    ngm1 := r.g - 1, state := 1 }

/-- The descriptor that a granted TVIEW writes (R195): d is the buffer, with its number. -/
def viewDesc (r : TAlloc) (gen dn : Nat) (d : Desc) : Desc :=
  let w := r.param
  { shape := w64 (field w 26 13 + field w 39 13 * 2 ^ 13 + field d.shape 26 22 * 2 ^ 26), gen := gen, refs := 1,
    holder := r.firing.tile % 1024, ctx := r.firing.ctx, gran0 := d.gran0, ngm1 := d.ngm1, state := 1, view := true,
    ro := d.ro || r.f.sub == 1, root := if d.view then d.root else dn,
    voff := d.voff + field w 0 13 * tPitch d.shape + field w 13 13 * tBits d.shape / 8 }

/-- A TVIEW at the head is granted descriptor d, or faults where it would take the root's REFS above 65,535 (R182, R195). -/
def viewGrant (s : State) (m : Nat) (r : TAlloc) (h : Word) (d : Nat) (dfifo : Fifo) : State :=
  let c := s.mtile m
  let v := viewDesc r (c.desc d).gen (hDesc h) (c.desc (hDesc h))
  if 65535 ≤ (c.desc v.root).refs then
    (((s.setMtile m { c with allocq := c.allocq.drop 1 }).release (tileDie m) h).uncount r.firing .oto).raise r.firing
      { cause := 0x05, port := 0, lane := r.lane, extra := h }
  else
    let c := { c.setDesc d v with allocq := c.allocq.drop 1, dfifo := dfifo }
    let c := c.setDesc v.root { c.desc v.root with refs := (c.desc v.root).refs + 1 }
    let s := s.setMtile m c
    ((s.emit1 r.firing r.f.d0 r.lane (.hand (c.handleOf m d))).emit1 r.firing r.f.d1 r.lane
      (.hand (rehandle s (tileDie m) h))).uncount r.firing .oto

/-- TILE_ALLOC_GRANT: the head of a memory tile's allocation queue is granted if it is satisfiable (R179, R191, R195). -/
def tileGrant (s : State) (m : Nat) : State :=
  let c := s.mtile m
  match c.allocq, c.dfifo.take 512 with
  | r :: rest, some (d, dfifo) =>
    if c.quotaOf r.firing.ctx < c.usedOf r.firing.ctx + r.g then s
    else match r.handle with
    | none =>
      match c.freeRun r.g with
      | some g0 =>
        let c := { c.setDesc d (allocDesc r (c.desc d).gen g0) with
          allocq := rest, dfifo := dfifo, owned := c.owned ++ (List.range r.g).map (g0 + ·) }
        ((s.setMtile m c).emit1 r.firing r.f.d0 r.lane (.hand (c.handleOf m d))).uncount r.firing .oto
      | none => s
    | some h => viewGrant s m r h d dfifo
  | _, _ => s

/-- GRANULE_ZEROED: the oldest released granule has been written to zero, with fresh check bits, and is free again (R180). -/
def granuleZeroed (s : State) (m : Nat) : State :=
  match (s.mtile m).zpend with
  | [] => s
  | g :: rest =>
    (s.padWrite m (g * 4096) (List.replicate 4096 0)).onMtile m fun c =>
      { c with zpend := rest, owned := c.owned.filter (· != g) }

end Sys2Proof.Machine
end

