-- ==== Sys2Proof/Machine/Tear.lean ====
section
/-! DEFINITION. The instants at which the words of an engine operation are read and written (R185, R237, R300; log entry 131). -/

namespace Sys2Proof.Machine

/-- The number of an owner in State. -/
def Owner.num : Owner → Nat
  | .row t => 4 * t
  | .array t => 4 * t + 1
  | .handler m h => 4 * (16 * m + h) + 2
  | .memop _ id => 4 * id + 3
  | .copy _ id => 4 * id + 3

/-- Whether an owner's words may be read: its operation has begun, and has still to perform. -/
def State.inHand (s : State) : Owner → Bool
  | .row t => (s.tile t).ruOps.head?.any fun o => o.started && !o.done
  | .array t => (s.tile t).mxRun.any fun o => decide (o.prog < o.steps)
  | .handler m h => (s.mtile m).hnd.any fun x => x.1 == h && x.2.busy && decide (0 < x.2.pend)
  | .memop t id => (s.tile t).mops.any fun o => o.id == id
  | .copy m id => (List.range 4).any fun k => ((s.mtile m).chan k).copies.any fun c => c.id == id

/-- Whether a word lies in the scratchpads of the model. -/
def padWord (w : Nat) : Bool := decide (2 ^ 38 ≤ w) && decide (w < 2 ^ 38 + 2 ^ 32)

/-- The word is read at this instant for the operation in hand. -/
def State.readEarly (s : State) (e : Owner × Nat) : State :=
  if s.inHand e.1 && padWord e.2 then { s with early := s.early ++ [(e.1.num, e.2, s.readBytes (8 * e.2) 8)] } else s

/-- Writing bytes one by one. -/
def State.putBytes (s : State) (bs : List (Nat × Byte)) : State := bs.foldl (fun (s : State) b => s.writeBytes b.1 [b.2]) s

/-- The words that an owner has still to write, those that a test picks out, are written. -/
def State.landOf (s : State) (test : Nat × Nat × List (Nat × Byte) → Bool) : State :=
  if s.late.any test then (s.late.filter test).foldl (fun (s : State) e => s.putBytes e.2.2) { s with late := s.late.filter fun e => !test e } else s

/-- A word of an owner is written at this instant. -/
def State.landLate (s : State) (e : Owner × Nat) : State := s.landOf fun x => x.1 == e.1.num && x.2.1 == e.2

/-- What an owner has still to write is written. -/
def State.landOwner (s : State) (o : Owner) : State := s.landOf fun x => x.1 == o.num

/-- A memory with the words that an owner has read early as it read them. -/
def State.asRead (s : State) (o : Owner) : State :=
  (s.early.filter fun e => e.1 == o.num).foldl (fun (s : State) e => s.writeBytes (8 * e.2.1) e.2.2) s

/-- What an operation in hand has read early is forgotten. -/
def State.forgetEarly (s : State) (o : Owner) : State :=
  if s.early.any fun e => e.1 == o.num then { s with early := s.early.filter fun e => e.1 != o.num } else s

/-- The addresses of the bytes of some words. -/
def wordAddrs (ws : List Nat) : List Nat := ws.flatMap fun w => (List.range 8).map (8 * w + ·)

/-- An operation performs: it finds the words that it has read early as it read them, and of what it writes the words of `late` are written
later. -/
def torn (s : State) (o : Owner) (late : List Nat) (f : State → State) : State :=
  let mine := (s.early.filter fun e => e.1 == o.num).map (·.2.1)
  if mine.isEmpty && late.isEmpty then f s
  else
    let v := s.asRead o
    let t := f v
    let byte (u : State) (a : Nat) : Byte := (u.readBytes a 1).headD 0
    let same (a : Nat) : Bool := byte t a == byte v a
    let back := (wordAddrs mine).filter same
    let hold := (late.eraseDups.filter padWord).map fun w => (w, (wordAddrs [w]).filter fun a => !same a)
    let old := (back ++ hold.flatMap (·.2)).map fun a => (a, byte s a)
    { t.putBytes old with
      early := t.early.filter fun e => e.1 != o.num
      late := t.late ++ (hold.filter fun h => !h.2.isEmpty).map fun h => (o.num, h.1, h.2.map fun a => (a, byte t a)) }

/-- The words that an event says are written later. -/
def State.lateWords (s : State) : List Nat := s.arg.words.map (·.toNat)

/-- Every word that an engine has still to write is written. -/
def State.landRest (s : State) : State := s.landOf fun _ => true

end Sys2Proof.Machine
end

