-- ==== Sys2Proof/Machine/RowUnit.lean ====
section
/-! DEFINITION. The row unit: element values, conversions of tiles, checks at issue and the operations of group 0x6 (R201 to
R217). -/

namespace Sys2Proof.Machine

/-! ## Elements as values (R78 to R84) -/

/-- The float format of an element code 0 to 8, or of the elements of an MX code 10 to 14 (R79 to R81). -/
def elemFmt (c : Nat) : Fmt :=
  match c with
  | 0 => .f32 | 1 => .fp19 | 2 => .bf16 | 3 => .f16
  | 4 | 10 => .e4m3 | 5 | 11 => .e5m2 | 6 | 12 => .e3m2 | 7 | 13 => .e2m3 | _ => .e2m1

/-- Codes whose elements are integers times a power of two: signed, width, exponent (R81, R175). -/
def elemInt? (c : Nat) : Option (Bool × Nat × Int) :=
  match c with
  | 15 => some (true, 8, -6) | 16 => some (true, 4, -2) | 17 => some (true, 8, 0) | 18 => some (false, 8, 0)
  | 19 => some (true, 4, 0) | 20 => some (false, 4, 0) | 25 => some (true, 32, 0) | 26 => some (false, 32, 0)
  | _ => none

/-- The value of an element's bits, without a scale (R79 to R81). -/
def elemEx (c bits : Nat) : Ex :=
  match elemInt? c with
  | some (sg, w, e) => Ex.ofInt (bitsInt sg w bits) e
  | none => (elemFmt c).decode bits

/-- The integer value of an element of the integer class (R202). -/
def elemI (c bits : Nat) : Int := bitsInt (c == 25) 32 bits

/-- A value converted to an element code, without a scale (R88 to R90). -/
def elemEnc (c : Nat) (mode : RMode) (v : Ex) : Nat :=
  match elemInt? c with
  | some (sg, w, e) => (exToInt mode (loOf sg w) (hiOf sg w) (v.scale (-e)) % 2 ^ w).toNat
  | none =>
    let f := elemFmt c
    let sr := match mode with | .sr _ => true | _ => false
    f.encode mode (f.narrow || (sr && (c == 2 || c == 3))) v

/-- An integer-class result: modulo 2^32, or clamped to the destination's range (R202). -/
def intEnc (c : Nat) (sat : Bool) (i : Int) : Nat :=
  let i := if sat then clampI (loOf (c == 25) 32) (hiOf (c == 25) 32) i else i
  (i % 2 ^ 32).toNat

/-- The class of an element format: true for integers, false for floats (R202). -/
def classOf (c : Nat) : Option Bool := if c ≤ 3 then some false else if c = 25 ∨ c = 26 then some true else none

/-- The class of a buffer; a scale panel has none. -/
def Desc.cls (x : Desc) : Option Bool := if tScl x.shape then none else classOf (tFmt x.shape)

/-- The value of an E8M0 scale (R84). -/
def scaleEx (e : Nat) : Ex := if e = 255 then .nan else .fin false 1 ((e : Int) - 127)

/-- Whether a code is a scaled format (R78). -/
def isMx (c : Nat) : Bool := 10 ≤ c && c ≤ 16

/-! ## Buffers of an operation -/

/-- A buffer that an operation names: memory tile, descriptor number, descriptor. -/
structure Buf where
  m : Nat
  d : Nat
  x : Desc
deriving DecidableEq, Repr

namespace Buf
/-- Rows. -/
def rows (b : Buf) : Nat := tRows b.x.shape
/-- Columns. -/
def cols (b : Buf) : Nat := tCols b.x.shape
/-- FMT. -/
def fmt (b : Buf) : Nat := tFmt b.x.shape
end Buf

/-- The buffer of a handle on a die. -/
def bufOf (s : State) (die : Nat) (h : Word) : Buf :=
  { m := hTile die h, d := hDesc h, x := (s.mtile (hTile die h)).desc (hDesc h) }

/-- The scale panel linked to a buffer (R196). -/
def scaleOf (s : State) (b : Buf) : Option Buf :=
  b.x.sdesc.map fun e => { m := b.m, d := e, x := (s.mtile b.m).desc e }

/-- The element of a source that a destination element reads under the broadcast table (R202). -/
def srcRow (b : Buf) (r : Nat) : Nat := if b.rows = 1 then 0 else r
/-- The column that it reads. -/
def srcCol (b : Buf) (c : Nat) : Nat := if b.cols = 1 then 0 else c

/-- A source's shape is one of the four of R202 for a destination of rows by columns. -/
def bcastOk (rows cols : Nat) (b : Buf) : Bool := (b.rows == rows || b.rows == 1) && (b.cols == cols || b.cols == 1)

/-- A row of a source as a destination row reads it: a function of the column, with the row read once. -/
def srcVals (s : State) (b : Buf) (r : Nat) : List Nat := s.rowVals b.m b.x (srcRow b r)

/-- The bits that a destination column reads from a source row. -/
def pick (b : Buf) (vs : List Nat) (c : Nat) : Nat := vs.getD (srcCol b c) 0

/-- Every byte of a buffer's shape is read: uncorrectable errors mark it (R186), also in elements whose value the operation does not use
(log entry 140). -/
def touchAll (s : State) (b : Buf) : State :=
  (List.range b.rows).foldl (fun s r => s.touch b.m b.d (b.x.rowOff r) (rowBytes b.x.shape)) s

/-- Performing an operation row by row in ascending order, each row's sources read before it is written (R201). -/
def rowByRow (dst : Buf) (row : State → Nat → List Nat) (s : State) : State :=
  (List.range dst.rows).foldl (fun s r => s.rowPut dst.m dst.x r (row s r)) s

/-- Marking a destination with the record of the lowest poisoned source (R205). -/
def taintFrom (s : State) (dst : Buf) (srcs : List Buf) : State :=
  match srcs.findSome? fun b => (s.mtile b.m).poison? b.d with
  | some p => s.taint dst.m dst.d p
  | none => s

/-! ## Element operations (R209 to R217) -/

/-- An element result of one class or the other: floats rounded once under RM, integers kept or clamped under SAT (R202). -/
def elemRes (dst : Nat) (f : Fields) (fl : Ex) (it : Int) : Nat :=
  if classOf dst = some true then intEnc dst (xbits f.x 3 1 == 1) it
  else (elemFmt dst).encode (RMode.ofCode (xbits f.x 0 3)) false fl

/-- TADD, TSUB, TMUL, TFMA, TMINMAX on an element: the exact float and integer results of a, b and c (R209). -/
def tileEx (op sub : Nat) (m : RMode) (a b c : Ex) : Ex :=
  match op with
  | 0x60 => exSum m [a, b]
  | 0x61 => exSum m [a, b.neg]
  | 0x62 => a.mul b
  | 0x63 => exSum m [a.mul b, c]
  | _ => match sub with
    | 0 => a.min b | 1 => a.max b | 2 => a.minNum b | _ => a.maxNum b

/-- The integer results (R209). -/
def tileInt (op sub : Nat) (a b c : Int) : Int :=
  match op with
  | 0x60 => a + b
  | 0x61 => a - b
  | 0x62 => a * b
  | 0x63 => a * b + c
  | _ => if sub % 2 = 0 then (if b < a then b else a) else (if a < b then b else a)

/-- A row of an element-wise operation of a and b into c (R201, R209). -/
def tileRow (op : Nat) (f : Fields) (a b c : Buf) (s : State) (r : Nat) : List Nat :=
  let va := srcVals s a r
  let vb := srcVals s b r
  let vc := s.rowVals c.m c.x r
  (List.range c.cols).map fun k =>
    let x := pick a va k
    let y := pick b vb k
    let z := vc.getD k 0
    elemRes c.fmt f
      (tileEx op f.sub.toNat (RMode.ofCode (xbits f.x 0 3)) (elemEx a.fmt x) (elemEx b.fmt y) (elemEx c.fmt z))
      (tileInt op f.sub.toNat (elemI a.fmt x) (elemI b.fmt y) (elemI c.fmt z))

/-- TSCAL on an element (R209): MUL, ADD, RSUB by a scalar. -/
def scalEx (sub : Nat) (m : RMode) (a s : Ex) : Ex :=
  match sub with
  | 0 => a.mul s
  | 1 => exSum m [a, s]
  | _ => exSum m [s, a.neg]
/-- The integer form of TSCAL. -/
def scalInt (sub : Nat) (a s : Int) : Int :=
  match sub with
  | 0 => a * s
  | 1 => a + s
  | _ => s - a
/-- A row of TSCAL: the scalar read as f32 for floats and as i64 for integers (R209). -/
def scalRow (f : Fields) (w : Word) (a d : Buf) (s : State) (r : Nat) : List Nat :=
  let va := srcVals s a r
  (List.range d.cols).map fun k =>
    let x := pick a va k
    elemRes d.fmt f (scalEx f.sub.toNat (RMode.ofCode (xbits f.x 0 3)) (elemEx a.fmt x) (readF .f32 w))
      (scalInt f.sub.toNat (elemI a.fmt x) (readI .i64 w))

/-- A row of TACT (R210). -/
def actRow (f : Fields) (a d : Buf) (s : State) (r : Nat) : List Nat :=
  let va := srcVals s a r
  (List.range d.cols).map fun k =>
    let x := pick a va k
    (elemFmt d.fmt).encode (RMode.ofCode (xbits f.x 0 3)) false (actFn f.sub.toNat (w64 x) (elemEx a.fmt x))

/-- A reduction of element bits of one format (R211). -/
def reduceBits (sub src dst : Nat) (m : RMode) (sat : Bool) (vs : List Nat) (old : Option Nat) : Nat :=
  if classOf dst = some true then
    let g (i : Int) : Int := if sub = 3 then i.natAbs else i
    let is := vs.map (fun v => g (elemI src v)) ++ (old.map fun v => g (elemI dst v)).toList
    let i := match is with
      | [] => 0
      | x :: l => match sub with
        | 0 => l.foldl (· + ·) x
        | 1 => l.foldl (fun a b => if b < a then b else a) x
        | _ => l.foldl (fun a b => if a < b then b else a) x
    intEnc dst sat i
  else
    let g (e : Ex) : Ex := if sub = 3 then (if e.isNeg then e.neg else e) else e
    let es := vs.map (fun v => g (elemEx src v)) ++ (old.map fun v => g (elemEx dst v)).toList
    let v := match es with
      | [] => .fin false 0 0
      | x :: l => match sub with
        | 0 => exSum m es
        | 1 => l.foldl Ex.min x
        | _ => l.foldl Ex.max x
    (elemFmt dst).encode m false v

/-- TRED: the destination is written only after every source element has been read (R211). -/
def redAll (f : Fields) (a d : Buf) (s : State) : State :=
  let rows := (List.range a.rows).map fun r => s.rowVals a.m a.x r
  let dim := xbits f.x 4 1
  let acc := xbits f.x 5 1 == 1
  let n := if dim = 0 then a.rows else a.cols
  let olds := (List.range n).map fun i => if dim = 0 then s.elemGet d.m d.x i 0 else s.elemGet d.m d.x 0 i
  let outs := (List.range n).map fun i =>
    let vs := if dim = 0 then rows.getD i [] else rows.map fun r => r.getD i 0
    reduceBits f.sub.toNat a.fmt d.fmt (RMode.ofCode (xbits f.x 0 3)) (xbits f.x 3 1 == 1) vs
      (if acc then some (olds.getD i 0) else none)
  if dim = 0 then (List.range n).foldl (fun s i => s.rowPut d.m d.x i [outs.getD i 0]) s
  else s.rowPut d.m d.x 0 outs

/-! ## TCVT (R212, R91, R92) -/

/-- EMAX of an MX format's elements (R91). -/
def mxEmax (c : Nat) : Int :=
  match c with
  | 10 => 8 | 11 => 15 | 12 => 4 | 13 | 14 => 2 | _ => 0

/-- Where a scale panel holds the scale of an element: along columns for DIM = 0, along rows for DIM = 1 (R86, R212). -/
def scaleAt (dim r c : Nat) : Nat × Nat := if dim = 0 then (r, c / 32) else (c, r / 32)

/-- The values that row r of `cols` columns takes from a TCVT source, its scales applied exactly (R84, R202). -/
def cvtRow (s : State) (a : Buf) (dim cols r : Nat) : List Ex :=
  let vs := srcVals s a r
  (List.range cols).map fun c =>
    let v := elemEx a.fmt (pick a vs c)
    let at' := scaleAt dim (srcRow a r) (srcCol a c)
    if isMx a.fmt then
      match scaleOf s a with
      | some p => v.mul (scaleEx (s.elemGet p.m p.x at'.1 at'.2))
      | none => v
    else v

/-- The shared scale code of a block (R91): 0xFF when any value is NaN or infinite. -/
def mxScale (c : Nat) (vs : List Ex) : Nat :=
  if vs.any fun v => match v with | .fin _ _ _ => false | _ => true then 255
  else
    match vs.filterMap Ex.log2? with
    | [] => 127
    | x :: l => (clampI 0 254 (l.foldl (fun a b => if a < b then b else a) x - mxEmax c + 127)).toNat

/-- One element under a block's scale (R91). -/
def mxElem (c s : Nat) (mode : RMode) (v : Ex) : Nat := if s = 255 then 0 else elemEnc c mode (v.scale (127 - (s : Int)))

/-- The mode for element c of row r: under SR the generator of row r after c + 1 Steps (R92). -/
def tileMode (rm : Nat) (k : Word) (r c : Nat) : RMode :=
  if rm = 4 then .sr (srG (srAfter k r (c + 1))) else RMode.ofCode rm

/-- The scale codes of a row of values with blocks along columns. -/
def rowScales (c : Nat) (vs : List Ex) : List Nat :=
  (List.range (ceilDiv vs.length 32)).map fun b => mxScale c ((vs.drop (32 * b)).take 32)

/-- Writing the scale codes of blocks along columns for a row (R212). -/
def putScales (s : State) (p : Buf) (dim r : Nat) (sc : List Nat) : State :=
  sc.zipIdx.foldl (fun s q =>
    if dim = 0 then s.elemSet p.m p.x r q.2 q.1 else s.elemSet p.m p.x q.2 r q.1) s

/-- A row of TCVT to a format without scale, or with blocks along columns (R212). -/
def cvtPut (rm : Nat) (k : Word) (dim : Nat) (a d : Buf) (s : State) (r : Nat) : State :=
  let vs := cvtRow s a dim d.cols r
  if isMx d.fmt then
    let sc := rowScales d.fmt vs
    let outs := vs.zipIdx.map fun q => mxElem d.fmt (sc.getD (q.2 / 32) 127) (tileMode rm k r q.2) q.1
    let s := s.rowPut d.m d.x r outs
    match scaleOf s d with
    | some p => putScales s p 0 r sc
    | none => s
  else s.rowPut d.m d.x r (vs.zipIdx.map fun q => elemEnc d.fmt (tileMode rm k r q.2) q.1)

/-- A group of up to 32 rows of TCVT to an MX format with blocks along rows: every source element is read first (R212). -/
def cvtGroup (rm : Nat) (k : Word) (a d : Buf) (s : State) (g : Nat) : State :=
  let rs := (List.range (min 32 (d.rows - 32 * g))).map (32 * g + ·)
  let vals := rs.map fun r => cvtRow s a 1 d.cols r
  let sc := (List.range d.cols).map fun c => mxScale d.fmt (vals.map fun v => v.getD c .nan)
  let s := (rs.zip vals).foldl (fun s q =>
    s.rowPut d.m d.x q.1 (q.2.zipIdx.map fun e => mxElem d.fmt (sc.getD e.2 127) (tileMode rm k q.1 e.2) e.1)) s
  match scaleOf s d with
  | some p => putScales s p 1 g sc
  | none => s

/-- TCVT on the whole buffer (R212). -/
def cvtAll (rm : Nat) (k : Word) (dim : Nat) (a d : Buf) (s : State) : State :=
  if isMx d.fmt && dim == 1 then (List.range (ceilDiv d.rows 32)).foldl (cvtGroup rm k a d) s
  else (List.range d.rows).foldl (cvtPut rm k dim a d) s

/-- The formats TCVT takes (R212). -/
def cvtFmtOk (b : Buf) : Bool :=
  !tScl b.x.shape && (b.fmt ≤ 8 || (10 ≤ b.fmt && b.fmt ≤ 20) || b.fmt == 25 || b.fmt == 26)

/-- A buffer of MX format has a linked scale panel of the shape that DIM gives (R212). -/
def cvtScaleOk (s : State) (dim : Nat) (b : Buf) : Bool :=
  !isMx b.fmt || match scaleOf s b with
    | none => false
    | some p =>
      if dim = 0 then p.rows == b.rows && p.cols == ceilDiv b.cols 32
      else p.rows == b.cols && p.cols == ceilDiv b.rows 32

/-! ## TCHAIN, TPERM, TCMP, TMSEL (R213 to R217) -/

/-- A TCHAIN step word is valid; `two` says that there is a second source (R213). -/
def stepOk (two : Bool) (w : Word) : Bool :=
  let op := field w 0 4
  decide (op ≤ 11) && field w 8 24 == 0 && decide (field w 4 4 ≤ 9) && (op == 7 || field w 4 4 == 0)
    && (two || !([0, 1, 2, 8, 9, 11].contains op))

/-- One step of TCHAIN before its rounding (R213). -/
def chainStep (w : Word) (v b : Ex) : Ex :=
  let imm := Fmt.f32.decode (field w 32 32)
  match field w 0 4 with
  | 0 => exSum .rn [v, b]
  | 1 => exSum .rn [v, b.neg]
  | 2 => v.mul b
  | 3 => exSum .rn [v, imm]
  | 4 => v.mul imm
  | 5 => v.max imm
  | 6 => v.min imm
  | 7 => actFn (field w 4 4) (w64 (Fmt.f32.encode .rn false v)) v
  | 8 => v.max b
  | 9 => v.min b
  | 10 => exSum .rn [imm, v.neg]
  | _ => exSum .rn [v.mul imm, b]

/-- Running the steps, each rounded to FP32 under RNE (R213). -/
def chainRun (ws : List Word) (v b : Ex) : Ex := ws.foldl (fun v w => rne .f32 (chainStep w v b)) v

/-- A row of TCHAIN (R213). -/
def chainRow (f : Fields) (ws : List Word) (a : Buf) (b : Option Buf) (d : Buf) (s : State) (r : Nat) : List Nat :=
  let va := srcVals s a r
  let vb := match b with
    | some b => srcVals s b r
    | none => []
  (List.range d.cols).map fun k =>
    let y := match b with
      | some b => elemEx b.fmt (pick b vb k)
      | none => .fin false 0 0
    (elemFmt d.fmt).encode (RMode.ofCode (xbits f.x 0 3)) false (chainRun ws (elemEx a.fmt (pick a va k)) y)

/-- The identity permutation, packed as BENSET's constants (R207). -/
def idPerm : Nat := packElems 6 (List.range 64)

/-- A packed permutation's entry (R214). -/
def permAt (p i : Nat) : Nat := nbits p (6 * i) 6

/-- Six words hold a permutation of 0 to 63 (R214). -/
def isPerm (p : Nat) : Bool := (List.range 64).all fun v => (List.range 64).any fun i => permAt p i == v

/-- The permutation bank of a context slot (R207). -/
def CTile.permOf (c : CTile) (ctx bank : Nat) : Nat := AList.getD c.perm (2 * ctx + bank) idPerm

/-- A row of TPERM: columns beyond the shape read as zero (R215). -/
def permRow (p : Nat) (a d : Buf) (s : State) (r : Nat) : List Nat :=
  let va := s.rowVals a.m a.x r
  (List.range d.cols).map fun k => va.getD (k / 64 * 64 + permAt p (k % 64)) 0

/-- The relations of TCMP on integers: .UO never, .OD always (R216). -/
def relTile (sub : Nat) (a b : Int) : Bool := if sub = 6 then false else if sub = 7 then true else relI sub a b

/-- A row of TCMP (R216). -/
def cmpRow (f : Fields) (a b d : Buf) (s : State) (r : Nat) : List Nat :=
  let va := srcVals s a r
  let vb := srcVals s b r
  (List.range d.cols).map fun k =>
    let x := pick a va k
    let y := pick b vb k
    bit (if a.x.cls = some true then relTile f.sub.toNat (elemI a.fmt x) (elemI b.fmt y)
         else relF f.sub.toNat (elemEx a.fmt x) (elemEx b.fmt y))

/-- A row of TMSEL: where the mask is false the destination keeps its element (R217). Between buffers of one format the bits
are copied as they stand (log entry 138). -/
def mselRow (f : Fields) (a b c : Buf) (s : State) (r : Nat) : List Nat :=
  let va := srcVals s a r
  let vb := srcVals s b r
  let vc := s.rowVals c.m c.x r
  (List.range c.cols).map fun k =>
    if pick a va k = 0 then vc.getD k 0
    else
      let y := pick b vb k
      if b.fmt = c.fmt then y else elemRes c.fmt f (elemEx b.fmt y) (elemI b.fmt y)

/-! ## Checks at issue (R206) -/

/-- The ports of sources and the port of the destination of a row-unit instruction (R208). -/
def rowPorts (op : Nat) (f : Fields) : List Nat × Nat :=
  match op with
  | 0x64 | 0x66 | 0x67 | 0x68 | 0x6B => ([0], 1)
  | 0x69 => ((List.range (f.ar.toNat - 1)), f.ar.toNat - 1)
  | 0x63 => ([0, 1, 2], 2)
  | _ => ([0, 1], 2)

/-- The handles of a row-unit instruction checked in port order, the destination for writing (R206). -/
def rowHandles (s : State) (fr : Firing) (op : Nat) (f : Fields) (lane : Nat) : Except Err (List Word) :=
  let n := (rowPorts op f).2 + 1
  (List.range n).foldl (fun acc p => match acc with
    | .error e => .error e
    | .ok hs => match needHandle s fr p lane true (p == (rowPorts op f).2) with
      | .error e => .error e
      | .ok h => .ok (hs ++ [h])) (.ok [])

/-- The first of some buffers, by port, at which they cease to be of one class: a format of no class, or of another than the first's
(R202; which port such a breach names: DEDUCED, log entry 113). -/
def classFault : List (Nat × Buf) → Option Nat
  | [] => none
  | (p, b) :: l => if b.x.cls.isNone then some p else (l.find? fun q => q.2.x.cls != b.x.cls).map (·.1)

/-- Whether buffers are of one class. -/
def sameClass (bs : List Buf) : Bool := (classFault (bs.map fun b => (0, b))).isNone

/-- The step words of a TCHAIN (R213). -/
def chainWords (s : State) (fr : Firing) (f : Fields) : List Word :=
  (List.range (xbits f.x 7 3 + 1)).map fun i => s.constOf fr (f.ck.toNat + i)

/-- The permutation in BENSET's six constants (R214). -/
def benPerm (s : State) (fr : Firing) (f : Fields) : Nat :=
  packElems 64 ((List.range 6).map fun i => (s.constOf fr (f.ck.toNat + i)).toNat)

/-- The port that a breach of formats and shapes names, if there is one: the first at fault (R206; log entry 113). -/
def rowShapeFault (s : State) (op : Nat) (f : Fields) (bs : List Buf) : Option Nat :=
  let ports := rowPorts op f
  let get (p : Nat) : Buf := bs.getD p { m := 0, d := 0, x := {} }
  let dst := get ports.2
  let badShape := ports.1.find? fun p => !bcastOk dst.rows dst.cols (get p)
  let whenBad (c : Bool) (p : Nat) : Option Nat := if c then some p else none
  let byPort := bs.zipIdx.map fun b => (b.2, b.1)
  match op with
  | 0x66 | 0x69 => -- TACT, TCHAIN: the float class only
    match bs.zipIdx.find? fun b => b.1.x.cls != some false with
    | some b => some b.2
    | none => badShape
  | 0x67 => -- TRED
    let a := get 0
    if (classFault byPort).isSome then classFault byPort
    else if xbits f.x 4 1 = 0 then whenBad (dst.rows != a.rows || dst.cols != 1) 1
    else whenBad (dst.cols != a.cols || dst.rows != 1) 1
  | 0x68 => -- TCVT
    let a := get 0
    let dim := xbits f.x 4 1
    if !cvtFmtOk a || !cvtScaleOk s dim a then some 0
    else if !cvtFmtOk dst || !cvtScaleOk s dim dst then some 1
    else badShape
  | 0x6B => -- TPERM
    let a := get 0
    if !([8, 16, 32].contains (tBits a.x.shape)) then some 0
    else if field a.x.shape 26 6 != field dst.x.shape 26 6 then some 1
    else whenBad (a.rows != dst.rows || a.cols != dst.cols) 0
  | 0x6C => -- TCMP
    if (classFault (byPort.take 2)).isSome then classFault (byPort.take 2)
    else if tScl dst.x.shape || !([24, 25, 26].contains dst.fmt) then some 2
    else badShape
  | 0x6D => -- TMSEL
    if tScl (get 0).x.shape || !([24, 25, 26].contains (get 0).fmt) then some 0
    else if (classFault (byPort.drop 1)).isSome then classFault (byPort.drop 1)
    else badShape
  | _ => if (classFault byPort).isSome then classFault byPort else badShape

/-- The check of a row-unit instruction at issue (R206). -/
def rowCheck (s : State) (fr : Firing) (op : Nat) (f : Fields) (lane : Nat) : Option Err :=
  if op = 0x6A then (if isPerm (benPerm s fr f) then none else some { cause := 0x04, port := 3 })
  else match rowHandles s fr op f lane with
    | .error e => some e
    | .ok hs =>
      match rowShapeFault s op f (hs.map (bufOf s (tileDie fr.tile))) with
      | some p => some { cause := 0x04, port := p }
      | none =>
        if op = 0x69 ∧ !(chainWords s fr f).all (stepOk (f.ar == 3)) then some { cause := 0x04, port := 3 } else none

/-- A row-unit instruction issues: it is checked, and joins the operations that the unit takes in order; a poison token on any
port makes it an operation that is not performed (R203, R205, R206, R458). -/
def runRowOp (op : Nat) (f : Fields) (s : State) : State :=
  withFiring s fun fr s =>
    perLane fr (fun i s =>
      let push (bad : Option PRec) : State :=
        (s.onTile fr.tile fun c => { c with ruOps := c.ruOps ++ [{ firing := fr, f := f, lane := i, bad := bad }] }).count fr .oto
      match poisonAt fr.ops i with
      | some r => push (some r)
      | none => match rowCheck s fr op f i with
        | some e => failLane s fr i { e with lane := i }
        | none => push none) s

/-! ## Performing (R201, R204, R205) -/

/-- ROW_UNIT_OPERATION_START: the oldest operation begins, once the one before it has emitted its outputs (R203). -/
def rowStart (s : State) (t : Nat) : State :=
  match (s.tile t).ruOps with
  | [] => s
  | o :: rest => if o.started then s else (s.forgetEarly (.row t)).onTile t fun c => { c with ruOps := { o with started := true } :: rest }

/-- Whether a row-unit operation reads its destination beside its sources: TRED with ACC = 1 and TMSEL (R211, R217). -/
def readsDst (op : Nat) (f : Fields) : Bool := op == 0x6D || (op == 0x67 && xbits f.x 5 1 == 1)

/-- The effect of a row-unit operation on its buffers and banks. -/
def rowPerform (s : State) (op : Nat) (f : Fields) (fr : Firing) : State :=
  if op = 0x6A then
    let p := benPerm s fr f
    let k := 2 * fr.ctx + xbits f.x 6 1
    s.onTile fr.tile fun c => { c with perm := if p = idPerm then AList.erase c.perm k else AList.set c.perm k p }
  else
    let bs := fr.handles.map (bufOf s (tileDie fr.tile))
    let get (p : Nat) : Buf := bs.getD p { m := 0, d := 0, x := {} }
    let ports := rowPorts op f
    let dst := get ports.2
    let srcs := ports.1.map get
    let panels := if op = 0x68 then (scaleOf s (get 0)).toList else []
    let s := (srcs ++ panels ++ if readsDst op f then [dst] else []).foldl touchAll s
    let s := taintFrom s dst (srcs ++ panels)
    match op with
    | 0x64 => rowByRow dst (scalRow f (s.operand fr f 2 0).word (get 0) dst) s
    | 0x66 => rowByRow dst (actRow f (get 0) dst) s
    | 0x67 => redAll f (get 0) dst s
    | 0x68 => cvtAll (xbits f.x 0 3) (s.constOf fr f.ck.toNat) (xbits f.x 4 1) (get 0) dst s
    | 0x69 => rowByRow dst (chainRow f (chainWords s fr f) (get 0) (if f.ar == 3 then some (get 1) else none) dst) s
    | 0x6B => rowByRow dst (permRow ((s.tile fr.tile).permOf fr.ctx (xbits f.x 6 1)) (get 0) dst) s
    | 0x6C => rowByRow dst (cmpRow f (get 0) (get 1) dst) s
    | 0x6D => rowByRow dst (mselRow f (get 0) (get 1) dst) s
    | _ => rowByRow dst (tileRow op f (get 0) (get 1) dst) s

/-- ROW_UNIT_OPERATION_COMPLETE: the operation that has begun has performed all its elements and its outputs leave: source
references are released, the destination's handle goes to D0, done to D1 (R205, R206). Where the input has words written later, the outputs
wait for the next such event (R300). -/
def rowComplete (s : State) (t : Nat) : State :=
  match (s.tile t).ruOps with
  | [] => s
  | o :: rest =>
    if !o.started then s
    else
      let fr := o.firing
      let die := tileDie t
      let s := s.onTile t fun c => { c with ruOps := rest }
      match o.bad, (s.fieldsOf fr).map (·.1) with
      | some r, _ => (poisonLane s fr o.f o.lane r).uncount fr .oto
      | none, none => s.uncount fr .oto
      | none, some op =>
        let late := if o.done then [] else s.lateWords
        let s := if o.done then s.landOwner (.row t) else torn s (.row t) late fun s => rowPerform s op o.f fr
        if !late.isEmpty then s.onTile t fun c => { c with ruOps := { o with done := true } :: rest }
        else
        let s := s.onTile t fun c => { c with ruops := c.ruops + 1 }
        let dp := (rowPorts op o.f).2
        let drops := (fr.handles.zipIdx.filter fun h => h.2 != dp).map (·.1)
        let s := s.releaseAll die drops
        let s := match op == 0x6A, fr.handles[dp]? with
          | false, some h => s.emit1 fr o.f.d0 o.lane (.hand (rehandle s die h))
          | _, _ => s
        (s.emit1 fr o.f.d1 o.lane .dn).uncount fr .oto

end Sys2Proof.Machine
end

