-- ==== Sys2Proof/Machine/Handlers.lean ====
section
/-! DEFINITION. Stream handlers and group 0x7 (R218 to R228). -/

namespace Sys2Proof.Machine

/-- A handler; one that is not listed is at reset. -/
def MTile.handler (c : MTile) (h : Nat) : Hnd := AList.getD c.hnd h {}
/-- Setting a handler. -/
def MTile.setHandler (c : MTile) (h : Nat) (x : Hnd) : MTile := { c with hnd := AList.set c.hnd h x }

/-- ALLOT of MTHNDc: whether context slot c may use a handler (R218, R224). -/
def MTile.allotted (c : MTile) (ctx h : Nat) : Bool := nbits (AList.getD c.hallot ctx 0xFFFF) h 1 == 1

/-- Runnable: BUSY, PEND > 0 and not masked (R219). -/
def Hnd.runnable (x : Hnd) : Bool := x.busy && decide (0 < x.pend) && !x.mask

/-- Changing a handler; one that becomes runnable takes its age (R219). -/
def MTile.onHandler (c : MTile) (clk h : Nat) (g : Hnd → Hnd) : MTile :=
  let x := c.handler h
  let y := g x
  c.setHandler h (if !x.runnable && y.runnable then { y with since := clk } else y)

/-- A count word added to PEND, clamped to the steps left (R219); no step is in progress between the model's steps. -/
def Hnd.addPend (x : Hnd) (n : Nat) : Hnd := { x with pend := min (x.pend + n) (x.total - x.done) }

/-- A discarded count word, in a counter of 27 bits that saturates (R219, R224). -/
def MTile.discWord (c : MTile) : MTile := { c with hdisc := min (c.hdisc + 1) (2 ^ 27 - 1) }

/-- Two buffers have one format: SCL and FMT (R175, R220). -/
def sameFmt (a b : Buf) : Bool := field a.x.shape 26 6 == field b.x.shape 26 6

/-- A list of length L: 1 by L or L by 1 (R220). -/
def isList (b : Buf) (l : Nat) : Bool := (b.rows == 1 && b.cols == l) || (b.cols == 1 && b.rows == l)

/-- An index buffer of length L. -/
def idxOk (b : Buf) (l : Nat) : Bool := !tScl b.x.shape && (b.fmt == 25 || b.fmt == 26) && isList b l

/-- A mask of length L. -/
def maskOk (b : Buf) (l : Nat) : Bool := !tScl b.x.shape && b.fmt == 24 && b.rows == 1 && b.cols == l

/-- The parameters of WINDOW (R221). -/
structure Win where
  w : Nat
  h : Nat
  kh : Nat
  kw : Nat
  sy : Nat
  sx : Nat
  dy : Nat
  dx : Nat
  pt : Nat
  pl : Nat
  wo : Nat
  ho : Nat
deriving DecidableEq, Repr

/-- Unpacking the two parameter words of WINDOW. -/
def winOf (w0 w1 : Word) : Win :=
  { w := field w0 0 12, h := field w0 12 12, kh := field w0 24 4 + 1, kw := field w0 28 4 + 1, sy := field w0 32 4 + 1,
    sx := field w0 36 4 + 1, dy := field w0 40 4 + 1, dx := field w0 44 4 + 1, pt := field w0 48 4, pl := field w0 52 4,
    wo := field w1 0 12, ho := field w1 12 12 }

/-- The checks of WINDOW (R221). -/
def winOk (w0 w1 : Word) (a b : Buf) : Bool :=
  let p := winOf w0 w1
  field w0 56 8 == 0 && field w1 24 40 == 0 && p.w != 0 && p.h != 0 && p.wo != 0 && p.ho != 0
    && a.rows == p.h * p.w && b.rows == p.ho * p.wo && b.cols == p.kh * p.kw * a.cols && sameFmt a b
    && [8, 16, 32].contains (tBits a.x.shape)

/-- Columns that a cut of R195 must start at a multiple of. -/
def colAlign (shape : Word) : Nat :=
  let b := tBits shape
  if b = 4 then 2 else if b = 1 then 8 else if b = 6 then 4 else 1

/-- The checks of SPLIT of x into y and z, and of JOIN of y and z into x (R222). -/
def splitOk (w0 : Word) (x y z : Buf) : Bool :=
  let pos := field w0 1 13
  field w0 14 50 == 0 && sameFmt x y && sameFmt x z && pos != 0 &&
    if field w0 0 1 = 0 then
      pos % colAlign x.x.shape == 0 && y.cols == pos && y.cols + z.cols == x.cols && y.rows == x.rows && z.rows == x.rows
    else y.rows == pos && y.rows + z.rows == x.rows && y.cols == x.cols && z.cols == x.cols

/-- The requirements of a kind on its buffers and parameter words (R220 to R222). -/
def sopOk (s : State) (kind : Nat) (bs : List Buf) (w0 w1 : Word) : Bool :=
  let get (p : Nat) : Buf := bs.getD p { m := 0, d := 0, x := {} }
  let a := get 0
  let b := get 1
  let c := get 2
  let same := sameFmt a b
  match kind with
  | 0 => same && a.rows == b.rows && a.cols == b.cols
  | 1 => same && a.cols == b.cols && idxOk c b.rows
  | 2 => same && a.cols == b.cols && idxOk c a.rows
  | 3 => same && b.rows == a.cols && b.cols == a.rows && [8, 16, 32].contains (tBits a.x.shape)
  | 4 => winOk w0 w1 a b
  | 5 => same && bcastOk b.rows b.cols a && (a.rows == 1 || a.cols == 1)
  | 6 => splitOk w0 a b c
  | 7 => splitOk w0 c a b
  | 8 => decide (field w0 0 3 ≤ 4) && field w0 4 28 == 0 && (field w0 0 3 == 4 || field w0 32 32 == 0) && cvtFmtOk a && cvtFmtOk b
      && cvtScaleOk s (field w0 3 1) a && cvtScaleOk s (field w0 3 1) b && bcastOk b.rows b.cols a
  | 9 => decide (field w0 0 2 ≤ 2) && field w0 2 62 == 0 && sameClass [a, b] && a.rows == b.rows && a.cols == b.cols
  | 10 => same && a.cols == b.cols && maskOk c a.rows
  | _ => same && a.cols == b.cols && maskOk c b.rows

/-- The destination ports of a kind (R220). -/
def sopDests (kind : Nat) : List Nat := if kind = 6 then [1, 2] else if kind = 7 then [2] else [1]

/-- The buffer whose rows are counted by TOTAL (R220). -/
def sopTotal (kind : Nat) (bs : List Buf) : Nat :=
  ((bs[if kind = 2 ∨ kind = 6 ∨ kind = 10 then 0 else if kind = 7 then 2 else 1]?).map Buf.rows).getD 0

/-! ## Steps (R219 to R223) -/

/-- What one step does: the rows read, the rows written with their elements, and the effects on OOB and on the packed side. -/
structure StepDo where
  reads  : List (Buf × Nat) := []
  writes : List (Buf × Nat × List Nat) := []
  oob    : Nat := 0
  next   : Nat := 0
  free   : Nat := 0
deriving DecidableEq, Repr

/-- Element i of a list buffer. -/
def listElem (s : State) (b : Buf) (i : Nat) : Nat :=
  if b.cols = 1 then s.elemGet b.m b.x i 0 else s.elemGet b.m b.x 0 i

/-- The row that an index names in a buffer of n rows, if it lies inside (R220). -/
def indexRow (s : State) (x : Buf) (i n : Nat) : Option Nat :=
  let v := elemI x.fmt (listElem s x i)
  if v < 0 ∨ (n : Int) ≤ v then none else some v.toNat

/-- The elements of a destination row of WINDOW (R221). -/
def winRow (s : State) (p : Win) (a : Buf) (o : Nat) : List Nat :=
  let oy := o / p.wo
  let ox := o % p.wo
  (List.range p.kh).flatMap fun ky => (List.range p.kw).flatMap fun kx =>
    let iy : Int := (oy * p.sy + ky * p.dy : Nat) - (p.pt : Int)
    let ix : Int := (ox * p.sx + kx * p.dx : Nat) - (p.pl : Int)
    if 0 ≤ iy ∧ iy < p.h ∧ 0 ≤ ix ∧ ix < p.w then s.rowVals a.m a.x (iy.toNat * p.w + ix.toNat)
    else List.replicate a.cols 0

/-- The source rows that a step of WINDOW reads. -/
def winReads (p : Win) (a : Buf) (o : Nat) : List (Buf × Nat) :=
  (List.range p.kh).flatMap fun ky => (List.range p.kw).filterMap fun kx =>
    let iy : Int := (o / p.wo * p.sy + ky * p.dy : Nat) - (p.pt : Int)
    let ix : Int := (o % p.wo * p.sx + kx * p.dx : Nat) - (p.pl : Int)
    if 0 ≤ iy ∧ iy < p.h ∧ 0 ≤ ix ∧ ix < p.w then some (a, iy.toNat * p.w + ix.toNat) else none

/-- Step r of a handler, for every kind but CONVERT (R220 to R222). EXPAND past the last source row has no stated result: its
row is free (log entry 11). -/
def stepDo (s : State) (x : Hnd) (bs : List Buf) : StepDo :=
  let get (p : Nat) : Buf := bs.getD p { m := 0, d := 0, x := {} }
  let a := get 0
  let b := get 1
  let c := get 2
  let r := x.done
  let row (q : Buf) (i : Nat) : List Nat := s.rowVals q.m q.x i
  match x.kind with
  | 0 => { reads := [(a, r)], writes := [(b, r, row a r)] }
  | 1 =>
    match indexRow s c r a.rows with
    | some i => { reads := [(a, i)], writes := [(b, r, row a i)] }
    | none => { writes := [(b, r, List.replicate b.cols 0)], oob := 1 }
  | 2 =>
    match indexRow s c r b.rows with
    | some i => { reads := [(a, r)], writes := [(b, i, row a r)] }
    | none => { oob := 1 }
  | 3 => { reads := (List.range a.rows).map fun i => (a, i),
           writes := [(b, r, (List.range b.cols).map fun k => s.elemGet a.m a.x k r)] }
  | 4 => { reads := winReads (winOf x.w0 x.w1) a r, writes := [(b, r, winRow s (winOf x.w0 x.w1) a r)] }
  | 5 => { reads := [(a, srcRow a r)], writes := [(b, r, (List.range b.cols).map (pick a (srcVals s a r)))] }
  | 6 =>
    let pos := field x.w0 1 13
    if field x.w0 0 1 = 0 then
      { reads := [(a, r)], writes := [(b, r, (row a r).take pos), (c, r, (row a r).drop pos)] }
    else { reads := [(a, r)], writes := [if r < pos then (b, r, row a r) else (c, r - pos, row a r)] }
  | 7 =>
    let pos := field x.w0 1 13
    if field x.w0 0 1 = 0 then { reads := [(a, r), (b, r)], writes := [(c, r, row a r ++ row b r)] }
    else if r < pos then { reads := [(a, r)], writes := [(c, r, row a r)] }
    else { reads := [(b, r - pos)], writes := [(c, r, row b (r - pos))] }
  | 9 =>
    let va := row a r
    let vb := row b r
    { reads := [(a, r), (b, r)],
      writes := [(b, r, (List.range b.cols).map fun k =>
        reduceBits (field x.w0 0 2) a.fmt b.fmt .rn false [va.getD k 0] (some (vb.getD k 0)))] }
  | 10 =>
    if s.elemGet c.m c.x 0 r = 0 then { next := x.next }
    else if x.next < b.rows then { reads := [(a, r)], writes := [(b, x.next, row a r)], next := x.next + 1 }
    else { oob := 1, next := x.next }
  | _ =>
    if s.elemGet c.m c.x 0 r = 0 then { writes := [(b, r, List.replicate b.cols 0)], next := x.next }
    else if x.next < a.rows then { reads := [(a, x.next)], writes := [(b, r, row a x.next)], next := x.next + 1 }
    else { writes := [(b, r, (s.freeWords b.cols).map BitVec.toNat)], next := x.next + 1, free := b.cols }

/-- Row r of CONVERT: as TCVT, one row (R220); with blocks along rows, the scales are those of the row's block of 32. -/
def convertStep (x : Hnd) (a b : Buf) (s : State) : State :=
  let rm := field x.w0 0 3
  let k := w64 (field x.w0 32 32)
  let dim := field x.w0 3 1
  if isMx b.fmt && dim == 1 then
    let g := x.done / 32
    let rs := (List.range (min 32 (b.rows - 32 * g))).map (32 * g + ·)
    let vals := rs.map fun r => cvtRow s a 1 b.cols r
    let sc := (List.range b.cols).map fun c => mxScale b.fmt (vals.map fun v => v.getD c .nan)
    let row := cvtRow s a 1 b.cols x.done
    let s := s.rowPut b.m b.x x.done (row.zipIdx.map fun e => mxElem b.fmt (sc.getD e.2 127) (tileMode rm k x.done e.2) e.1)
    match scaleOf s b with
    | some p => putScales s p 1 g sc
    | none => s
  else cvtPut rm k dim a b s x.done

/-- A step reads a row of a buffer: an uncorrectable error in it marks the buffer (R186). -/
def touchRow (s : State) (p : Buf × Nat) : State := s.touch p.1.m p.1.d (p.1.x.rowOff p.2) (rowBytes p.1.x.shape)

/-- The row of the index buffer or mask that a step reads (R220). -/
def listReads (x : Hnd) (c : Buf) : List (Buf × Nat) :=
  if [1, 2, 10, 11].contains x.kind then [(c, if c.cols = 1 then x.done else 0)] else []

/-- The rows that a step of CONVERT reads: its source row, or a block of 32 of them, with the scales (R212, R220). -/
def convertReads (x : Hnd) (a : Buf) (s : State) : State :=
  let one := field x.w0 3 1
  let rs := if one = 1 then (List.range 32).map (x.done / 32 * 32 + ·) else [x.done]
  let rows (b : Buf) (l : List Nat) : List (Buf × Nat) := (l.filter (· < b.rows)).map fun r => (b, r)
  let panel := match isMx a.fmt, scaleOf s a with
    | true, some p => rows p (if one = 1 then List.range p.rows else rs.map (srcRow a))
    | _, _ => []
  ((rows a (rs.map (srcRow a)).eraseDups ++ panel).eraseDups).foldl touchRow s

/-- The handlers that may take a step: runnable, unmasked, of a LIVE frame that no freeze wave has stopped (R36, R219). -/
def runnableOf (s : State) (m : Nat) : List (Nat × Hnd) :=
  (s.mtile m).hnd.filter fun p => p.2.runnable &&
    match p.2.firing with
    | some fr => s.isLive fr && !s.frozenAt fr.tile fr.ctx
    | none => false

/-- The order of R36 between candidates (item, priority, age and ties): higher priority, then older, then lower ties. -/
def before36 {α : Type} (a b : α × Nat × List Nat) : Bool :=
  decide (b.2.1 < a.2.1) || (a.2.1 == b.2.1 && decide (a.2.2 < b.2.2))

/-- Selection under R36 with guard count g, among the eligible candidates `l` and with the priorities `ps` of every entry that waits, held
ones among them: the candidate that issues and the new count. G rises on an issue made while an entry of lower priority waits, eligible or
not, and stays at 64 while no such entry can take its turn (log entry 32). Of two entries that are alike in priority, clk, BLK, IX and LB,
which belong to different frames, the one that entered the queue's list first goes first: R36 leaves that order open (DESIGN CHOICE,
log entry 97). -/
def select36 {α : Type} (g : Nat) (ps : List Nat) (l : List (α × Nat × List Nat)) : Option (α × Nat) :=
  match leastBy before36 l with
  | none => none
  | some top =>
    let low := l.filter fun c => ps.any fun p => decide (c.2.1 < p)
    match (if g ≥ 64 then leastBy (fun a b => decide (a.2.2 < b.2.2)) low else none) with
    | some c => some (c.1, 0)
    | none => some (top.1, if ps.any fun p => decide (p < top.2.1) then min (g + 1) 64 else 0)

/-- HANDLER_STEP: the handler that R36 selects performs one step (R219, R223). The words that the input has written later are written with
the completion at the latest, and before a step that may write them again (R300). -/
def handlerStep (s : State) (m : Nat) : State :=
  match select36 (s.mtile m).hguard (((s.mtile m).hnd.filter fun p => p.2.runnable).map fun p => p.2.pri)
      ((runnableOf s m).map fun p => (p, p.2.pri, [p.2.since, p.1])) with
  | none => s
  | some ((h, x), g) =>
    torn (if x.kind == 2 || x.kind == 8 then s.landOwner (.handler m h) else s) (.handler m h) (if x.chn then [] else s.lateWords) fun s =>
    let bs := x.bound.map (bufOf s (tileDie m))
    let get (p : Nat) : Buf := bs.getD p { m := 0, d := 0, x := {} }
    let dests := sopDests x.kind
    let srcs := (bs.zipIdx.filter fun b => !dests.contains b.2).map (·.1)
    let s := s.onMtile m fun c => { c with hguard := g }
    if x.kind = 8 then
      let from' := get 0 :: (scaleOf s (get 0)).toList
      let s := convertStep x (get 0) (get 1) (taintFrom (convertReads x (get 0) s) (get 1) from')
      finish s h x 1 0 x.next
    else
      let d := stepDo s x bs
      let s := (d.reads ++ listReads x (get 2)).foldl touchRow s
      let s := dests.foldl (fun (s : State) p => taintFrom s (get p) srcs) s
      let s := d.writes.foldl (fun (s : State) w => s.rowPut w.1.m w.1.x w.2.1 w.2.2) s
      finish (s.useFree d.free) h x d.writes.length d.oob d.next
where
  /-- The counts after a step that wrote `n` rows, and the chained count word. -/
  finish (s : State) (h : Nat) (x : Hnd) (n oob next : Nat) : State :=
    s.onMtile m fun c =>
      let c := c.onHandler s.clk h fun x =>
        { x with pend := x.pend - 1, done := x.done + 1, oob := x.oob + oob, next := next,
                 wrote := x.wrote + (if oob = 0 then n else 0) }
      if x.chn && decide (0 < n) then { c with hwords := c.hwords ++ [{ h := x.nexth, ctx := x.ctx, count := 1 }] } else c

/-- HANDLER_COUNT_WORD: a chained count word reaches its channel (R219, R223). -/
def handlerWord (s : State) (m n : Nat) : State :=
  match (s.mtile m).hwords[n]? with
  | none => s
  | some w => s.onMtile m fun c =>
      let c := { c with hwords := dropNth c.hwords n }
      let x := c.handler w.h
      if x.busy && x.ctx == w.ctx then c.onHandler s.clk w.h fun x => x.addPend w.count else c.discWord

/-- HANDLER_COMPLETE: a handler whose steps are done emits the rows that it wrote and becomes FREE; one whose frame has entered
ENDING becomes FREE without its token (R223). -/
def handlerComplete (s : State) (m h : Nat) : State :=
  let x := (s.mtile m).handler h
  match x.busy, x.firing with
  | true, some fr =>
    if x.done ≠ x.total ∧ !s.isEnding fr then s
    else
      let s := (s.landOwner (.handler m h)).onMtile m fun c => c.setHandler h { x with busy := false, firing := none, bound := [], d1 := none }
      let s := s.releaseAll (tileDie m) x.bound
      let s := if x.done = x.total then s.emit1 fr x.d1 x.lane (.scal (w64 x.wrote)) else s
      s.uncount fr .oto
  | _, _ => s

/-! ## Instructions (R225 to R228) -/

/-- The parameter words of a SOPSET (R226). -/
def sopParams (s : State) (fr : Firing) (f : Fields) : Word × Word :=
  let n := sopNpw f.sub.toNat
  (if 0 < n then s.constOf fr f.ck.toNat else 0, if 1 < n then s.constOf fr (f.ck.toNat + 1) else 0)

/-- The memory tile of a group 0x7 instruction. -/
def sopTile (fr : Firing) (f : Fields) : Nat := memTileOf fr.tile (xbits f.x 4 1)
/-- The handler that it names. -/
def sopH (f : Fields) : Nat := xbits f.x 0 4

/-- SOPSET takes a FREE handler (R226, steps 4 and 5). -/
def sopConfigure (s : State) (fr : Firing) (f : Fields) (lane : Nat) : State :=
  let m := sopTile fr f
  let p := sopParams s fr f
  let bs := fr.handles.map (bufOf s (tileDie m))
  let s := (s.forgetEarly (.handler m (sopH f))).onMtile m fun c => c.setHandler (sopH f)
    { kind := f.sub.toNat, busy := true, ctx := fr.ctx, holder := fr.tile % 1024, chn := xbits f.x 5 1 == 1,
      nexth := xbits f.x 6 4, total := sopTotal f.sub.toNat bs, w0 := p.1, w1 := p.2, bound := fr.handles,
      firing := some fr, lane := lane, d1 := f.d1 }
  s.emit1 fr f.d0 lane .dn

/-- The handles of a SOPSET checked in port order: each names the handler's own memory tile (R226, step 1). -/
def sopHandles (s : State) (fr : Firing) (f : Fields) (lane : Nat) : Except Err (List Word) :=
  (List.range f.ar.toNat).foldl (fun acc p => match acc with
    | .error e => .error e
    | .ok hs => match needHandle s fr p lane true ((sopDests f.sub.toNat).contains p) with
      | .error e => .error e
      | .ok h =>
        if hTile (tileDie fr.tile) h = sopTile fr f then .ok (hs ++ [h])
        else .error { cause := 0x05, port := p, lane := lane, extra := h }) (.ok [])

/-- SOPSET on one lane (R218, R226). The parameter words are in w5 as far as it holds them: the first (log entry 18).
The allotment is checked before the handles and the parameters (log entry 139). -/
def sopsetLane (fr : Firing) (f : Fields) (i : Nat) (s : State) : State :=
  let m := sopTile fr f
  let c := s.mtile m
  if !c.allotted fr.ctx (sopH f) then failLane s fr i { cause := 0x03, lane := i }
  else match sopHandles s fr f i with
    | .error e => failLane s fr i e
    | .ok hs =>
      let p := sopParams s fr f
      if !sopOk s f.sub.toNat (hs.map (bufOf s (tileDie m))) p.1 p.2 then
        failLane s fr i { cause := 0x04, lane := i, extra := p.1 }
      else
        let s := s.count fr .oto
        if (c.handler (sopH f)).busy || c.hwait.any fun w => sopH w.f == sopH f then
          s.onMtile m fun c => { c with hwait := c.hwait ++ [{ firing := fr, f := f, lane := i }] }
        else sopConfigure s fr f i

/-- A side-effecting instruction whose poison raises (R118), performed lane by lane otherwise. -/
def sideEffect (g : Firing → Nat → State → State) (s : State) : State :=
  withFiring s fun fr s =>
    perLane fr (orRaise fr (g fr)) s

/-- SOPSET (R226). -/
def runSopset (f : Fields) (s : State) : State := sideEffect (fun fr i s => sopsetLane fr f i s) s

/-- SOPSET_WAIT_END: the oldest SOPSET that waits for handler h takes it once it is FREE; one whose frame has entered ENDING gives
up, and one of a frozen graph waits on, in place or in its image (R223, R226, R379). Arrival order is kept among those that wait for one
handler; R226 does not say that one waits for another's (DEDUCED, log entry 114). -/
def sopsetWaitEnd (s : State) (m h : Nat) : State :=
  let c := s.mtile m
  let frozen (fr : Firing) : Bool := s.frozenAt fr.tile fr.ctx || (s.frameOf fr).any fun x => x.st == .frozen
  match c.hwait.zipIdx.find? fun w => sopH w.1.f == h && !frozen w.1.firing with
  | none => s
  | some (w, n) =>
    let drop (s : State) : State := s.onMtile m fun c => { c with hwait := dropNth c.hwait n }
    if !s.isLive w.firing then ((drop s).releaseOps w.firing).uncount w.firing .oto
    else if (c.handler h).busy then s
    else sopConfigure (drop s) w.firing w.f w.lane

/-- A handler instruction other than SOPSET on one lane: allotment and ownership, then the change and done (R218, R227, R228). -/
def sopLane (fr : Firing) (f : Fields) (g : Hnd → Hnd) (i : Nat) (s : State) : State :=
  let m := sopTile fr f
  let c := s.mtile m
  let x := c.handler (sopH f)
  let s := s.releaseAll (tileDie fr.tile) (laneHandles fr i)
  if !c.allotted fr.ctx (sopH f) then s.raise fr { cause := 0x03, lane := i }
  else if !(x.busy && x.ctx == fr.ctx) then s.raise fr { cause := 0x05, lane := i }
  else (s.onMtile m fun c => c.onHandler s.clk (sopH f) g).emit1 fr f.d1 i .dn

/-- SOPGO (R227). -/
def runSopgo (f : Fields) (s : State) : State :=
  sideEffect (fun fr i s => sopLane fr f (fun x => x.addPend (laneWord s fr f (if f.kc then 1 else 0) i).toNat) i s) s

/-- SOPMASK (R228): .OFF sets MASK, .ON clears it. -/
def runSopmask (f : Fields) (off : Bool) (s : State) : State :=
  sideEffect (fun fr i s => sopLane fr f (fun x => { x with mask := off }) i s) s

/-- SOPPRI (R228). -/
def runSoppri (f : Fields) (s : State) : State :=
  sideEffect (fun fr i s => sopLane fr f (fun x => { x with pri := xbits f.x 5 2 }) i s) s

end Sys2Proof.Machine
end

