-- ==== Sys2Proof/Machine/Matrix.lean ====
section
/-! DEFINITION. Matrix arrays and group 0x8 (R84 to R87, R93 to R97, R229 to R251). -/

namespace Sys2Proof.Machine

/-! ## Banks, tables and records -/

/-- A bank of the array (R229). -/
def CTile.bank (c : CTile) (b : Nat) : MxBank := if b = 0 then c.acc0 else c.acc1
/-- Setting a bank. -/
def CTile.setBank (c : CTile) (b : Nat) (x : MxBank) : CTile := if b = 0 then { c with acc0 := x } else { c with acc1 := x }
/-- A code table (R87). -/
def CTile.tab (c : CTile) (n : Nat) : CbTab := if n = 0 then c.tab0 else c.tab1
/-- Setting a code table. -/
def CTile.setTab (c : CTile) (n : Nat) (x : CbTab) : CTile := if n = 0 then { c with tab0 := x } else { c with tab1 := x }
/-- The FP32 bits of the latch of cell (i, j) of a bank (R229). -/
def MxBank.latch (b : MxBank) (i j : Nat) : Nat := AList.getD b.cells (64 * i + j) b.fill
/-- Setting a latch. -/
def MxBank.setLatch (b : MxBank) (i j v : Nat) : MxBank := { b with cells := AList.set b.cells (64 * i + j) (v % 2 ^ 32) }
/-- Marking a bank poisoned; an existing record stays (R236). -/
def MxBank.taint (b : MxBank) (r : Option PRec) : MxBank :=
  match r with
  | some r => if b.psn then b else { b with psn := true, prec := r }
  | none => b

/-- MXOPc of a context slot (R244). -/
def CTile.opRec (c : CTile) (ctx : Nat) : MxRec := AList.getD c.mxop ctx {}
/-- Changing MXOPc, if it still describes this message. -/
def CTile.onRec (c : CTile) (g : MxMsg) (h : MxRec → MxRec) : CTile :=
  if (c.opRec g.firing.ctx).id = g.id then { c with mxop := AList.set c.mxop g.firing.ctx (h (c.opRec g.firing.ctx)) } else c

/-- MXOPc as a register word (R244). -/
def MxRec.word (r : MxRec) : Word :=
  w64 (r.prog + r.state * 2 ^ 13 + r.steps * 2 ^ 16 + r.cause * 2 ^ 32 + bit r.ecm * 2 ^ 40)

/-- Whether an operation of the array is halted (R240). -/
def CTile.mxHalted (c : CTile) : Bool := c.mxRun.any fun o => o.halt.isSome

/-! ## Formats (R78, R233) -/

/-- Positions per cell and clk of a format (R78). -/
def gOf (c : Nat) : Nat :=
  match c with
  | 4 | 5 | 6 | 7 | 10 | 11 | 12 | 13 | 15 | 17 | 18 | 21 => 2
  | 8 | 14 | 16 | 19 | 20 => 4
  | 24 => 8
  | _ => 1

/-- The formats that an operation accepts for one operand (R233). -/
def mxFmtOk (op sub c : Nat) : Bool :=
  match op with
  | 0x80 => decide (c ≤ 8) || (17 ≤ c && c ≤ 21)
  | 0x81 => decide (c ≤ 8) || (10 ≤ c && c ≤ 21)
  | 0x82 => c == 22 || c == 23
  | _ => if sub = 2 then c == 17 || c == 24 else decide (c ≤ 3)

/-- The formats of ACCLD and ACCST (R247, R248). -/
def accFmtOk (st : Bool) (c : Nat) : Bool :=
  c == 22 || c == 23 || c == 25 || c == 26 || if st then decide (c ≤ 8) || (17 ≤ c && c ≤ 20) else decide (c ≤ 3)

/-- Cell group of an operation: positions of one k-step (R233, R246). -/
def mxGroup (op sub : Nat) (a b : Buf) : Nat :=
  if op = 0x82 then 1 else if op = 0x83 ∧ sub ≠ 2 then 1 else min (gOf a.fmt) (gOf b.fmt)

/-! ## Acceptance (R235) -/

/-- MMA, MMAS, MMAC or MMSR. -/
def isMm (op : Nat) : Bool := 0x80 ≤ op && op ≤ 0x83
/-- ACCLD or ACCST. -/
def isAcc (op : Nat) : Bool := op == 0x84 || op == 0x85

/-- The port of the command or offset word; 3 names the constant. -/
def cmdPort (op : Nat) (f : Fields) : Nat := constPort f (if isMm op then 2 else if isAcc op || op == 0x86 then 1 else 0)

/-- The command, offset or mode word of a message (R232, R247, R251). -/
def cmdWord (s : State) (g : MxMsg) (op : Nat) : Word :=
  laneWord s g.firing g.f (if isMm op then 2 else if isAcc op || op == 0x86 then 1 else 0) g.lane

/-- Reserved bits of the operand words are zero (R235 step 2); CBSET accepts any entries (R249). -/
def cmdOk (op : Nat) (w : Word) : Bool :=
  if isMm op then field w 14 2 == 0 && field w 32 32 == 0 && (op == 0x81 || field w 16 16 == 0) && (op != 0x82 || field w 0 1 == 0)
  else if isAcc op then field w 12 52 == 0
  else if op == 0x89 then field w 1 63 == 0
  else true

/-- The first handle check that fails (R235 step 1); handles are on ports 0 and 1 of a product and on port 0 of ACCLD and ACCST. -/
def mxHandles (s : State) (g : MxMsg) (op : Nat) : Except Err (List Word) :=
  (if isMm op then [0, 1] else if isAcc op then [0] else []).foldl (fun acc p => match acc with
    | .error e => .error e
    | .ok hs => match needHandle s g.firing p g.lane true (op == 0x85) with
      | .error e => .error e
      | .ok h => .ok (hs ++ [h])) (.ok [])

/-- A scaled operand carries a panel of the required shape and of its own FMT (R234, R235 step 5). -/
def mxScaleOk (s : State) (b : Buf) (rows k : Nat) : Bool :=
  !isMx b.fmt || match scaleOf s b with
    | none => false
    | some p => p.rows == rows && p.cols == ceilDiv k 32 && p.fmt == b.fmt

/-- The code table that an operation entering the inbox takes: the current one, after the CBSWAPs ahead of it (R243). -/
def tableAhead (c : CTile) (opOf : MxMsg → Nat) : Nat :=
  (c.cur + (c.mxInbox.filter fun g => opOf g == 0x87 && g.bad.isNone).length) % 2

/-- The mode that applies to an operation entering the inbox: that of the last MMCFG ahead of it, else MXOPc.ECM (R251). -/
def ecmAhead (s : State) (c : CTile) (opOf : MxMsg → Nat) (ctx : Nat) : Bool :=
  (c.mxInbox.filter fun g => opOf g == 0x89 && g.bad.isNone && g.firing.ctx == ctx).foldl
    (fun _ g => field (cmdWord s g 0x89) 0 1 == 1) (c.opRec ctx).ecm

/-- Whether a bank is owned by a context. -/
def MxBank.ownedBy (b : MxBank) (ctx : Nat) : Bool := b.valid && b.ctx == ctx

/-- Steps 3 to 6 of R235 for MMA, MMAS, MMAC and MMSR: cause and port of the first that fails (log entry 19). -/
def mmFault (s : State) (c : CTile) (ctx op sub table : Nat) (w : Word) (wp : Nat) (a b : Buf) : Option (Nat × Nat) :=
  let m := a.rows
  let n := b.cols
  let own (bk : Nat) : Bool := field w 1 1 == 1 || (c.bank bk).ownedBy ctx
  let tabOk (x : Buf) : Bool := x.fmt != 21 || ((c.tab table).valid && (c.tab table).ctx == ctx)
  if !mxFmtOk op sub a.fmt then some (0x0C, 0)
  else if !mxFmtOk op sub b.fmt then some (0x0C, 1)
  else if op = 0x81 ∧ !(isMx a.fmt || isMx b.fmt) then some (0x0C, 0)
  else if op = 0x83 ∧ sub = 2 ∧ a.fmt ≠ b.fmt then some (0x0C, 1)
  else if a.cols ≠ b.rows then some (0x04, 1)
  else if 64 < m then some (0x04, 0)
  else if 64 < n then some (0x04, 1)
  else if 64 < field w 2 6 + m ∨ 64 < field w 8 6 + n then some (0x04, wp)
  else if op = 0x81 ∧ !mxScaleOk s a m a.cols then some (0x13, 0)
  else if op = 0x81 ∧ !mxScaleOk s b n a.cols then some (0x13, 1)
  else if op = 0x82 ∧ !(own 0 && own 1) then some (0x03, wp)
  else if op ≠ 0x82 ∧ !own (field w 0 1) then some (0x03, wp)
  else if !tabOk a then some (0x03, 0)
  else if !tabOk b then some (0x03, 1)
  else none

/-- The bank of ACCLD and ACCST. -/
def accBank (f : Fields) : Nat := xbits f.x 4 1

/-- Steps 3 to 6 of R235 for ACCLD and ACCST (R247, R248). -/
def accFault (c : CTile) (ctx : Nat) (st : Bool) (f : Fields) (w : Word) (wp : Nat) (a : Buf) : Option (Nat × Nat) :=
  let cplx := a.fmt == 22 || a.fmt == 23
  if !accFmtOk st a.fmt then some (0x0C, 0)
  else if 64 < field w 0 6 + a.rows ∨ 64 < field w 6 6 + a.cols then some (0x04, 0)
  else if cplx ∧ accBank f = 1 then some (0x04, wp)
  else if st ∧ !((c.bank (accBank f)).ownedBy ctx && (!cplx || c.acc1.ownedBy ctx)) then some (0x03, wp)
  else none

/-- The whole check of R235; w5 holds the command word (log entry 19). -/
def mxCheck (s : State) (t : Nat) (g : MxMsg) (op : Nat) : Option Err :=
  match mxHandles s g op with
  | .error e => some { e with extra := cmdWord s g op }
  | .ok hs =>
    let w := cmdWord s g op
    let wp := cmdPort op g.f
    if !cmdOk op w then some { cause := 0x04, port := wp, extra := w }
    else
      let get (n : Nat) : Buf := ((hs[n]?).map (bufOf s (tileDie t))).getD { m := 0, d := 0, x := {} }
      let r :=
        if isMm op then mmFault s (s.tile t) g.firing.ctx op g.f.sub.toNat g.table w wp (get 0) (get 1)
        else if isAcc op then accFault (s.tile t) g.firing.ctx (op == 0x85) g.f w wp (get 0)
        else none
      r.map fun p => { cause := p.1, port := p.2, extra := w }

/-- The opcode that a message's instruction has: CPYM stands for the MMA that follows it (R296). -/
def mxOp (s : State) (g : MxMsg) : Nat :=
  let op := ((s.fieldsOf g.firing).map (·.1)).getD 0
  if op = 0xA1 then 0x80 else op

/-- A message that a CPYM has sent. -/
def isFollowOn (s : State) (g : MxMsg) : Bool := ((s.fieldsOf g.firing).map (·.1)).getD 0 == 0xA1

/-- The array takes over the count of a CPYM: OCP falls and OTO rises (R294). -/
def takeCount (s : State) (g : MxMsg) : State :=
  if isFollowOn s g then (s.uncount g.firing .ocp).count g.firing .oto else s

/-- An instruction of group 0x8 issues: a message for each lane goes to the array's inbox (R35, R458), and the operation counts in
OTO from issue (R236). -/
def runMx (f : Fields) (s : State) : State :=
  withFiring s fun fr s =>
    (lanesOf fr).foldl (fun (s : State) i =>
      (s.onTile fr.tile fun c => { c with mxIn := c.mxIn ++ [{ firing := fr, f := f, lane := i, bad := poisonAt fr.ops i }] }).count
        fr .oto) s

/-- S, the k-steps of an operation (R233); 1 for ACCLD and ACCST. -/
def mxSteps (s : State) (t : Nat) (g : MxMsg) (op : Nat) : Nat :=
  if isMm op then
    match g.firing.handles with
    | h :: k :: _ => ceilDiv (bufOf s (tileDie t) h).cols (mxGroup op g.f.sub.toNat (bufOf s (tileDie t) h) (bufOf s (tileDie t) k))
    | _ => 0
  else 1

/-- The oldest message that THAW has brought back and that the inbox has had no place for (R242, R380). -/
def backMsg (s : State) (t : Nat) : Option MxOp := (s.tile t).mxFrozen.find? fun o => !o.begun && !s.frozenAt t o.msg.firing.ctx

/-- ENGINE_MESSAGE_ACCEPT: the oldest message that has issued enters the inbox and is checked (R35, R184, R235), those that THAW has
brought back before it, which were accepted then: an operation keeps its table, a CBSET writes the shadow of its new turn (R243). A refused
one takes its fault, with the messages of higher lanes of its firing (R458). -/
def engineAccept (s : State) (t : Nat) : State :=
  let c := s.tile t
  if c.mxHalted || 2 ≤ c.mxInbox.length then s
  else match backMsg s t, c.mxIn with
  | some o, _ =>
    let g := { o.msg with table := if mxOp s o.msg = 0x86 then tableAhead c (mxOp s) else o.msg.table }
    s.onTile t fun c => { c with mxFrozen := c.mxFrozen.filter (· != o), mxInbox := c.mxInbox ++ [g] }
  | none, [] => s
  | none, g :: rest =>
      let op := mxOp s g
      let s := takeCount s g
      let g := { g with id := c.mxseq + 1, table := tableAhead c (mxOp s), ecm := ecmAhead s c (mxOp s) g.firing.ctx }
      let put (s : State) (r : Option MxRec) : State := s.onTile t fun c =>
        let c := { c with mxIn := rest, mxseq := c.mxseq + 1 }
        match r, isMm op || isAcc op with
        | some r, true => { c with mxop := AList.set c.mxop g.firing.ctx { r with id := g.id, ecm := (c.opRec g.firing.ctx).ecm } }
        | _, _ => c
      let enter (s : State) : State := s.onTile t fun c => { c with mxInbox := c.mxInbox ++ [g] }
      match g.bad with
      | some _ => enter (put s (some { state := 5 }))
      | none =>
        match mxCheck s t g op with
        | some e =>
          let s := put s (some { state := 5, cause := e.cause })
          let later := rest.filter fun x => x.firing == g.firing
          let s := s.onTile t fun c => { c with mxIn := c.mxIn.filter fun x => x.firing != g.firing }
          let s := (g :: later).foldl (fun (s : State) x =>
            (s.releaseAll (tileDie t) (laneHandles x.firing x.lane)).uncount x.firing .oto) s
          s.raise g.firing { e with lane := g.lane }
        | none => enter (put s (some { state := 1, steps := mxSteps s t g op }))

/-! ## Taking messages from the inbox (R231, R238, R243, R249) -/

/-- A message's outputs leave and its count falls (R236). -/
def mxFinish (s : State) (g : MxMsg) (d0 d1 : Option LVal) : State :=
  let s := match d0 with
    | some v => s.emit1 g.firing g.f.d0 g.lane v
    | none => s
  let s := match d1 with
    | some v => s.emit1 g.firing g.f.d1 g.lane v
    | none => s
  s.uncount g.firing .oto

/-- Clearing a bank for its claimant: every latch at one value (R231, R232). -/
def claim (ctx fill : Nat) : MxBank := { valid := true, ctx := ctx, fill := fill }

/-- The identity of an operation (R232). -/
def mxIdentity (op sub : Nat) : Nat :=
  if op = 0x83 ∧ sub = 0 then 0x7F800000 else if op = 0x83 ∧ sub = 1 then 0xFF800000 else 0

/-- Banks that a message claims when it is taken: by CLR, or by ACCLD (R231). -/
def claims (s : State) (g : MxMsg) (op : Nat) : List Nat :=
  if isMm op then
    if field (cmdWord s g op) 1 1 = 0 then [] else if op = 0x82 then [0, 1] else [field (cmdWord s g op) 0 1]
  else if op = 0x84 then
    match g.firing.handles.head? with
    | some h =>
      let c := (bufOf s (tileDie g.firing.tile) h).fmt
      if c = 22 ∨ c = 23 then [0, 1] else [accBank g.f]
    | none => []
  else []

/-- A message that would claim a bank, or write a shadow table, of another context that is frozen waits (R242). -/
def heldByFreeze (s : State) (t : Nat) (g : MxMsg) (op : Nat) : Bool :=
  let c := s.tile t
  let other (v : Bool) (ctx : Nat) : Bool := v && ctx != g.firing.ctx && s.frozenAt t ctx
  (claims s g op).any (fun b => other (c.bank b).valid (c.bank b).ctx)
    || (op == 0x86 && other (c.tab (1 - g.table)).valid (c.tab (1 - g.table)).ctx)

/-- An operation reads a CB4 operand. -/
def usesTable (s : State) (g : MxMsg) : Bool := g.firing.handles.any fun h => (bufOf s (tileDie g.firing.tile) h).fmt == 21

/-- The table that is the shadow of a message's current one is in use by an operation that took it as current and has not fed its last
k-step (R243). -/
def shadowBusy (s : State) (c : CTile) (g : MxMsg) : Bool :=
  (c.mxRun ++ c.mxFrozen).any fun o => isMm (mxOp s o.msg) && o.msg.table != g.table && usesTable s o.msg && decide (o.prog < o.steps)

/-- Taking a CBSET: the shadow table and its owner (R243, R249). Its message carries the current table of its turn in the inbox. -/
def takeCbset (s : State) (t : Nat) (g : MxMsg) (rest : List MxMsg) : State :=
  let bits := (laneWord s g.firing g.f 0 g.lane).toNat + (laneWord s g.firing g.f 1 g.lane).toNat * 2 ^ 64
  let s := s.onTile t fun c =>
    { c.setTab (1 - g.table) { valid := true, ctx := g.firing.ctx, bits := bits } with mxInbox := rest }
  mxFinish (s.releaseAll (tileDie t) (laneHandles g.firing g.lane)) g none (some .dn)

/-- Beginning an operation: the claim of CLR, and feeding (R236, R238). -/
def takeOp (s : State) (t : Nat) (g : MxMsg) (op : Nat) (rest : List MxMsg) : State :=
  let bs := if isMm op then claims s g op else []
  (s.forgetEarly (.array t)).onTile t fun c =>
    let c := bs.foldl (fun (c : CTile) b => c.setBank b (claim g.firing.ctx (mxIdentity op g.f.sub.toNat))) c
    let c : CTile := { c with mxInbox := rest, mxRun := c.mxRun ++ [({ msg := g, steps := mxSteps s t g op } : MxOp)] }
    c.onRec g fun r => { r with state := 2 }

/-- MATRIX_FEED_BEGIN: the array takes the message at the head of its inbox, when its kind may be taken (R238, R243, R247 to
R251). A message stopped for poison only emits it (R235). -/
def feedBegin (s : State) (t : Nat) : State :=
  let c := s.tile t
  match c.mxInbox with
  | [] => s
  | g :: rest =>
    let op := mxOp s g
    let pop (s : State) : State := s.onTile t fun c => { c with mxInbox := rest }
    if c.mxHalted then s
    else match g.bad with
      | some r => (poisonLane (pop s) g.firing g.f g.lane r).uncount g.firing .oto
      | none =>
        if heldByFreeze s t g op then s
        else if isMm op then (if s.frozenAt t g.firing.ctx || c.mxRun.any fun o => decide (o.prog < o.steps) then s else takeOp s t g op rest)
        else if isAcc op then (if s.frozenAt t g.firing.ctx || !c.mxRun.isEmpty then s else takeOp s t g op rest)
        else match op with
          | 0x86 => if shadowBusy s c g then s else takeCbset s t g rest
          | 0x87 =>
            let s := (pop s).onTile t fun c => { c with cur := 1 - c.cur }
            mxFinish (s.releaseAll (tileDie t) (laneHandles g.firing g.lane)) g none (some .dn)
          | 0x88 =>
            mxFinish ((pop s).releaseAll (tileDie t) (laneHandles g.firing g.lane)) g (some (.scal (c.opRec g.firing.ctx).word)) none
          | _ =>
            let e := field (cmdWord s g 0x89) 0 1 == 1
            let s := (pop s).onTile t fun c =>
              { c with mxop := AList.set c.mxop g.firing.ctx { c.opRec g.firing.ctx with ecm := e } }
            mxFinish (s.releaseAll (tileDie t) (laneHandles g.firing g.lane)) g none (some .dn)

/-- CBSET_WAIT_END: the operation that held the shadow table has fed its last k-step, and the CBSET that waits writes it (R243). -/
def cbsetWaitEnd (s : State) (t : Nat) : State :=
  match (s.tile t).mxInbox with
  | g :: _ => if mxOp s g = 0x86 then feedBegin s t else s
  | [] => s

/-! ## Performing (R93 to R97, R236, R247, R248) -/

/-- The value of an element of an operand panel at position k of its line: CB4 through a table, MX formats with their scale. -/
def mxElemAt (s : State) (tab : Nat) (b : Buf) (line k : Nat) (aSide : Bool) : Ex :=
  let bits := if aSide then s.elemGet b.m b.x line k else s.elemGet b.m b.x k line
  let v := if b.fmt = 21 then Fmt.e4m3.decode (nbits tab (8 * bits) 8) else elemEx b.fmt bits
  if isMx b.fmt then
    match scaleOf s b with
    | some p => v.mul (scaleEx (s.elemGet p.m p.x line (k / 32)))
    | none => v
  else v

/-- The real and imaginary parts of a complex element (R82). -/
def cplxEx (fmt bits : Nat) : Ex × Ex :=
  let f := if fmt = 22 then Fmt.bf16 else Fmt.f16
  (f.decode (bits % 2 ^ 16), f.decode (bits / 2 ^ 16 % 2 ^ 16))

/-- FP32 bits of an exact value under RNE. -/
def rne32 (v : Ex) : Nat := Fmt.f32.encode .rn false v

/-- A k-step in one cell for a real product or a semiring: the new latch (R93, R97). -/
def cellStep (op sub : Nat) (acc : Nat) (xs ys : List Ex) (xb yb : List Nat) : Nat :=
  let a := Fmt.f32.decode acc
  let pairs := xs.zip ys
  if op = 0x83 then
    match sub with
    | 0 => rne32 (pairs.foldl (fun v p => v.min (Fmt.f32.decode (rne32 (exSum .rn [p.1, p.2])))) a)
    | 1 => rne32 (pairs.foldl (fun v p => v.max (Fmt.f32.decode (rne32 (p.1.mul p.2)))) a)
    | _ => if acc % 2 ^ 31 != 0 || (xb.zip yb).any fun p => p.1 != 0 && p.2 != 0 then 0x3F800000 else 0
  else rne32 (exSum .rn (a :: pairs.map fun p => p.1.mul p.2))

/-- A k-step of a complex product in one cell: the new real and imaginary latches (R96). -/
def cellStepC (fa fb : Nat) (accr acci x y : Nat) : Nat × Nat :=
  let a := cplxEx fa x
  let b := cplxEx fb y
  (rne32 (exSum .rn [Fmt.f32.decode accr, a.1.mul b.1, (a.2.mul b.2).neg]),
   rne32 (exSum .rn [Fmt.f32.decode acci, a.1.mul b.2, a.2.mul b.1]))

/-- K-step t over the whole window (R236). -/
def mmStep (s : State) (t : Nat) (o : MxOp) (op : Nat) (a b : Buf) : State :=
  let g := o.msg
  let w := cmdWord s g op
  let sub := g.f.sub.toNat
  let grp := mxGroup op sub a b
  let ks := (List.range (min grp (a.cols - grp * o.prog))).map (grp * o.prog + ·)
  let tab := ((s.tile t).tab g.table).bits
  let mo := field w 2 6
  let no := field w 8 6
  let line (b : Buf) (aSide : Bool) (l : Nat) : List Nat × List Ex :=
    (ks.map fun k => if aSide then s.elemGet b.m b.x l k else s.elemGet b.m b.x k l, ks.map fun k => mxElemAt s tab b l k aSide)
  let as := ((List.range a.rows).map (line a true)).zipIdx
  let bs := ((List.range b.cols).map (line b false)).zipIdx
  let window := as.flatMap fun x => bs.map fun y => (x, y)
  if op = 0x82 then
    s.onTile t fun c => window.foldl (fun (c : CTile) p =>
      let m := mo + p.1.2
      let n := no + p.2.2
      let q := cellStepC a.fmt b.fmt (c.acc0.latch m n) (c.acc1.latch m n) (p.1.1.1.headD 0) (p.2.1.1.headD 0)
      { c with acc0 := c.acc0.setLatch m n q.1, acc1 := c.acc1.setLatch m n q.2 }) c
  else
    let bk := field w 0 1
    s.onTile t fun c => c.setBank bk (window.foldl (fun (x : MxBank) p =>
      let m := mo + p.1.2
      let n := no + p.2.2
      x.setLatch m n (cellStep op sub (x.latch m n) p.1.1.2 p.2.1.2 p.1.1.1 p.2.1.1)) (c.bank bk))

/-- ACCLD's effect on the banks (R247). -/
def accLoad (s : State) (t : Nat) (g : MxMsg) (a : Buf) : State :=
  let w := cmdWord s g 0x84
  let mo := field w 0 6
  let no := field w 6 6
  let psn := (s.mtile a.m).poison? a.d
  let fill (conv : Nat → Nat) : MxBank :=
    ((List.range a.rows).foldl (fun (b : MxBank) r =>
      (s.rowVals a.m a.x r).zipIdx.foldl (fun (b : MxBank) v => b.setLatch (mo + r) (no + v.2) (conv v.1)) b)
      (claim g.firing.ctx 0)).taint psn
  s.onTile t fun c =>
    if a.fmt = 22 ∨ a.fmt = 23 then
      { c with acc0 := fill fun v => rne32 (cplxEx a.fmt v).1, acc1 := fill fun v => rne32 (cplxEx a.fmt v).2 }
    else c.setBank (accBank g.f) (fill fun v => rne32 (elemEx a.fmt v))

/-- ACCST's effect on its destination and, for .Z, on the banks (R248). -/
def accStore (s : State) (t : Nat) (g : MxMsg) (a : Buf) : State :=
  let w := cmdWord s g 0x85
  let mo := field w 0 6
  let no := field w 6 6
  let c := s.tile t
  let bk := accBank g.f
  let cplx := a.fmt == 22 || a.fmt == 23
  let rm := RMode.ofCode (xbits g.f.x 0 3)
  let val (r k : Nat) : Nat :=
    if cplx then
      let h := if a.fmt = 22 then Fmt.bf16 else Fmt.f16
      h.encode rm false (Fmt.f32.decode (c.acc0.latch (mo + r) (no + k)))
        + h.encode rm false (Fmt.f32.decode (c.acc1.latch (mo + r) (no + k))) * 2 ^ 16
    else elemEnc a.fmt rm (Fmt.f32.decode ((c.bank bk).latch (mo + r) (no + k)))
  let s := (List.range a.rows).foldl (fun (s : State) r => s.rowPut a.m a.x r ((List.range a.cols).map (val r))) s
  let zero (b : MxBank) : MxBank :=
    (List.range a.rows).foldl (fun (b : MxBank) r => (List.range a.cols).foldl (fun (b : MxBank) k =>
      b.setLatch (mo + r) (no + k) 0) b) b
  let s := if g.f.sub = 1 then s.onTile t fun c =>
      if cplx then { c with acc0 := zero c.acc0, acc1 := zero c.acc1 } else c.setBank bk (zero (c.bank bk))
    else s
  let p := if (c.bank bk).psn then some (c.bank bk).prec else if cplx && c.acc1.psn then some c.acc1.prec else none
  match p with
  | some r => s.taint a.m a.d r
  | none => s

/-- The bytes that the k-step to come fetches of an operand and of its scale panel, as (memory tile, descriptor, offset, bytes). -/
def stepFetch (s : State) (b : Buf) (ks : List Nat) (lines : Nat) (aSide : Bool) : List (Nat × Nat × Nat × Nat) :=
  let el := ks.flatMap fun k => (List.range lines).map fun l =>
    let e := if aSide then b.x.elemBytes l k else b.x.elemBytes k l
    (b.m, b.d, e.1, e.2)
  let sc := match isMx b.fmt, scaleOf s b with
    | true, some p => ks.flatMap fun k => (List.range lines).map fun l => (p.m, p.d, (p.x.elemBytes l (k / 32)).1, 1)
    | _, _ => []
  el ++ sc

/-- Whether a fetch meets an uncorrectable error. -/
def fetchBad (s : State) (l : List (Nat × Nat × Nat × Nat)) : Bool := l.any fun e => (s.mtile e.1).ueIn e.2.2.1 e.2.2.2

/-- The record of an operand's poison: its own buffer's, or its scale panel's. -/
def operandPoison (s : State) (b : Buf) : Option PRec :=
  match (s.mtile b.m).poison? b.d with
  | some r => some r
  | none => if isMx b.fmt then (scaleOf s b).bind fun p => (s.mtile p.m).poison? p.d else none

/-- The operation that feeds: the one with k-steps left. -/
def CTile.feeding (c : CTile) : Option (Nat × MxOp) := (c.mxRun.zipIdx.find? fun o => decide (o.1.prog < o.1.steps)).map fun o => (o.2, o.1)

/-- Changing the n-th operation in progress. -/
def CTile.onRun (c : CTile) (n : Nat) (g : MxOp → MxOp) : CTile :=
  match c.mxRun[n]? with
  | some o => { c with mxRun := setNth c.mxRun n (g o) }
  | none => c

/-- The operand panels of a product. -/
def panels (s : State) (t : Nat) (g : MxMsg) : Buf × Buf :=
  let get (n : Nat) : Buf := ((g.firing.handles[n]?).map (bufOf s (tileDie t))).getD { m := 0, d := 0, x := {} }
  (get 0, get 1)

/-- The fetches of the k-step to come, for A and for B. -/
def nextFetch (s : State) (t : Nat) (o : MxOp) : List (Nat × Nat × Nat × Nat) × List (Nat × Nat × Nat × Nat) :=
  let (a, b) := panels s t o.msg
  let grp := mxGroup (mxOp s o.msg) o.msg.f.sub.toNat a b
  let ks := (List.range (min grp (a.cols - grp * o.prog))).map (grp * o.prog + ·)
  (stepFetch s a ks a.rows true, stepFetch s b ks b.cols false)

/-- A fetch of a product's k-step that fails. -/
def fetchFails (s : State) (t : Nat) (o : MxOp) : Bool :=
  isMm (mxOp s o.msg) && (fetchBad s (nextFetch s t o).1 || fetchBad s (nextFetch s t o).2)

/-- Banks that an operation uses (R236). -/
def usedBanks (s : State) (g : MxMsg) (op : Nat) : List Nat := if op = 0x82 then [0, 1] else [field (cmdWord s g op) 0 1]

/-- The banks that an operation uses are marked with the record of its lowest poisoned port (R236). -/
def taintBanks (s : State) (t : Nat) (g : MxMsg) (op : Nat) (r : Option PRec) : State :=
  s.onTile t fun c => (usedBanks s g op).foldl (fun (c : CTile) b => c.setBank b ((c.bank b).taint r)) c

/-- MATRIX_KSTEP_FEED: the operation that feeds performs its next k-step in every cell of its window (R236, R237); ACCLD and
ACCST have one step. With its last k-step it marks its banks, before an operation that begins after it can claim them. -/
def kstepFeed (s : State) (t : Nat) : State :=
  match (s.tile t).feeding with
  | none => s
  | some (n, o) =>
    if o.halt.isSome || s.frozenAt t o.msg.firing.ctx || fetchFails s t o then s
    else
      let op := mxOp s o.msg
      let (a, b) := panels s t o.msg
      torn (s.landOwner (.array t)) (.array t) s.lateWords fun s =>
      let s := match op with
        | 0x84 => accLoad (touchAll s a) t o.msg a
        | 0x85 => accStore s t o.msg a
        | _ => mmStep s t o op a b
      let pa := if isMm op then o.psnA.or (operandPoison s a) else none
      let pb := if isMm op then o.psnB.or (operandPoison s b) else none
      let s := if isMm op && o.prog + 1 == o.steps then taintBanks s t o.msg op (pa.or pb) else s
      s.onTile t fun c =>
        let c := c.onRun n fun o => { o with prog := o.prog + 1, psnA := pa, psnB := pb }
        c.onRec o.msg fun r => { r with prog := o.prog + 1 }

/-- The outputs of a finished operation leave: references are released, status and done emitted (R236, R247, R248). `err` is the cause of
an error completion, which marks the banks for the k-steps that were fed (R241). -/
def mxDone (s : State) (t n : Nat) (o : MxOp) (err : Nat) : State :=
  let g := o.msg
  let op := mxOp s g
  let die := tileDie t
  let s := s.landOwner (.array t)
  let s := if isMm op && o.prog != o.steps then taintBanks s t g op (o.psnA.or o.psnB) else s
  let s := s.onTile t fun c =>
    { c with mxRun := dropNth c.mxRun n, mxops := c.mxops + 1 }.onRec g fun r =>
      { r with state := if err = 0 then 4 else 5, cause := err }
  if isMm op then
    let s := s.releaseAll die g.firing.handles
    mxFinish s g (some (.scal (w64 (err + o.prog * 2 ^ 32 + (if err = 0 then 0 else 2 ^ 63))))) (some .dn)
  else
    match g.firing.handles.head? with
    | some h => mxFinish s g (some (.hand (rehandle s die h))) (some .dn)
    | none => mxFinish s g none (some .dn)

/-- MATRIX_OPERATION_COMPLETE: the oldest operation whose steps every cell has performed emits its outputs (R236, R239). -/
def mxComplete (s : State) (t : Nat) : State :=
  match (s.tile t).mxRun with
  | o :: _ => if o.prog = o.steps then mxDone s t 0 o 0 else s
  | [] => s

/-! ## Halting (R240 to R242) -/

/-- OPERAND_FETCH_FAULT: the fetch of the next k-step meets an uncorrectable error: the buffer is marked; the operation halts
with a resumable record, or completes at once with an error status when its mode says so (R240, R241). -/
def fetchFault (s : State) (t : Nat) : State :=
  match (s.tile t).feeding with
  | none => s
  | some (n, o) =>
    if o.halt.isSome || s.frozenAt t o.msg.firing.ctx || !fetchFails s t o then s
    else
      let (fa, fb) := nextFetch s t o
      let port := if fetchBad s fa then 0 else 1
      let s := (fa ++ fb).foldl (fun (s : State) e => s.touch e.1 e.2.1 e.2.2.1 e.2.2.2) s
      let fr := o.msg.firing
      if o.msg.ecm then mxDone s t n o 0x0D
      else
        let s := s.onTile t fun c => (c.onRun n fun o => { o with halt := some (s.clk, port) }).onRec o.msg fun r => { r with state := 3, cause := 0x0D }
        { s with detected := s.detected ++ [{
            cause := 0x0D, tile := t, fi := fr.fi, w1 := placeWord t fr.ctx fr.fi fr.blk fr.ix port (fr.lb + o.msg.lane),
            va := 0, extra := w64 o.prog, defer := false, tcode := 0, mapv := s.version, time := s.clk, rsm := true }] }

/-- The halted operation with its place. -/
def CTile.halted (c : CTile) : Option (Nat × MxOp) := (c.mxRun.zipIdx.find? fun o => o.1.halt.isSome).map fun o => (o.2, o.1)

/-- A halt ends in an abort: the operation leaves with its references released and no outputs; with `fault` its unit takes the
fault, with P in w5 (R240). -/
def mxAbort (s : State) (t : Nat) (fault : Bool) : State :=
  match (s.tile t).halted with
  | none => s
  | some (n, o) =>
    let fr := o.msg.firing
    let s := s.onTile t fun c =>
      { c with mxRun := dropNth c.mxRun n, mxops := c.mxops + 1 }.onRec o.msg fun r =>
        { r with state := 6, cause := if fault then r.cause else 0 }
    let s := (s.releaseAll (tileDie t) fr.handles).uncount fr .oto
    if fault then s.raise fr { cause := 0x0D, port := (o.halt.map (·.2)).getD 3, lane := o.msg.lane, extra := w64 o.prog } else s

/-- MXCTL with RESUME: PSN of the operand descriptors is cleared if CLRP asks for it, and feeding goes on from step P (R240). -/
def mxResume (s : State) (t : Nat) (clrp : Bool) : State :=
  match (s.tile t).halted with
  | none => s
  | some (n, o) =>
    let (a, b) := panels s t o.msg
    let bufs := [a, b].flatMap fun x => x :: (scaleOf s x).toList
    let s := if clrp then bufs.foldl (fun (s : State) x => s.onMtile x.m fun c =>
        c.setDesc (c.psnDesc x.d) { c.desc (c.psnDesc x.d) with psn := false }) s
      else s
    s.onTile t fun c => (c.onRun n fun o => { o with halt := none }).onRec o.msg fun r => { r with state := 2, cause := 0 }

/-- MATRIX_HALT_TIMEOUT: MXHTO clk after the halt began the operation is aborted with its fault; a halted operation whose frame
has entered ENDING is aborted without one (R240). -/
def haltTimeout (s : State) (t : Nat) : State :=
  match (s.tile t).halted with
  | none => s
  | some (_, o) =>
    if !s.isLive o.msg.firing then mxAbort s t false
    else if (o.halt.map (·.1)).getD 0 + (s.tile t).mxhto ≤ s.clk then mxAbort s t true
    else s

/-- MATRIX_FREEZE_STOP: a freeze wave reaches the operations of a context: those with k-steps left, and those not yet begun, stop
with MXOPc STATE 7 and hold the array no longer (R242); a CBSET of the context that waits for one of them stops with it (R243). -/
def mxFreeze (s : State) (t ctx : Nat) : State :=
  if !s.frozenAt t ctx then s
  else s.onTile t fun c =>
    let mine (g : MxMsg) : Bool := g.firing.ctx == ctx && g.bad.isNone && (isMm (mxOp s g) || isAcc (mxOp s g))
    let run := c.mxRun.filter fun o => mine o.msg && decide (o.prog < o.steps)
    let held (g : MxMsg) : Bool := g.firing.ctx == ctx && g.bad.isNone && mxOp s g == 0x86
      && (shadowBusy s { c with mxRun := run } g || heldByFreeze s t g 0x86)
    let wait := (c.mxInbox.filter fun g => mine g || held g).map fun g => { msg := g, steps := mxSteps s t g (mxOp s g), begun := false : MxOp }
    let c := { c with
      mxRun := c.mxRun.filter fun o => !(mine o.msg && decide (o.prog < o.steps))
      mxInbox := c.mxInbox.filter fun g => !(mine g || held g)
      mxFrozen := c.mxFrozen ++ run ++ wait }
    (run ++ wait.filter fun o => mine o.msg).foldl (fun (c : CTile) o => c.onRec o.msg fun r => { r with state := 7 }) c

end Sys2Proof.Machine
end

