-- ==== Sys2Proof/Machine/Channel.lean ====
section
/-! DEFINITION. The controller of a pseudo-channel: row policy, refresh, activations, the command buses, and what it does by itself as time
passes (R254, R404 to R410, R413). -/

namespace Sys2Proof.Machine

/-! ## Addresses -/

/-- The fold H6 of a 32-bit number (R254); the 34 bits of R428 fold on in the same way (DEDUCED, log entry 122). -/
def h6 (p : Nat) : Nat :=
  nbits p 0 6 ^^^ nbits p 6 6 ^^^ nbits p 12 6 ^^^ nbits p 18 6 ^^^ nbits p 24 6 ^^^ nbits p 30 6

/-- The pseudo-channel of a physical address (R413). -/
def pcOf (pa : Nat) : Nat := nbits pa 12 2 * 64 + nbits pa 7 5 * 2 + nbits pa 6 1
/-- The 64-byte granule of a physical address. -/
def granule (pa : Nat) : Nat := pa / 64 * 64

/-- The n-th granule of a pseudo-channel in ascending physical address (R405). -/
def pcGranule (p n : Nat) : Nat := n * 2 ^ 14 + p / 64 * 2 ^ 12 + p / 2 % 32 * 2 ^ 7 + p % 2 * 2 ^ 6

/-- The place of a granule in its pseudo-channel, counted in ascending physical address (R405). -/
def granuleNo (pa : Nat) : Nat := pa / 2 ^ 14

/-! ## Commands (R406 to R409) -/

/-- The entry of a row in the row-policy table (R406). -/
def rowEntry (bank row : Nat) : Nat := bank * 64 + h6 row

/-- A row's 2-bit counter; each is 2 at reset (R406). -/
def PChan.policyOf (x : PChan) (bank row : Nat) : Nat := AList.getD x.policy (rowEntry bank row) 2

/-- A request to a bank updates the counter of the row last opened there (R406). -/
def PChan.learn (x : PChan) (bank row : Nat) : PChan :=
  match AList.get? x.lastr bank with
  | none => x
  | some r =>
    let n := x.policyOf bank r
    { x with policy := AList.set x.policy (rowEntry bank r) (if r = row then min (n + 1) 3 else n - 1) }

/-- The commands of a controller (R407). -/
inductive DCmd where
  | refresh
  | rfm
  | activate
  | column
deriving DecidableEq, Repr

/-- The command of the demand at the head: a column access to its open row, or an activation first. -/
def PChan.demandCmd (x : PChan) (bank row : Nat) : DCmd := if AList.get? x.openr bank = some row then .column else .activate

/-- The next command of a pseudo-channel: the first row of the table of R407 that applies; an access that has opened its row completes
first (R409; log entry 107). -/
def PChan.nextCmd (x : PChan) : Option DCmd :=
  if x.warm && !x.dem.isEmpty then some .column
  else if x.debt = 8 then some .refresh
  else if !x.owed.isEmpty then some .rfm
  else match x.dem with
    | [] => if -8 < x.debt then some .refresh else none
    | (b, r) :: _ => some (x.demandCmd b r)

/-- Whether a command takes the column bus; the others take the row bus (R408). -/
def DCmd.onColumn : DCmd → Bool
  | .column => true
  | _ => false

/-- Denial count of a pseudo-channel on a bus. -/
def PChan.denied (x : PChan) (col : Bool) : Nat := if col then x.denyC else x.denyR
/-- Whether it received the last grant of a bus. -/
def PChan.had (x : PChan) (col : Bool) : Bool := if col then x.gotC else x.gotR

/-- Whether x is granted a bus that y also requests (R408). Every column command is to an open row, so its second rule decides
nothing between two requests of one bus; before any grant the even pseudo-channel goes first. -/
def grants (x y : PChan) (even : Bool) (col : Bool) : Bool :=
  if 16 ≤ x.denied col then true
  else if 16 ≤ y.denied col then false
  else if x.had col then false
  else if y.had col then true
  else even

/-- A bus granted to a pseudo-channel in a clk, in which it issues no other command. -/
def PChan.granted (x : PChan) (clk : Nat) (col : Bool) : PChan :=
  let x := { x with next := max x.next (clk + 1) }
  if col then { x with denyC := 0, gotC := true, busC := clk + 1 } else { x with denyR := 0, gotR := true, busR := clk + 1 }
/-- A bus granted to the other pseudo-channel; `asked` says that this one requested it. -/
def PChan.passed (x : PChan) (col asked : Bool) : PChan :=
  if col then { x with gotC := false, denyC := x.denyC + bit asked } else { x with gotR := false, denyR := x.denyR + bit asked }
/-- Whether a pseudo-channel has taken a bus in a clk. -/
def PChan.took (x : PChan) (clk : Nat) (col : Bool) : Bool := (if col then x.busC else x.busR) == clk + 1

/-- An activation of a row (R406, R409): the request is learnt, the row opens, its count rises, and at the threshold ALERT is
raised and an RFM is owed. -/
def PChan.activate (x : PChan) (th bank row : Nat) : PChan :=
  let conf := (AList.get? x.openr bank).isSome
  let x := if x.warm then x else x.learn bank row
  let k := 65536 * bank + row
  let n := AList.getD x.counts k 0 + 1
  let x := { x with
    act := x.act + 1, conf := if conf then x.conf + 1 else x.conf, openr := AList.set x.openr bank row, lastr := AList.set x.lastr bank row,
    counts := AList.set x.counts k n, warm := true }
  if n = th then { x with alrt := x.alrt + 1, owed := x.owed ++ [(bank, row)] } else x

/-- The column access of the demand at the head (R406): a row hit unless the demand opened the row; the row stays open if its counter
is 2 or 3. -/
def PChan.column (x : PChan) (bank row : Nat) : PChan :=
  let x := if x.warm then x else { x.learn bank row with hit := x.hit + 1 }
  { x with dem := x.dem.drop 1, warm := false, openr := if 2 ≤ x.policyOf bank row then x.openr else AList.erase x.openr bank }

/-- An all-bank refresh: every bank is precharged; tRFC is 840 clk (R407). -/
def PChan.doRefresh (x : PChan) (clk : Nat) : PChan :=
  { x with ref := x.ref + 1, debt := x.debt - 1, openr := [], next := clk + 840 }

/-- An RFM for the oldest ALERT: the row's count is 0; tRFM is 456 clk of back-off (R409). -/
def PChan.doRfm (x : PChan) (clk : Nat) : PChan :=
  match x.owed with
  | [] => x
  | (b, r) :: l =>
    { x with rfm := x.rfm + 1, boc := x.boc + 456, owed := l, counts := AList.set x.counts (65536 * b + r) 0,
             openr := [], next := clk + 456 }

/-- A controller's command performs. -/
def PChan.perform (x : PChan) (clk th : Nat) (c : DCmd) : PChan :=
  match c, x.dem with
  | .refresh, _ => x.doRefresh clk
  | .rfm, _ => x.doRfm clk
  | .activate, (b, r) :: _ => x.activate th b r
  | .column, (b, r) :: _ => x.column b r
  | _, [] => x

/-- The command that a pseudo-channel requests in a clk: none while a refresh or an RFM occupies it. -/
def PChan.wants (x : PChan) (clk : Nat) : Option DCmd := if clk < x.next then none else x.nextCmd

/-- The other pseudo-channel of a channel. -/
def twin (p : Nat) : Nat := if p % 2 = 0 then p + 1 else p - 1

/-- Whether a pseudo-channel's next command is due without fail: a demand, an RFM or a forced refresh waits (R407, R408). -/
def PChan.presses (x : PChan) : Bool := !x.dem.isEmpty || !x.owed.isEmpty || x.debt == 8

/-! ## What falls due by itself (R407, R408, R410) -/

/-- tREFI (R407). -/
def tRefi : Nat := 9360

/-- A pseudo-channel with every rise of REFDEBT up to a clk, since the last one or since its die came into service (R407). -/
def PChan.risen (x : PChan) (clk base : Nat) : PChan :=
  let start := max x.refdue base
  let n := (clk - start) / tRefi
  if n = 0 then x else { x with debt := min 8 (x.debt + n), refdue := start + n * tRefi }

/-- The clk in which a pseudo-channel without demand asks for its next refresh, `since` being that from which its channel has had no demand:
as soon as it may while REFDEBT is above -8, else with the next rise (R407). -/
def PChan.asks (x : PChan) (base since : Nat) : Nat :=
  let t := max x.next (max base since)
  let y := x.risen t base
  if -8 < y.debt then t else max y.refdue base + tRefi

/-- A refresh that is granted the row bus in a clk. -/
def PChan.refreshAt (x : PChan) (t base : Nat) : PChan := ((x.risen t base).granted t false).doRefresh t

/-- The next refresh of a channel without demand, if it falls before a clk (R407, R408): the even pseudo-channel first. -/
def pairStep (clk base : Nat) (p : PChan × PChan) : Option (PChan × PChan) :=
  let since := max (max p.1.busR p.1.busC) (max p.2.busR p.2.busC)
  let a := p.1.asks base since
  let b := p.2.asks base since
  if clk ≤ min a b then none
  else if a < b || (a == b && grants (p.1.risen a base) (p.2.risen a base) true false) then
    some (p.1.refreshAt a base, p.2.passed false (a == b))
  else some (p.1.passed false (a == b), p.2.refreshAt b base)

/-- At most n refreshes of a channel without demand. -/
def pairSteps : Nat → Nat → Nat → PChan × PChan → PChan × PChan
  | 0, _, _, p => p
  | n + 1, clk, base, p => match pairStep clk base p with
    | none => p
    | some p => pairSteps n clk base p

/-- A pseudo-channel at rest k periods of tREFI later: one refresh in each. -/
def PChan.shifted (x : PChan) (k base : Nat) : PChan :=
  { x with ref := x.ref + w64 k, refdue := max x.refdue base + k * tRefi, next := x.next + k * tRefi
           busR := x.busR + k * tRefi, busC := x.busC + k * tRefi }

/-- A channel without demand as of a clk: pulled-in refreshes down to REFDEBT -8, which takes fewer than 64, then one with each rise, in an
order that repeats. -/
def pairIdle (clk base : Nat) (p : PChan × PChan) : PChan × PChan :=
  let p := pairSteps 64 clk base p
  let since := max (max p.1.busR p.1.busC) (max p.2.busR p.2.busC)
  let k := (clk - min (p.1.asks base since) (p.2.asks base since)) / tRefi
  if k = 0 then p else pairSteps 4 clk base (p.1.shifted k base, p.2.shifted k base)

/-- The even and the odd pseudo-channel of a channel as of a clk, with every rise of REFDEBT and every refresh that has fallen due; while a
demand, an RFM or a forced refresh waits, commands are granted clk by clk and not here. -/
def pairNow (clk base : Nat) (p : PChan × PChan) : PChan × PChan :=
  let p := if p.1.presses || p.2.presses then p else pairIdle clk base p
  (p.1.risen clk base, p.2.risen clk base)

/-- The reads of a gleaner up to a clk, of granules without error, one every INTV clk (R410): `ahead` counts those before the first granule
with one. -/
def PChan.gleaned (x : PChan) (clk base intv cap : Nat) (ahead : Option Nat) : PChan :=
  let due := max x.gldue base
  if intv = 0 ∨ cap = 0 ∨ clk ≤ due then x
  else
    let k := (clk - 1 - due) / intv + 1
    let n := (ahead.map (min k)).getD k
    if n = 0 then x else { x with glnext := (x.glnext + n) % cap, gldue := due + n * intv }

end Sys2Proof.Machine
end

