-- ==== Sys2Proof/Machine/Address.lean ====
section
/-! DEFINITION. The address space: homes, page tables, leases, DRAM granules (R252 to R263, R404, R405). -/

namespace Sys2Proof.Machine

/-! ## Addresses (R252 to R254) -/

/-- An address: bits 56:0 of a va value (R71). -/
def addr (w : Word) : Nat := field w 0 57
/-- G. -/
def vaG (w : Word) : Bool := field w 56 1 == 1
/-- HOME of a G = 0 address. -/
def vaHome (w : Word) : Nat := field w 50 6
/-- DEV of a G = 1 address. -/
def vaDev (w : Word) : Nat := field w 46 10
/-- The G = 0 address that a G = 1 address stands for at module DEV (R253). -/
def vaLocal (w : Word) : Word := w64 (field w 40 6 * 2 ^ 50 + field w 0 40)

/-- Entry i of the home table (R389); 0 before it is first written. -/
def State.ht (s : State) (i : Nat) : Nat := field (s.mapWord (312 + i / 16)) (4 * (i % 16)) 4

/-- A memory die. -/
def State.mdie (s : State) (d : Nat) : MDie := AList.getD s.md d {}
/-- Setting a memory die. -/
def State.setMdie (s : State) (d : Nat) (c : MDie) : State := { s with md := AList.set s.md d c }
/-- Changing a memory die. -/
def State.onMdie (s : State) (d : Nat) (g : MDie → MDie) : State := s.setMdie d (g (s.mdie d))

/-- The dies that hold memory. -/
def memDies : List Nat := [8, 9, 10, 11]

/-- The die that owns a G = 0 device address: a cause, or the die; none while the request waits at the switch die (R253, R254,
R390). -/
def ownerOf (s : State) (va : Word) : Except Nat (Option Nat) :=
  let h := vaHome va
  let up (d : Nat) : Except Nat (Option Nat) :=
    if s.dieState d = 3 then .error 0x12 else if s.dieState d = 0 then .ok none else .ok (some d)
  if h < 4 then up (8 + h)
  else if h = 16 then
    let d := s.ht (h6 (field va 18 32))
    if memDies.contains d then up d else .ok none
  else .error 0x02

/-! ## Spoke modules (R389, R417) -/

/-- The map word of link l, numbered as LKSTATn (R389, R392). -/
def linkMix (l : Nat) : Nat := if l < 160 then 96 + l else if l < 192 then 256 + (l - 160) else 288

/-- The UCIe modules of a die (R389). -/
def dieLinks (d : Nat) : List Nat :=
  if d < 8 then (List.range 10).map (10 * d + ·) else if d < 12 then (List.range 20).map (80 + 20 * (d - 8) + ·) else []

/-- The live UCIe modules of a die, by link number. -/
def State.liveLinks (s : State) (d : Nat) : List Nat :=
  (dieLinks d).filter fun l => let st := field (s.mapWord (linkMix l)) 0 2; st == 1 || st == 2

/-- The UCIe module of a spoke that a request takes: n_sel := H6(VA[37:6]) mod n_live, of the live modules in ascending number
(R417); none while no module is live. -/
def State.nSel (s : State) (d : Nat) (va : Word) : Option Nat :=
  let l := s.liveLinks d
  l[h6 (field va 6 32) % l.length]?

/-- Whether the ADPHJ or FABEN bit of a job is set (R425, R428). -/
def jobBit (l : AList Word) (j : Nat) : Bool := field (AList.getD l (j / 64) 0) (j % 64) 1 == 1

/-- The address that an access names at its home module: a G = 1 address loses its module (R253). -/
def homeVa (va : Word) : Word := if vaG va then vaLocal va else va

/-- Whether a request is of groups 0xC, 0xD or 0xE. -/
def Req.isSys (r : Req) : Bool := match r.piece.acc with
  | .sys .. => true
  | _ => false

/-- A link. -/
def State.link (s : State) (l : Nat) : Link := AList.getD s.sw.links l {}

/-- The address by which R417 chooses a module: of a request of groups 0xC to 0xE its first operand. -/
def Piece.target (p : Piece) : Word := match p.acc with
  | .sys _ _ a _ _ => a
  | _ => p.va

/-- The die that a request of the module's own sets out from. -/
def Src.die : Src → Option Nat
  | .port t | .slot t _ | .chan t _ => some (tileDie t)
  | .outside => none

/-- Whether a request has still to cross a spoke (R388): that of the compute die it set out from, that of the memory die it is bound for,
or, with number 13, the scale-up links. A request that waits at the switch die for its home has crossed the first. -/
def State.crosses (s : State) (d : Nat) (r : Req) : Bool :=
  let home := ownerOf s (homeVa r.piece.va)
  r.loc.isNone && r.part.isNone &&
    (if d < 8 then r.src.die == some d && (r.isSys || vaG r.piece.va || !(home matches .ok none))
     else if d = 13 then !r.isSys && vaG r.piece.va && vaDev r.piece.va != s.sw.fabid
     else !r.isSys && (match home with
       | .ok (some e) => e == d
       | _ => false))

/-- Whether a spoke holds a request by its number: a module of it has been removed, and a request sent before that has still to be
delivered (R388). -/
def State.draining (s : State) (d id : Nat) : Bool :=
  s.sw.drains.any fun e => e.1 == d && decide (e.2 ≤ id) && s.net.any fun q => decide (q.id < e.2) && s.crosses d q

/-- Whether a spoke takes a request for an address: one of its modules is live, the one chosen sends, which it does not during a resync,
and the spoke does not hold the request (R388, R417, R421). -/
def State.spokeOpen (s : State) (d : Nat) (va : Word) (id : Nat) : Bool :=
  ((s.nSel d va).any fun l => (s.link l).sync.isNone) && !s.draining d id

/-- The scale-up link that a G = 1 access takes: j_sel := (DEV XOR H6(VA[39:6])) mod n_live, of the live links in ascending number
(R428); none while no link is live. -/
def State.jSel (s : State) (va : Word) : Option Nat :=
  let l := ((List.range 32).map (160 + ·)).filter fun l => let st := field (s.mapWord (linkMix l)) 0 2; st == 1 || st == 2
  l[(vaDev va ^^^ h6 (field va 6 34)) % l.length]?

/-- Whether a G = 1 access may leave: its scale-up link is live and sends flits, which it does not during a resync (R421, R428). -/
def fabricOpen (s : State) (va : Word) : Bool := (s.jSel va).any fun l => (s.link l).sync.isNone

/-- Whether a G = 1 request may leave: the scale-up links take it, and do not hold it (R388, R421, R428). -/
def State.fabricTakes (s : State) (r : Req) : Bool := fabricOpen s r.piece.va && !s.draining 13 r.id

/-! ## Physical addresses (R319, R405) -/

/-- The home slice of a physical address. -/
def sliceOf (pa : Nat) : Nat := nbits pa 12 2 * 32 + nbits pa 7 5
/-- The stack entry of the map for a physical address of a die. -/
def stackOf (d pa : Nat) : Nat := 4 * (d - 8) + nbits pa 12 2
/-- A channel that the map records as DEAD (R391). -/
def State.chanDead (s : State) (d pa : Nat) : Bool :=
  let w := s.mapWord (296 + stackOf d pa)
  field w 0 2 == 3 || field w (2 + nbits pa 7 5) 1 == 0
/-- The live capacity of a memory die in pages (R389). -/
def State.capOf (s : State) (d : Nat) : Nat := field (s.mapWord (296 + 4 * (d - 8))) 34 21

/-! ## Page tables (R256 to R258) -/

/-- Bits of a page by SIZE: 256 KiB, 64 MiB, 16 GiB, slab (R266). -/
def pageBits (size : Nat) : Nat := if size = 0 then 18 else if size = 2 then 34 else 26

/-- A signed field of 21 bits. -/
def stride21 (w : Word) (lo : Nat) : Int := bitsInt true 21 (field w lo 21)

/-- The physical page of page i of a slab (R258). -/
def slabPage (w0 w1 : Word) (i : Nat) : Int :=
  let n0 := field w0 30 8 + 1
  let n1 := field w0 38 8 + 1
  (field w0 0 30 : Int) + (i % n0 : Nat) * stride21 w1 0 + (i / n0 % n1 : Nat) * stride21 w1 21
    + (i / (n0 * n1) : Nat) * stride21 w1 42

/-- A translation: the physical address of a virtual address under a leaf or slab (R256, R258). -/
def xlate (size : Nat) (w2 w3 : Word) (va : Nat) : Nat :=
  if size = 3 then (slabPage w2 w3 (nbits va 18 8)).toNat * 2 ^ 18 + va % 2 ^ 18
  else field w2 11 37 * 2 ^ 11 + va % 2 ^ pageBits size

/-- What a walk ends in: a translation, or a page that is absent, malformed or beyond capacity with the entry that stopped it
(R257, R263). -/
inductive Walk where
  | ok (e : TlbEnt)
  | stop (reason : Nat) (entry : Word)
deriving DecidableEq, Repr

/-- R, W, X, A, HB of a page-table entry (R257, R266). -/
def ptePerm (e : Word) : Nat := field e 3 5

/-- The walk of one level after another (R256, R257); `shift` is the level's lowest index bit, `lv` the level. -/
def walkFrom (s : State) (d jid : Nat) (va : Nat) (cap : Nat) : Nat → Nat → Nat → Walk
  | 0, _, _ => .stop 1 0
  | fuel + 1, lv, table =>
    let shift := 42 - 8 * lv
    let e := s.readWord (hbmAddr (d - 8) (table + 8 * nbits va shift 8))
    let ty := field e 1 2
    let pa := field e 11 37 * 2 ^ 11
    let vp := va / 2 ^ shift * 2 ^ shift / 2 ^ 18
    let bad := Walk.stop 1 e
    if field e 0 1 = 0 then .stop 0 e
    else if field e 8 3 ≠ 0 ∨ field e 54 2 ≠ 0 ∨ ty = 3 then bad
    else if cap * 2 ^ 18 ≤ pa then .stop 2 e
    else match ty with
      | 0 => if lv = 3 ∨ field e 3 5 ≠ 0 ∨ field e 48 6 ≠ 0 then bad else walkFrom s d jid va cap fuel (lv + 1) pa
      | 1 =>
        let size := if lv = 3 then 0 else if lv = 2 then 1 else 2
        if lv = 0 ∨ field e 48 6 ≠ 0 ∨ pa % 2 ^ pageBits size ≠ 0 then bad
        else if cap * 2 ^ 18 < pa + 2 ^ pageBits size then .stop 2 e
        else .ok { jid := jid, size := size, perm := ptePerm e, vpage := vp, w2 := w64 pa, w3 := 0 }
      | _ =>
        if lv ≠ 2 then bad
        else
          let b := hbmAddr (d - 8) (pa + 32 * field e 48 6)
          let w0 := s.readWord b
          let w1 := s.readWord (b + 8)
          if field w0 46 18 ≠ 0 ∨ field w1 63 1 ≠ 0 ∨ s.readWord (b + 16) ≠ 0 ∨ s.readWord (b + 24) ≠ 0 then bad
          else if (List.range 256).any fun i => decide (slabPage w0 w1 i < 0) || decide ((cap : Int) ≤ slabPage w0 w1 i) then .stop 2 e
          else .ok { jid := jid, size := 3, perm := ptePerm e, vpage := vp, w2 := w0, w3 := w1 }

/-- The root of a job's tables for a domain at a die: placed, then interleaved (R256, R266). -/
def rootOf (s : State) (d jid : Nat) (inter : Bool) : Word :=
  s.readWord (hbmAddr (d - 8) (field (s.mdie d).jtbase 15 33 * 2 ^ 15 + 16 * jid + (if inter then 8 else 0)))

/-- A walk from the root; the index bits are those of VA[49:18] (R256). A walk that the root or an L0 entry stops has that word for
its paging record (log entry 142). -/
def walk (s : State) (d jid : Nat) (va : Word) : Walk :=
  let r := rootOf s d jid (vaHome va == 16)
  if field r 0 1 = 0 then .stop 0 r
  else match walkFrom s d jid (addr va % 2 ^ 50) (s.capOf d) 4 0 (field r 11 37 * 2 ^ 11) with
    | .ok e => .ok { e with vpage := addr va / 2 ^ pageBits e.size * 2 ^ pageBits e.size / 2 ^ 18 }
    | w => w

/-- Whether a page of a table covers an address of a job. -/
def covers (ejid size vpage jid va : Nat) : Bool :=
  ejid == jid && va / 2 ^ pageBits size == vpage * 2 ^ 18 / 2 ^ pageBits size

/-- The system TLB, else a walk, which fills it (R260); of more than 4096 fills the oldest goes (log entry 143). -/
def tlbLook (s : State) (d jid : Nat) (va : Word) : Walk × State :=
  match (s.mdie d).tlb.find? fun e => covers e.jid e.size e.vpage jid (addr va) with
  | some e => (.ok e, s)
  | none =>
    let s' := s.onMdie d fun c => { c with stwalk := c.stwalk + 1 }
    match walk s d jid va with
    | .ok e => (.ok e, s'.onMdie d fun c => { c with tlb := (e :: c.tlb).take 4096 })
    | w => (w, s')

/-! ## Leases (R259, R261) -/

/-- Whether a lease entry covers an address of a job. -/
def LEnt.covers (e : LEnt) (jid va : Nat) : Bool := Machine.covers e.jid e.size e.vpage jid va

/-- The lease entry of a job that pins an address: LCNT + ECNT > 0 (R259). -/
def MDie.leaseOf (c : MDie) (jid va : Nat) : Option (Nat × LEnt) :=
  c.lt.find? fun e => e.2.covers jid va && decide (0 < e.2.lcnt + e.2.ecnt)

/-- What an access needs of its page (R257, R259). -/
inductive Need where
  | r | w | x | aw | rw
deriving DecidableEq, Repr

/-- Whether PERM grants it: bits R, W, X, A. -/
def Need.ok (n : Need) (p : Nat) : Bool :=
  match n with
  | .r => nbits p 0 1 == 1
  | .w => nbits p 1 1 == 1
  | .x => nbits p 2 1 == 1
  | .aw => nbits p 3 1 == 1 && nbits p 1 1 == 1
  | .rw => nbits p 0 1 == 1 && nbits p 1 1 == 1

/-- Translation and lease check of an access at its owning die: a cause, or the physical address with the lease entry (R259,
R391). -/
def leaseCheck (s : State) (d jid : Nat) (va : Word) (n : Need) : Except Nat (Nat × LEnt) :=
  match (s.mdie d).leaseOf jid (addr va) with
  | none => .error 0x01
  | some (_, e) =>
    if !n.ok e.perm then .error 0x03
    else
      let pa := xlate e.size e.w2 e.w3 (addr va)
      if s.chanDead d pa then .error 0x12 else .ok (pa, e)

/-- LTFLT counts the lease and permission faults that a die raises (R266). -/
def countFault (s : State) (d cause : Nat) : State :=
  if cause = 0x01 ∨ cause = 0x03 then s.onMdie d fun c => { c with ltflt := c.ltflt + 1 } else s

/-! ## DRAM granules (R404, R410) -/

/-- Whether a granule is uncorrectable. -/
def State.granBad (s : State) (d pa : Nat) : Bool := (s.mdie d).ue.contains (granule pa)

/-- A write of bytes inside one granule: a whole granule takes fresh ECC; a partial write leaves an uncorrectable granule so, and
writes a correctable one back whole (R404, R410). -/
def State.dramWrite (s : State) (d pa : Nat) (bs : List Byte) : State :=
  let s := s.writeBytes (hbmAddr (d - 8) pa) bs
  let g := granule pa
  s.onMdie d fun c => { c with
    ue := if bs.length = 64 then c.ue.filter (· != g) else c.ue
    ce := c.ce.filter (· != g) }

/-- Writing one 8-byte word. -/
def State.dramWord (s : State) (d pa : Nat) (w : Word) : State := s.dramWrite d pa (toBytes 8 w.toNat)

/-- Reading one 8-byte word. -/
def State.dramGet (s : State) (d pa : Nat) : Word := s.readWord (hbmAddr (d - 8) pa)

/-! ## Pseudo-channels (R404 to R410) -/

/-- A pseudo-channel. -/
def MDie.pc (c : MDie) (p : Nat) : PChan := AList.getD c.pcs p {}

/-- How many granules without error the gleaner of a pseudo-channel reads before one with an error; none where its live capacity holds
none (R410). -/
def MDie.glAhead (c : MDie) (p next cap : Nat) : Option Nat :=
  (((c.ue ++ c.ce).filter fun g => pcOf g == p && decide (granuleNo g < cap)).map fun g => (granuleNo g + cap - next % cap) % cap).min?

/-- The granules of a pseudo-channel in live capacity (R405). -/
def State.pcCap (s : State) (d : Nat) : Nat := 16 * s.capOf d

/-- A pseudo-channel as of now, with the refreshes and the gleaner's reads that have fallen due; a die that is not in service has none. -/
def State.pcNow (s : State) (d p : Nat) : PChan :=
  let c := s.mdie d
  if !s.dieUp d then c.pc p
  else
    let e := p / 2 * 2
    let now := pairNow s.clk c.rbase (c.pc e, c.pc (e + 1))
    let x := if p = e then now.1 else now.2
    x.gleaned s.clk c.rbase c.glintv (s.pcCap d) (c.glAhead p x.glnext (s.pcCap d))

/-- The registers of a channel take up what has fallen due. -/
def State.catchPc (s : State) (d p : Nat) : State :=
  let x := s.pcNow d p
  let y := s.pcNow d (twin p)
  let set (c : MDie) (p : Nat) (x : PChan) : MDie := if x = c.pc p then c else { c with pcs := AList.set c.pcs p x }
  if x = (s.mdie d).pc p ∧ y = (s.mdie d).pc (twin p) then s else s.onMdie d fun c => set (set c p x) (twin p) y

/-- Every pseudo-channel of a die takes up what has fallen due. -/
def State.catchAll (s : State) (d : Nat) : State := (List.range 128).foldl (fun (s : State) n => s.catchPc d (2 * n)) s

/-- Changing a pseudo-channel, as it stands now. -/
def State.onPc (s : State) (d p : Nat) (g : PChan → PChan) : State :=
  (s.catchPc d p).onMdie d fun c => { c with pcs := AList.set c.pcs p (g (c.pc p)) }

/-- A command of a demand access is queued at its pseudo-channel (R407). -/
def State.demand (s : State) (d pa : Nat) : State :=
  s.onPc d (pcOf pa) fun p => { p with dem := p.dem ++ [(nbits pa 18 4, nbits pa 22 16)] }

/-- A home slice. -/
def MDie.slice (c : MDie) (n : Nat) : Slice := AList.getD c.slices n {}
/-- Changing a home slice. -/
def State.onSlice (s : State) (d n : Nat) (g : Slice → Slice) : State :=
  s.onMdie d fun c => { c with slices := AList.set c.slices n (g (c.slice n)) }

/-- A modified granule that leaves the atomic buffer is written back whole: a demand write, which writes fresh ECC (R321, R404, R410). -/
def State.abBack (s : State) (d g : Nat) : State :=
  (s.onMdie d fun c => { c with ue := c.ue.filter (· != g), ce := c.ce.filter (· != g) }).demand d g

/-- Whether the atomic buffer of a slice holds the granule of a physical address. -/
def State.abHas (s : State) (d pa : Nat) : Bool := ((s.mdie d).slice (sliceOf pa)).ab.any fun e => e.1 == granule pa

/-- Whether an access at the slice finds the granule uncorrectable: in DRAM it is, and the slice's buffer, which belongs to the home, does
not hold it (R301, R321, R404; log entry 125). -/
def State.abBad (s : State) (d pa : Nat) : Bool := s.granBad d pa && !s.abHas d pa

/-- An atomic's granule in the atomic buffer: a hit makes it the most recently used; a miss reads it from DRAM, the least recently used
of 64 having been evicted, and written back first if it is modified. `mod` tells whether the atomic modifies the granule (R321). -/
def State.abTouch (s : State) (d pa : Nat) (mod : Bool) : State :=
  let n := sliceOf pa
  let g := granule pa
  let ab := ((s.mdie d).slice n).ab
  match ab.find? fun e => e.1 == g with
  | some e => s.onSlice d n fun x => { x with ab := x.ab.filter (fun e => e.1 != g) ++ [(g, e.2 || mod)] }
  | none =>
    let out := ab.take (ab.length + 1 - 64)
    let s := (out.filter (·.2)).foldl (fun (s : State) e => s.abBack d e.1) s
    (s.onSlice d n fun x => { x with ab := (x.ab ++ [(g, mod)]).drop (x.ab.length + 1 - 64) }).demand d pa

end Sys2Proof.Machine
end

