-- ==== Sys2Proof/Machine/Blocks.lean ====
section
/-! DEFINITION. Blocks as they lie in memory and the checks of the configuration loader (R42 to R55, R120, R145, R208, R225,
R279). -/

namespace Sys2Proof.Machine

/-- One bit step of CRC-32C in reflected form (R45). -/
def crcBit (x : Nat) : Nat := if x % 2 = 1 then (x / 2) ^^^ 0x82F63B78 else x / 2

/-- n bit steps. -/
def crcBits : Nat → Nat → Nat
  | 0, x => x
  | n + 1, x => crcBits n (crcBit x)

/-- CRC-32C of bytes in increasing address order, with the parameters of R45. -/
def crc32c (bs : List Byte) : Nat :=
  (bs.foldl (fun x b => crcBits 8 (x ^^^ b.toNat)) 0xFFFFFFFF) ^^^ 0xFFFFFFFF

/-- Why the loader refuses a block (R55): the cause, the instruction index that the record names, and the computed CRC of a
digest fault. -/
structure BlockFault where
  cause : Nat
  ix    : Nat
  crc   : Nat := 0
deriving DecidableEq, Repr

/-- The instruction count of a header (R44). -/
def hdrNi (h : Nat) : Nat := nbits h 109 7 + 1
/-- NK of a header. -/
def hdrNk (h : Nat) : Nat := nbits h 94 7
/-- The length in bytes of the block of a header (R43). -/
def hdrLen (h : Nat) : Nat := 16 + 8 * hdrNi h + 8 * hdrNk h

/-- The checks of the header alone (R55, steps 1 to 6). -/
def hdrFault (h gbn : Nat) (sysJob : Bool) : Option BlockFault :=
  let bad (c : Nat) : Option BlockFault := some { cause := c, ix := 0 }
  if nbits h 120 8 != 0xB7 then bad 0x14
  else if nbits h 116 4 != 1 then bad 0x14
  else if nbits h 92 2 == 3 || decide (128 < nbits h 101 8) || decide (64 < hdrNk h) then bad 0x14
  else if nbits h 64 24 != 0 || nbits h 0 16 != 0 then bad 0x14
  else if nbits h 16 16 != gbn then bad 0x14
  else if nbits h 89 1 == 1 && !sysJob then bad 0x11
  else none

/-- The lane width of a code (R44). -/
def lwOf (code : Nat) : Nat := if code = 0 then 1 else if code = 1 then 8 else 32

/-- The 64-bit words of bytes. -/
def wordsOf : List Byte → Nat → List Word
  | _, 0 => []
  | bs, n + 1 => w64 (ofBytes (bs.take 8)) :: wordsOf (bs.drop 8) n

/-- A block from its header and the bytes after it (R43, R44). -/
def blockOf (h : Nat) (body : List Byte) : Block :=
  { ns := nbits h 101 8, lw := lwOf (nbits h 92 2), pri := nbits h 90 2, sys := nbits h 89 1 == 1, strm := nbits h 88 1 == 1,
    gbn := nbits h 16 16, digest := nbits h 32 32, words := wordsOf body (hdrNi h),
    consts := wordsOf (body.drop (8 * hdrNi h)) (hdrNk h) }

/-- AR of a raw word. -/
def rawAr (w : Word) : Nat := field w 46 2

/-- A destination may receive n tokens at consecutive ports: its instruction exists and has that many ports (R50). -/
def destIn (b : Block) (d : Option Dest) (n : Nat) : Bool :=
  match d with
  | none => true
  | some d => match b.words[d.ix.toNat]? with
    | none => false
    | some w => decide (d.port.toNat + n ≤ rawAr w)

/-- How many constants from CK on a word uses: KC's, and the other uses that the chapters name (R49, R145, R208, R225). -/
def ckCount (op : Nat) (f : Fields) : Nat :=
  let kc := bit f.kc
  match op with
  | 0x07 | 0x0A | 0x0E | 0xA1 | 0xB8 | 0xB9 => 1
  | 0x43 => if f.sub == 4 then 1 else 0
  | 0x44 => if f.sub == 4 then (if f.kc then 2 else 1) else kc
  | 0x68 => if xbits f.x 0 3 == 4 then 1 else 0
  | 0x69 => xbits f.x 7 3 + 1
  | 0x6A => 6
  | 0x70 => sopNpw f.sub.toNat
  | _ => kc

/-- Whether a word is a streaming node or REGION (R46). -/
def isStreaming (op : Nat) (f : Fields) : Bool := op == 0x96 || (0x90 ≤ op && op < 0x96 && xbits f.x 1 2 == 1)

/-- Whether a word is a chained node of groups 0x9 or 0xB (R51). -/
def seqOf (op : Nat) (f : Fields) : Nat := if (0x90 ≤ op && op < 0x98) || (0xB0 ≤ op && op < 0xBF) then xbits f.x 3 7 else 0

/-- The chain positions of a chain in a block, by index. -/
def chainSeqs (b : Block) (ch : Nat) : List (Nat × Nat) :=
  (List.range b.words.length).filterMap fun ix =>
    match b.fields? ix with
    | some (op, f) => if seqOf op f != 0 && xbits f.x 10 2 == ch then some (ix, seqOf op f) else none
    | none => none

/-- A chained node's position is used once in the block, and the position before it is used (R279). The word at fault is the second
user of a position, or the one whose preceding position no word has; a word that does not decode uses none (log entry 104). -/
def chainOk (b : Block) (ix : Nat) (op : Nat) (f : Fields) : Bool :=
  let s := seqOf op f
  if s = 0 then true
  else
    let l := chainSeqs b (xbits f.x 10 2)
    !(l.any fun p => p.2 == s && decide (p.1 < ix)) && (s == 1 || l.any fun p => p.2 + 1 == s)

/-- The checks of one word that need the rest of its block (R46, R49, R50, R279). -/
def wordInBlock (b : Block) (ix op : Nat) (f : Fields) : Bool :=
  let k := ckCount op f
  (decide (f.ar.toNat < 2) || decide (f.sl.toNat + f.ar.toNat ≤ b.ns + 1))
    && (k == 0 || decide (f.ck.toNat + k ≤ b.consts.length))
    && destIn b f.d0 (if op == 0x09 then f.ar.toNat else 1) && destIn b f.d1 1
    && (op != 0x01 || destIn b ((decodeDest (xbits f.x 0 10)).join) 1)
    && (b.strm || !isStreaming op f)
    && chainOk b ix op f

/-- The first check that a word of a block fails (R55, steps 8 to 10). -/
def wordCause (b : Block) (ix : Nat) (w : Word) : Option Nat :=
  if !assigned (opOf w) then some 0x0A
  else if isSystemOp (opOf w) && !b.sys then some 0x11
  else match decode w with
    | .error _ => some 0x0A
    | .ok i => match i.word? with
      | some (op, f) => if wordInBlock b ix op f then none else some 0x0A
      | none => some 0x0A

/-- The first word of a block that fails, in ascending index. -/
def wordsFault (b : Block) : Option BlockFault :=
  b.words.zipIdx.findSome? fun p => (wordCause b p.2 p.1).map fun c => { cause := c, ix := p.2 }

/-- The checks of a whole block in the order of R55; the first that fails is reported. -/
def checkBlock (h : Nat) (body : List Byte) (gbn : Nat) (sysJob : Bool) : Except BlockFault Block :=
  match hdrFault h gbn sysJob with
  | some e => .error e
  | none =>
    let crc := crc32c body
    if crc != nbits h 32 32 then .error { cause := 0x0B, ix := 0, crc := crc }
    else
      let b := blockOf h body
      match wordsFault b with
      | some e => .error e
      | none => .ok b

end Sys2Proof.Machine
end

