-- ==== Sys2Proof/Machine/Ports.lean ====
section
/-! DEFINITION. The memory port: memory nodes, ARG, the home-slice operations of group 0xB as they issue, chains, streaming regions,
FENCE and WAITC, replies (R135, R273 to R290, R305 to R315, R322 to R324, R373, R412). -/

namespace Sys2Proof.Machine

/-! ## Fields and chains (R51, R278) -/

/-- CLS of a memory node. -/
def memCls (f : Fields) : Nat := xbits f.x 1 2
/-- CH of a memory node. -/
def memCh (f : Fields) : Nat := xbits f.x 10 2
/-- D of a memory node. -/
def memD (f : Fields) : Bool := xbits f.x 0 1 == 1

/-- NEXT advances to SEQ on the lanes of a chained node (R278). -/
def State.chainAdvance (s : State) (fr : Firing) (op : Nat) (f : Fields) : State :=
  if seqOf op f = 0 then s
  else s.onFrame fr.tile fr.fi fun x => { x with
    chain := (lanesOf fr).foldl (fun (l : AList Nat) i => AList.set l (memCh f * 32 + (fr.lb + i)) (seqOf op f)) x.chain }

/-- The job of a firing; 0 where no region covers its context slot. -/
def State.jidOf (s : State) (fr : Firing) : Nat := (s.jobOf fr).getD 0

/-- The place of one lane of a firing (w1 of R370). -/
def Firing.place (fr : Firing) (port lane : Nat) : Word :=
  placeWord fr.tile fr.ctx fr.fi fr.blk fr.ix port (fr.lb + lane)

/-! ## The end of an operation at the port -/

/-- The failure that stands for all: the one of the lowest lane or row. -/
def MemOp.firstErr (o : MemOp) : Option (Nat × Nat × Nat × Word × Word) :=
  leastBy (fun a b => decide (a.1 < b.1)) o.errs

/-- The failure of a lane. -/
def MemOp.errAt (o : MemOp) (i : Nat) : Option (Nat × Nat × Nat × Word × Word) := o.errs.find? fun e => e.1 == i

/-- The lowest lane of the range of consecutive lanes that fail with one cause (R116). -/
def MemOp.rangeLow (o : MemOp) : Nat → Nat
  | 0 => 0
  | i + 1 => if (o.errAt i).map (·.2.1) = (o.errAt (i + 1)).map (·.2.1) then o.rangeLow i else i + 1

/-- The record that a failing lane defers (R116, R289). -/
def MemOp.record (o : MemOp) (i : Nat) : PRec :=
  match o.errAt (o.rangeLow i) with
  | some e => poisonOf o.firing e.2.1 0 (o.firing.lb + o.rangeLow i) e.2.2.2.1
  | none => poisonOf o.firing 0 0 (o.firing.lb + i) 0

/-- A value that LD has read, written at its type (R71, R289). -/
def loaded (ty : Ty) : LVal → LVal
  | .runv v => .runv (writeN ty v.toNat)
  | v => v

/-- The two outputs of one lane: LD writes its value at TY (R289); both destinations of ARG receive its value (R120). -/
def MemOp.laneOut (o : MemOp) (i : Nat) : LVal × LVal :=
  match o.errAt i with
  | some _ => (.pois (o.record i), .pois (o.record i))
  | none =>
    let p := ((o.vals.find? fun v => v.1 == i).map (·.2)).getD (.dn, .dn)
    if o.op == 0x0D then (p.1, p.1) else if o.op == 0x90 then (loaded o.f.ty p.1, p.2) else p

/-- Whether an operation is a tile node. -/
def isTileNode (op : Nat) : Bool := 0x92 ≤ op && op ≤ 0x95

/-- Whether a failing lane or row of an operation is deferred (R286, R289). -/
def MemOp.defers (o : MemOp) : Bool := (o.op == 0x90 || o.op == 0x92 || o.op == 0x94) && memD o.f

/-- The data buffer of a tile node. -/
def MemOp.buf (s : State) (o : MemOp) : Buf := bufOf s (tileDie o.firing.tile) (o.firing.handles.headD 0)

/-- The outputs of a tile node that has not failed: the buffer's handle, and done or the index handle (R290). -/
def tileNodeOut (s : State) (o : MemOp) : State :=
  let die := tileDie o.firing.tile
  let d1 : LVal := match o.firing.handles[1]? with
    | some h => .hand (rehandle s die h)
    | none => .dn
  (s.emit1 o.firing o.f.d0 0 (.hand (rehandle s die (o.firing.handles.headD 0)))).emit1 o.firing o.f.d1 0 d1

/-- XRED.ADD: its first output leaves when its buffer has been read, not at its end (R433). -/
def MemOp.isXadd (o : MemOp) : Bool := o.op == 0xD4 && o.f.sub == 1

/-- An operation whose last reply has arrived emits its outputs; one that has taken its fault emits nothing (R286, R289, R290, R324). A
tile node that defers marks its buffer with the record of its first failing row, which names port b and lane 0 (R286). -/
def memOut (s : State) (o : MemOp) : State :=
  match o.firstErr with
  | some (_, cause, _, va, _) =>
    if o.defers then
      if isTileNode o.op then
        let b := o.buf s
        tileNodeOut (s.taint b.m b.d (poisonOf o.firing cause 1 0 va)) o
      else
        let outs := (lanesOf o.firing).map fun i => o.laneOut i
        (s.emit o.firing o.f.d0 o.firing.lb (outs.map fun p => some p.1)).emit o.firing o.f.d1 o.firing.lb
          (outs.map fun p => some p.2)
    else if isTileNode o.op then s.releaseOps o.firing else s
  | none =>
    if isTileNode o.op then tileNodeOut s o
    else
      let outs := (lanesOf o.firing).map fun i => o.laneOut i
      (s.emit o.firing o.f.d0 o.firing.lb (outs.map fun p => if o.isXadd && p.1.handle?.isNone then none else some p.1)).emit o.firing o.f.d1 o.firing.lb
        (outs.map fun p => some p.2)

/-- An operation by its number. -/
def CTile.mop? (c : CTile) (id : Nat) : Option MemOp := c.mops.find? fun o => o.id == id

/-- Changing an operation. -/
def CTile.onMop (c : CTile) (id : Nat) (g : MemOp → MemOp) : CTile :=
  { c with mops := c.mops.map fun o => if o.id == id then g o else o }

/-- The operation leaves the port once nothing of it is left to send or to come: an ordered-update node advances its chain, its
counter falls, its outputs leave (R277, R278). -/
def memSettle (s : State) (t id : Nat) : State :=
  match (s.tile t).mop? id with
  | none => s
  | some o =>
    if !o.pieces.isEmpty || o.out != 0 || !o.land.isEmpty then s
    else
      let s := s.onTile t fun c => { c with mops := c.mops.filter fun p => p.id != id }
      let s := if memCls o.f = 2 then s.chainAdvance o.firing o.op o.f else s
      let s := match o.cnt with
        | some c => s.uncount o.firing c
        | none => s
      memOut s o

/-- The fault of an operation that does not defer, as its first failure is found (R286, R289, R324; log entry 124). -/
def memRaise (s : State) (o : MemOp) : State :=
  match o.firstErr with
  | some (i, cause, port, va, w5) =>
    if o.defers then s
    else s.raise o.firing { cause := cause, port := port, lane := if isTileNode o.op then 0 else i, va := va, extra := w5 }
  | none => s

/-- An operation enters the port's issue list and counts in its frame (R273, R277); a failure that its issue has found is raised. With no
request to send, its chain advances and it ends at once. -/
def memStart (s : State) (o : MemOp) : State :=
  let o := { o with id := s.opno, jid := s.jidOf o.firing }
  let s := { s with opno := s.opno + 1 }
  let s := match o.cnt with
    | some c => s.count o.firing c
    | none => s
  let s := memRaise (s.onTile o.firing.tile fun c => { c with mops := c.mops ++ [o] }) o
  if o.pieces.isEmpty then memSettle (s.chainAdvance o.firing o.op o.f) o.firing.tile o.id else s

/-- The serials of the operations that a frame has outstanding (R305). -/
def State.issuedBefore (s : State) (fr : Firing) : List Nat := ((s.frameOf fr).map fun x => x.outl.map (·.1)).getD []

/-! ## LD, ST, ARG (R135, R273, R283, R289) -/

/-- Adding an element to the group of its key. -/
def addKey {α : Type} (k : Nat) (x : α) : List (Nat × List α) → List (Nat × List α)
  | [] => [(k, [x])]
  | (k', l) :: r => if k' = k then (k', l ++ [x]) :: r else (k', l) :: addKey k x r

/-- Grouping by key, groups in the order of their first elements. -/
def groupBy {α : Type} (key : α → Nat) (l : List α) : List (Nat × List α) := l.foldl (fun acc x => addKey (key x) x acc) []

/-- Bytes of a type in memory; an address takes 8 (R48, R274). -/
def tyBytes (ty : Ty) : Nat := ceilDiv ty.width 8

/-- Serving a streaming lane from its slot (R283): a hit yields the value and retires the lines fetched before the one hit; a miss
is counted at the open slot of the context and chain. -/
def streamServe (s : State) (fr : Firing) (f : Fields) (va n : Nat) : Option Nat × State :=
  let c := s.tile fr.tile
  match c.slots.find? fun p => p.2.valid && p.2.ctx == fr.ctx && p.2.ch == memCh f with
  | none => (none, s)
  | some (k, sl) =>
    let line := granule va
    match sl.lines.zipIdx.find? fun l => addr l.1.va == line && l.1.bytes.isSome && !l.1.bad with
    | none => (none, s.onTile fr.tile fun c => { c with slots := AList.set c.slots k { sl with misses := (sl.misses + 1) % 2 ^ 32 } })
    | some (l, i) =>
      let v := ofBytes (((l.bytes.getD []).drop (va - line)).take n)
      (some v, s.onTile fr.tile fun c => { c with
        slots := AList.set c.slots k { sl with lines := sl.lines.drop i, hits := (sl.hits + 1) % 2 ^ 32 } })

/-- What a lane of LD does on its way: a value, a poison, a failure, or a place in a request. -/
structure LoadPlan where
  vals : List (Nat × LVal × LVal) := []
  errs : List (Nat × Nat × Nat × Word × Word) := []
  todo : List (Nat × Word × Nat) := []
deriving DecidableEq, Repr

/-- One lane of LD, in ascending order (R283, R289). -/
def planLoad (fr : Firing) (f : Fields) (acc : LoadPlan × State) (i : Nat) : LoadPlan × State :=
  let (p, s) := acc
  match poisonAt fr.ops i with
  | some r => ({ p with vals := p.vals ++ [(i, .pois r, .pois r)] }, s)
  | none =>
    let va := addr (opAt fr.ops 0 i).word
    let n := tyBytes f.ty
    if va % n ≠ 0 then ({ p with errs := p.errs ++ [(i, 0x04, 0, w64 va, 0)] }, s)
    else
      match if memCls f = 1 then streamServe s fr f va n else (none, s) with
      | (some v, s) => ({ p with vals := p.vals ++ [(i, .runv (writeN f.ty v), .dn)] }, s)
      | (none, s) => ({ p with todo := p.todo ++ [(i, w64 va, n)] }, s)

/-- Loads of lanes as requests, one for each granule (R273). -/
def loadPieces (l : List (Nat × Word × Nat)) : List Piece :=
  (groupBy (fun e => granule (addr e.2.1)) l).map fun g =>
    { va := w64 g.1, acc := .loads g.2, lane := (g.2.head?.map (·.1)).getD 0 }

/-- LD (R289). -/
def runLd (f : Fields) (s : State) : State :=
  withFiring s fun fr s =>
    let (p, s) := (lanesOf fr).foldl (planLoad fr f) (({} : LoadPlan), s)
    memStart (s.releaseOps fr)
      { id := 0, firing := fr, f := f, op := 0x90, jid := 0, pieces := loadPieces p.todo, vals := p.vals, errs := p.errs, cnt := some .old }

/-- The launch of a unit. -/
def State.launchOf (s : State) (u : UnitId) : Option Launch :=
  s.sw.launch.find? fun l => l.queue == u.queue && l.entry == u.entry

/-- Word k of a card. -/
def Launch.word (l : Launch) (k : Nat) : Word := l.card.getD k 0

/-- ARG (R135): word X[5:0] of each lane's argument record, as random loads. -/
def runArg (f : Fields) (s : State) : State :=
  withFiring s fun fr s =>
    match s.frameOf fr with
    | none => s
    | some x =>
      let rs := ((s.launchOf x.unit).map fun l => field (l.word 2) 0 16).getD 0
      let vas := (lanesOf fr).map fun i => (i, addr (w64 (x.argp.toNat + (fr.lb + i) * rs + 8 * xbits f.x 0 6)))
      let bad := vas.filter fun p => p.2 % 8 != 0
      let ok := vas.filter fun p => p.2 % 8 == 0
      memStart s
        { id := 0, firing := fr, f := f, op := 0x0D, jid := 0, pieces := loadPieces (ok.map fun p => (p.1, w64 p.2, 8)),
          errs := bad.map fun p => (p.1, 0x04, 3, w64 p.2, 0), cnt := some .old }

/-- Stores of lanes as requests (R273); within a request the lanes write in ascending order, so a higher lane stands (R289). -/
def storePieces (l : List (Nat × Word × List Byte)) : List Piece :=
  (groupBy (fun e => granule (addr e.2.1)) l).map fun g =>
    { va := w64 g.1, acc := .stores g.2, lane := (g.2.head?.map (·.1)).getD 0 }

/-- ST (R289). -/
def runSt (f : Fields) (s : State) : State :=
  withFiring s fun fr s =>
    match firstPoison fr with
    | some (l, p, r) => (s.releaseOps fr).raisePoison fr p l r
    | none =>
      let n := tyBytes f.ty
      let all := (lanesOf fr).map fun i => (i, addr (opAt fr.ops 0 i).word, toBytes n (laneWord s fr f 1 i).toNat)
      let bad := all.filter fun e => e.2.1 % n != 0
      let ok := (all.filter fun e => e.2.1 % n == 0).map fun e => (e.1, w64 e.2.1, e.2.2)
      memStart (s.releaseOps fr)
        { id := 0, firing := fr, f := f, op := 0x91, jid := 0, pieces := storePieces ok,
          errs := bad.map fun e => (e.1, 0x04, 0, w64 e.2.1, 0), cnt := some .ost }

/-! ## LDT, STT, LDG, STG (R285, R286) -/

/-- The cuts of n bytes at an address into pieces that each lie in one granule: (offset, bytes). -/
def cuts : Nat → Nat → Nat → Nat → List (Nat × Nat)
  | 0, _, _, _ => []
  | k + 1, va, off, n =>
    if n = 0 then []
    else
      let m := min n (64 - va % 64)
      (off, m) :: cuts k (va + m) (off + m) (n - m)

/-- The pieces of one row at an address, for a load or a store (R273). -/
def rowPieces (load : Bool) (row va n : Nat) : List Piece :=
  (cuts (n / 64 + 2) va 0 n).map fun p =>
    { va := w64 ((va + p.1) % 2 ^ 57), acc := if load then .readRow p.2 else .writeRow (List.replicate p.2 0), row := row, off := p.1 }

/-- The address of each row of a buffer laid out by base and pitch; wraps modulo 2^57. -/
def pitchRows (b : Buf) (base pitch : Nat) : List (Nat × Nat) :=
  (List.range b.rows).map fun r => (r, (base + r * pitch) % 2 ^ 57)

/-- The limits of R286 on base and pitch: the port at fault with the address, if one is broken. -/
def pitchFault (f : Fields) (b : Buf) (base : Word) (pitch : Word) : Option Err :=
  if addr base % 16 ≠ 0 then some { cause := 0x04, port := 1, va := w64 (addr base) }
  else if pitch.toNat % 16 ≠ 0 ∨ pitch.toNat < rowBytes b.x.shape ∨ 2 ^ 32 ≤ pitch.toNat then
    some { cause := 0x04, port := constPort f 2 }
  else none

/-- Starting a tile node over its rows; an index that is no multiple of 16 fails its row (R286). -/
def tileStart (s : State) (fr : Firing) (f : Fields) (op : Nat) (b : Buf) (rows : List (Nat × Option Nat)) : State :=
  let load := op == 0x92 || op == 0x94
  memStart s
    { id := 0, firing := fr, f := f, op := op, jid := 0,
      pieces := rows.flatMap fun r => match r.2 with
        | some va => rowPieces load r.1 va (rowBytes b.x.shape)
        | none => []
      errs := rows.filterMap fun r => if r.2.isNone then some (r.1, 0x04, 1, 0, 0) else none
      cnt := some (if load then .old else .ost)
      row0 := w64 (((rows.head?.bind (·.2))).getD 0) }

/-- LDT and STT (R285, R286, R290). -/
def runTileNode (op : Nat) (load : Bool) (f : Fields) (s : State) : State :=
  withFiring s fun fr s =>
    match firstPoison fr with
    | some (l, p, r) =>
      if load then (poisonLane s fr f 0 r).chainAdvance fr op f else (s.releaseOps fr).raisePoison fr p l r
    | none =>
      withHandle s fr 0 0 true load fun h =>
        let b := bufOf s (tileDie fr.tile) h
        let base := laneWord s fr f 1 0
        let pitch := laneWord s fr f 2 0
        match pitchFault f b base pitch with
        | some e => failLane s fr 0 e
        | none => tileStart s fr f op b ((pitchRows b (addr base) pitch.toNat).map fun r => (r.1, some r.2))

/-- Element r of an index buffer as an address offset, if it is a multiple of 16 (R285, R286). -/
def indexOff (s : State) (x : Buf) (r : Nat) : Option Int :=
  let v := elemI x.fmt (listElem s x r)
  if v % 16 = 0 then some v else none

/-- LDG and STG (R285, R286, R290, R373). A poisoned index buffer delivers poison to LDG, whose outputs are then poison. -/
def runGather (op : Nat) (load : Bool) (f : Fields) (s : State) : State :=
  withFiring s fun fr s =>
    match firstPoison fr with
    | some (l, p, r) =>
      if load then (poisonLane s fr f 0 r).chainAdvance fr op f else (s.releaseOps fr).raisePoison fr p l r
    | none =>
      withHandle s fr 0 0 true load fun h => withHandle s fr 1 0 true false fun hx =>
        let die := tileDie fr.tile
        let b := bufOf s die h
        let x := bufOf s die hx
        let base := laneWord s fr f 2 0
        if addr base % 16 ≠ 0 then failLane s fr 0 { cause := 0x04, port := constPort f 2, va := w64 (addr base) }
        else if !idxOk x b.rows then failLane s fr 0 { cause := 0x04, port := 1 }
        else
          let s := s.touch x.m x.d (x.x.rowOff 0) (x.rows * tPitch x.x.shape)
          let rows := (List.range b.rows).map fun r =>
            (r, (indexOff s x r).map fun v => ((addr base + v) % 2 ^ 57).toNat)
          match (s.mtile x.m).poison? x.d with
          | some r =>
            if load then (poisonLane s fr f 0 r).chainAdvance fr op f
            else failLane s fr 0 { cause := 0x07, port := 1, va := w64 (((rows.head?.bind (·.2))).getD 0), extra := r.w0 }
          | none => tileStart s fr f op b rows

/-! ## Home-slice operations and requests to the switch die (R322 to R324, R359) -/

/-- Operand bytes of a home-slice operation: its width, and the whole pair for bf16 (R324). -/
def atomBytes (ty : Ty) : Nat := if ty = .bf16 then 4 else tyBytes ty

/-- A firing of group 0xB or of a barrier instruction: one request for each lane, checked for alignment, host window and fabric
where R324 forbids it, and for an ARED at an address of this module (R338), with the release set of its scope. -/
def homeStart (s : State) (fr : Firing) (f : Fields) (op bytes : Nat) (c : Cnt) (noFabric rel : Bool)
    (acc : Nat → AccOp) : State :=
  let vas := (lanesOf fr).map fun i => (i, addr (laneWord s fr f 0 i))
  let fault (va : Nat) : Option Nat :=
    if va % bytes ≠ 0 then some 0x04
    else if op == 0xBE && !vaG (w64 va) then some 0x03
    else if vaG (w64 va) && noFabric then some 0x02
    else if !vaG (w64 va) && vaHome (w64 va) == 0x20 then some 0x03
    else none
  memStart (s.releaseOps fr)
    { id := 0, firing := fr, f := f, op := op, jid := 0,
      pieces := vas.filterMap fun p => if (fault p.2).isNone then some { va := w64 p.2, acc := acc p.1, lane := p.1 } else none
      errs := vas.filterMap fun p => (fault p.2).map fun c => (p.1, c, 0, w64 p.2, 0)
      cnt := some c
      rel := if rel then s.issuedBefore fr else [] }

/-- An instruction of group 0xB (R324): poison raises. -/
def runHome (op : Nat) (c : Cnt) (acc : State → Firing → Nat → AccOp) (f : Fields) (s : State) : State :=
  withFiring s fun fr s =>
    match firstPoison fr with
    | some (l, p, r) => (s.releaseOps fr).raisePoison fr p l r
    | none =>
      homeStart s fr f op (atomBytes f.ty) c (op == 0xB8 || op == 0xB9) (f.sub.toNat % 4 != 0) (acc s fr)

/-- The width of an atomic's operand in bits: a bf16 pair has 32 (R324, R325). -/
def atomWidth (ty : Ty) : Nat := if ty = .bf16 then 32 else ty.width

/-- RS of group 0xB names .HOST or .FABRIC, as SUB 1 and 2 of ARRIVE do: the release sends a flush through the adapter (R322, R426). -/
def relHost (op : Nat) (f : Fields) : Bool :=
  (0xB0 ≤ op && op < 0xBF && decide (2 ≤ f.sub.toNat % 4)) || (op == 0xC5 && (f.sub == 1 || f.sub == 2))

/-- RS of group 0xB names .FABRIC, as SUB = 2 of ARRIVE does: the release also waits for ARED contributions (R307, R322). -/
def relFabric (op : Nat) (f : Fields) : Bool :=
  (0xB0 ≤ op && op < 0xBF && f.sub.toNat % 4 == 3) || (op == 0xC5 && f.sub == 2)

/-- A read-modify-write of two operands. -/
def runAtom (op : Nat) (k : AKind) (f : Fields) (s : State) : State :=
  runHome op .ost (fun s fr i => .atom k f.ty (laneWord s fr f 1 i) (laneWord s fr f 2 i)) f s

/-- VAR of group 0xB (R322). -/
def varOf (f : Fields) : Nat := f.sub.toNat / 4

/-- ACASK and AADDK (R328): the template's address is K[CK]. -/
def runCont (op : Nat) (add : Bool) (f : Fields) (s : State) : State :=
  runHome op .ost (fun s fr i =>
    let k := s.constOf fr f.ck.toNat
    if add then .caddk f.ty (laneWord s fr f 1 i) (laneWord s fr f 2 i) k
    else .cask f.ty (laneWord s fr f 1 i) (laneWord s fr f 2 i) k) f s

/-- ARED (R338). -/
def runAred (f : Fields) (s : State) : State :=
  let float := f.ty == .f32 || f.ty == .bf16
  let k : AKind := if varOf f = 0 then (if float then .fadd else .add) else if varOf f = 1 then .min else .max
  runHome 0xBE .ost (fun s fr i => .ared k f.ty [laneWord s fr f 1 i]) f s

/-- BINIT, ARRIVE, BWAIT (R358, R359, R366): a barrier is aligned to 16 bytes. -/
def runBarrier (op : Nat) (c : Cnt) (rel : Bool) (acc : State → Firing → Nat → AccOp) (f : Fields) (s : State) : State :=
  withFiring s fun fr s =>
    match firstPoison fr with
    | some (l, p, r) => (s.releaseOps fr).raisePoison fr p l r
    | none => homeStart s fr f op 16 c false rel (acc s fr)

/-- An instruction of groups 0xC, 0xD or 0xE that acts at the switch die or a memory die: one request for each lane, with its
operand words. Poison raises where R37 says so, and is emitted otherwise (R117). -/
def runSys (op : Nat) (c : Cnt) (side : Bool) (f : Fields) (s : State) : State :=
  withFiring s fun fr s =>
    match if side then firstPoison fr else none with
    | some (l, p, r) => (s.releaseOps fr).raisePoison fr p l r
    | none =>
      let ok := (lanesOf fr).filter fun i => (poisonAt fr.ops i).isNone
      memStart (s.releaseOps fr)
        { id := 0, firing := fr, f := f, op := op, jid := 0, cnt := some c
          pieces := ok.map fun i =>
            { va := 0, lane := i, acc := .sys op f.sub.toNat (laneWord s fr f 0 i) (laneWord s fr f 1 i) (laneWord s fr f 2 i) }
          vals := (lanesOf fr).filterMap fun i => (poisonAt fr.ops i).map fun r => (i, .pois r, .pois r) }

/-- BIASREQ (R312, R316): with the constant, port a is a trigger and K[CK] the address. -/
def runBiasreq (f : Fields) (s : State) : State :=
  withFiring s fun fr s =>
    match firstPoison fr with
    | some (l, p, r) => (s.releaseOps fr).raisePoison fr p l r
    | none =>
      memStart (s.releaseOps fr)
        { id := 0, firing := fr, f := f, op := 0xD2, jid := 0, cnt := some .ost
          pieces := (lanesOf fr).map fun i =>
            { va := 0, lane := i, acc := .sys 0xD2 f.sub.toNat (laneWord s fr f (if f.kc then 1 else 0) i) 0 0 } }

/-! ## ORD, REGION (R281 to R283, R287, R288) -/

/-- ORD (R287). -/
def runOrd (f : Fields) (s : State) : State :=
  withFiring s fun fr s =>
    let outs := (lanesOf fr).map fun i =>
      match poisonAt fr.ops i with
      | some r => some (LVal.pois r)
      | none => some .dn
    ((s.releaseOps fr).chainAdvance fr 0x97 f).emit fr f.d0 fr.lb outs

/-- Closing the open region of a context and chain on a tile (R282). -/
def CTile.closeRegion (c : CTile) (ctx ch : Nat) : CTile :=
  { c with slots := c.slots.map fun p =>
      if p.2.valid && p.2.ctx == ctx && p.2.ch == ch then (p.1, { p.2 with valid := false, lines := [] }) else p }

/-- Closing every region of a context on a tile; REGION.OPENs that wait at the port stay (R281, R282). -/
def CTile.closeSlots (c : CTile) (ctx : Nat) : CTile :=
  { c with slots := c.slots.map fun p => if p.2.ctx == ctx then (p.1, { p.2 with valid := false, lines := [] }) else p }

/-- Closing every region of a context on a tile whose frames are all gone, with the REGION.OPENs that they left (R105, R282). -/
def CTile.closeRegions (c : CTile) (ctx : Nat) : CTile :=
  { c.closeSlots ctx with opens := c.opens.filter fun o => o.1.ctx != ctx }

/-- A stream slot. -/
def CTile.slot (c : CTile) (k : Nat) : Slot := AList.getD c.slots k {}

/-- A free stream slot of the 8. -/
def CTile.freeSlot (c : CTile) : Option Nat := (List.range 8).find? fun k => !(c.slot k).valid

/-- A REGION.OPEN claims slot k (R281); `fr` covers one lane. -/
def claimSlot (s : State) (fr : Firing) (f : Fields) (k : Nat) : State :=
  let w := laneWord s fr f 1 0
  let old := (s.tile fr.tile).slot k
  let sl : Slot := { valid := true, ctx := fr.ctx, ch := memCh f, win := field w 32 5 + 1, nextj := 0, count := field w 0 32,
                     base := laneWord s fr f 0 0, stride := laneWord s fr f 2 0, hits := old.hits, misses := old.misses, epoch := s.opno }
  ({ s with opno := s.opno + 1 }.onTile fr.tile fun c => ({ c with slots := AList.set c.slots k sl }).markActive (s.jobOf fr)).emit1 fr f.d1 0 .dn

/-- The REGION.OPENs that wait at the port are served in issue order while slots are free; one whose frame has ended is dropped, one of a
frozen context waits. -/
def serveOpens : Nat → State → Nat → State
  | 0, s, _ => s
  | n + 1, s, t =>
    match (s.tile t).opens.zipIdx.find? fun o => !s.frozenAt t o.1.1.ctx with
    | none => s
    | some ((fr, f), i) =>
      let rest := dropNth (s.tile t).opens i
      if !s.isLive fr then serveOpens n (s.onTile t fun c => { c with opens := rest }) t
      else
        let s' := s.onTile t fun c => c.closeRegion fr.ctx (memCh f)
        match (s'.tile t).freeSlot with
        | none => s
        | some k => serveOpens n (claimSlot (s'.onTile t fun c => { c with opens := rest }) fr f k) t

/-- Serving every OPEN that can be. -/
def State.serveSlots (s : State) (t : Nat) : State := serveOpens ((s.tile t).opens.length) s t

/-- One lane of a firing as a firing of its own. -/
def oneLane (fr : Firing) (i : Nat) : Firing :=
  { fr with lb := fr.lb + i, rl := 1, ops := fr.ops.map fun o => [o.getD i .dn] }

/-- REGION.OPEN on one lane (R281, R288): it first closes the region that its chain has open (R282), and then takes its turn for a slot. -/
def regionOpenLane (fr : Firing) (f : Fields) (i : Nat) (s : State) : State :=
  let w := laneWord s fr f 1 i
  if field w 37 27 ≠ 0 then failLane s fr i { cause := 0x04, port := 1, lane := i }
  else
    let fr1 := oneLane fr i
    let s := (s.releaseAll (tileDie fr.tile) (laneHandles fr i)).onTile fr.tile fun c => c.closeRegion fr.ctx (memCh f)
    if field w 0 32 = 0 then (s.serveSlots fr.tile).emit1 fr1 f.d1 0 .dn
    else (s.onTile fr.tile fun c => { c with opens := c.opens ++ [(fr1, f)] }).serveSlots fr.tile

/-- REGION.OPEN (R281); poison is emitted (R117). -/
def runRegionOpen (f : Fields) (s : State) : State :=
  withFiring s fun fr s => perLane fr (orPoison fr f (regionOpenLane fr f)) s

/-- REGION.CLOSE (R282). -/
def runRegionClose (f : Fields) (s : State) : State :=
  withFiring s fun fr s => perLane fr (orPoison fr f fun i s =>
    (((s.releaseAll (tileDie fr.tile) (laneHandles fr i)).onTile fr.tile fun c => c.closeRegion fr.ctx (memCh f)).serveSlots
      fr.tile).emit1 fr f.d1 i .dn) s

/-! ## FENCE, WAITC (R305, R307, R313 to R315) -/

/-- Triggers without what they carry: poison stays, everything else is done. -/
def bareTriggers (fr : Firing) : Firing :=
  { fr with ops := fr.ops.map fun o => o.map fun v => match v with
      | .pois r => .pois r
      | _ => .dn }

/-- The serials that a FENCE of a scope waits for: for .TILE those counted in OCP and OTO (R307). -/
def State.fenceMembers (s : State) (fr : Firing) (scope : Nat) : List Nat :=
  ((s.frameOf fr).map fun x => (x.outl.filter fun e => scope != 0 || e.2 == .ocp || e.2 == .oto).map (·.1)).getD []

/-- FENCE and WAITC enter the fence list (R313). -/
def runFence (waitc : Bool) (f : Fields) (s : State) : State :=
  withFiring s fun fr s =>
    (s.releaseOps fr).onTile fr.tile fun c => { c with fences := c.fences ++ [
      { firing := bareTriggers fr, f := f, waitc := waitc, mem := if waitc then [] else s.fenceMembers fr f.sub.toNat }] }

/-- The ARED contributions of a frame that a switch holds (R307, R429). -/
def State.aredsOf (s : State) (fr : Firing) : List Req :=
  s.sw.areds.filter fun r => field r.place 0 30 == field (placeWord fr.tile fr.ctx fr.fi 0 0 0 0) 0 30

/-- Whether the release set of a FENCE has reached its completion point, and the home module has acknowledged its drain markers: what was
ahead of them at the switches has performed there (R307, R314, R429). -/
def fenceReady (s : State) (e : Fence) : Bool :=
  match s.frameOf e.firing with
  | none => true
  | some x =>
    let scope := e.f.sub.toNat
    !(x.outl.any fun o => e.mem.contains o.1 && (scope != 0 || o.2 == .ocp || o.2 == .oto))
      && (scope != 4 || !e.flush || !(s.sw.areds.any fun r => e.ahead.contains r.id))

/-- Whether the four counters of a frame are within WAITC's limits (R315). -/
def waitcReady (s : State) (e : Fence) : Bool :=
  match s.frameOf e.firing with
  | none => true
  | some x => decide (x.old ≤ xbits e.f.x 9 3) && decide (x.ost ≤ xbits e.f.x 6 3) && decide (x.ocp ≤ xbits e.f.x 3 3)
      && decide (x.oto ≤ xbits e.f.x 0 3)

/-- A scope that takes a flush through the adapter: .HOST and .FABRIC (R307, R426). -/
def flushScope (scope : Nat) : Bool := scope == 3 || scope == 4

/-- An entry leaves the fence list with its outputs; a poison trigger makes them poison (R313). -/
def fenceLeave (s : State) (t n : Nat) (e : Fence) : State :=
  let outs := (lanesOf e.firing).map fun i =>
    match poisonAt e.firing.ops i with
    | some r => some (LVal.pois r)
    | none => some .dn
  let s := s.onTile t fun c => { c with fences := dropNth c.fences n }
  (s.emit e.firing e.f.d0 e.firing.lb outs).emit e.firing e.f.d1 e.firing.lb outs

/-- The flush of a FENCE sets out, at .FABRIC with a drain marker on every link: the switches forward what they hold ahead of it (R426,
R429). -/
def fenceFlush (s : State) (t n : Nat) (e : Fence) : State :=
  if e.f.sub.toNat = 4 then
    (s.onTile t fun c => { c with fences := setNth c.fences n { e with flush := true, ahead := s.sw.areds.map (·.id) } })
      |> fun s => { s with sw := { s.sw with aredGo := s.sw.areds.map (·.id) } }
  else s.onTile t fun c => { c with fences := setNth c.fences n { e with flush := true } }

/-- FENCE_RELEASE and WAITC_RELEASE: entry n of the fence list (R313 to R315); one whose frame has entered ENDING is discarded. A FENCE
of scope .HOST or .FABRIC whose release set is complete sends its flush, and leaves when the flush returns (R426; log entry 99). -/
def fenceRelease (waitc : Bool) (s : State) (t n : Nat) : State :=
  match (s.tile t).fences[n]? with
  | none => s
  | some e =>
    if e.waitc != waitc then s
    else if s.isEnding e.firing then s.onTile t fun c => { c with fences := dropNth c.fences n }
    else if !s.isLive e.firing then s
    else if waitc then (if waitcReady s e then fenceLeave s t n e else s)
    else if !fenceReady s e then s
    else if flushScope e.f.sub.toNat && !e.flush then
      fenceFlush s t n e
    else fenceLeave s t n e

/-! ## Issue of requests (R273, R277, R278, R411, R412) -/

/-- Requests of a port without replies: those of its operations and of its read-ahead. -/
def State.outstanding (s : State) (t : Nat) : Nat :=
  let mine (r : Req) : Bool := match r.src with
    | .slot u _ => u == t
    | _ => false
  let whole (r : Req) : Bool := mine r && r.part.isNone
  (s.tile t).mops.foldl (fun n o => n + o.out) 0 + (s.net.filter whole).length + (s.reps.filter fun r => mine r.req).length
    + (s.asm.filter fun a => mine a.2.req).length
    + s.md.foldl (fun n d => n + d.2.slices.foldl (fun n sl => n + (sl.2.df.filter fun e => whole e.2).length) 0) 0

/-- A bandwidth account. -/
def CTile.acct (c : CTile) (jid : Nat) : Acct := ((c.accts.find? fun a => a.2.jid == jid).map (·.2)).getD { jid := jid }
/-- Changing an account, if the tile keeps one for the job. -/
def CTile.onAcct (c : CTile) (jid : Nat) (g : Acct → Acct) : CTile :=
  { c with accts := c.accts.map fun a => if a.2.jid == jid then (a.1, g a.2) else a }

/-- Whether a job's account lets a request issue: EN = 0, or CREDIT of 64 or more (R412). -/
def CTile.hasCredit (c : CTile) (jid : Nat) : Bool := !c.bwen || decide (64 ≤ (c.acct jid).credit)

/-- Changing the REQ and WAIT counts of a job's account, if the tile keeps one (R414). -/
def CTile.onAcctWord (c : CTile) (jid : Nat) (g : Nat × Nat → Nat × Nat) : CTile :=
  match c.accts.find? fun a => a.2.jid == jid with
  | some a => { c with acctw := AList.set c.acctw a.1 (g (AList.getD c.acctw a.1 (0, 0))) }
  | none => c

/-- A request paid for by a job's account: with EN = 1 it takes 64 bytes of CREDIT and counts in REQ (R412, R414). -/
def CTile.pay (c : CTile) (jid : Nat) : CTile :=
  if c.bwen then (c.onAcct jid fun a => { a with credit := a.credit - 64, active := true }).onAcctWord jid fun w => ((w.1 + 1) % 2 ^ 32, w.2)
  else c.onAcct jid fun a => { a with active := true }

/-- A request of the memory port, counted and charged to an account (R299, R412, R414). -/
def CTile.charge (c : CTile) (jid : Nat) : CTile := { c.pay jid with mpreq := c.mpreq + 1 }

/-- The operations that R412 charges: memory nodes and home-slice operations. ARG is none of them: the traced REQ and WAIT counts of R456
and R457 leave it out. -/
def charged (op : Nat) : Bool := (0x90 ≤ op && op < 0xA0) || (0xB0 ≤ op && op < 0xC0)

/-- The oldest operation of a port that may issue (R273). -/
def CTile.portHead (c : CTile) : Option MemOp :=
  (c.mops.zipIdx.find? fun o =>
    !o.1.pieces.isEmpty && !o.1.lent && (!charged o.1.op || c.hasCredit o.1.jid)
      && !(c.mops.take o.2).any fun p => p.jid == o.1.jid && !p.pieces.isEmpty && !p.lent).map (·.1)

/-- A request leaves on its way to where it performs, by the module of its die's spoke that R417 names. -/
def State.send (s : State) (src : Src) (own jid : Nat) (p : Piece) (place : Word) : State :=
  { s with
    net := s.net ++ [{ id := s.reqno, src := src, own := own, jid := jid, piece := p, place := place,
                       via := src.die.bind fun d => s.nSel d p.target }]
    reqno := s.reqno + 1 }

/-- Whether the spoke of a tile's die takes the next request, with a piece (R388, R417, R421). -/
def State.maySend (s : State) (t : Nat) (p : Piece) : Bool := s.spokeOpen (tileDie t) p.target s.reqno

/-- The bytes of a piece that a store node reads at its memory tile as it issues, but for words that it has read earlier, or the record of
a poisoned buffer (R285, R300, R373). -/
def storeBytes (s : State) (o : Owner) (b : Buf) (p : Piece) (n : Nat) : State × Except PRec (List Byte) :=
  let off := b.x.rowOff p.row + p.off
  let s := s.touch b.m b.d off n
  match (s.mtile b.m).poison? b.d with
  | some r => (s, .error r)
  | none => (s, .ok ((s.asRead o).readBytes (padAddr b.m off) n))


/-- A piece leaves: it is counted and charged, and a random node whose last request has issued advances its chain (R278). -/
def sendPiece (s : State) (t : Nat) (o : MemOp) (p : Piece) (rest : List Piece) : State :=
  let s := s.onTile t fun c =>
    (if charged o.op then c.charge o.jid else { c with mpreq := c.mpreq + 1 }).onMop o.id fun o =>
      { o with pieces := rest, out := o.out + 1 }
  let s := s.onTile t fun c => { c with pissue := (s.clk + 1, o.jid) }
  let s := s.send (.port t) o.id o.jid p (o.firing.place 0 p.lane)
  if rest.isEmpty && memCls o.f != 2 then s.chainAdvance o.firing o.op o.f else s

/-- Whether a port may issue a request in this clk: it has issued none, it holds fewer than 256 without replies, and its die's spoke takes
the one that is next (R273, R417). -/
def portReady (s : State) (t : Nat) : Bool :=
  decide ((s.tile t).pissue.1 ≤ s.clk) && decide (s.outstanding t < 256)
    && match (s.tile t).portHead with
      | some o => (o.pieces.head?).any fun p => s.maySend t p
      | none => false

/-- MEMORY_PORT_ISSUE: the port issues one request (R273, R412). -/
def portIssue (s : State) (t : Nat) : State :=
  if !portReady s t then s
  else match (s.tile t).portHead with
    | none => s
    | some o =>
      match o.pieces with
      | [] => s
      | p :: rest =>
        match p.acc with
        | .writeRow bs =>
          match storeBytes s (.memop t o.id) (o.buf s) p bs.length with
          | (s, .ok bs) => sendPiece s t o { p with acc := .writeRow bs } rest
          | (s, .error r) =>
            let errs := [(0, 0x07, 0, o.row0, r.w0)]
            memSettle (memRaise (s.onTile t fun c => c.onMop o.id fun o => { o with pieces := [], errs := errs }) { o with errs := errs }) t o.id
        | _ => sendPiece s t o p rest

/-! ## Read-ahead (R281, R283) -/

/-- The address of the line of element j of a slot. -/
def Slot.lineOf (sl : Slot) (j : Nat) : Nat :=
  granule (((addr sl.base : Int) + (j : Int) * sl.stride.toInt) % 2 ^ 57).toNat

/-- STREAM_READAHEAD_FETCH: slot k takes its next element: it fetches the element's line, unless it fetched that line for the element
before, while it holds fewer than WIN lines (R281). -/
def readAhead (s : State) (t k : Nat) : State :=
  let c := s.tile t
  let sl := c.slot k
  if !sl.valid || decide (sl.count ≤ sl.nextj) then s
  else
    let line := sl.lineOf sl.nextj
    if 0 < sl.nextj ∧ (sl.lines.getLast?.map fun l => addr l.va) = some line then
      s.onTile t fun c => { c with slots := AList.set c.slots k { sl with nextj := sl.nextj + 1 } }
    else
      let jid := (s.jobAt t sl.ctx).getD 0
      if sl.win ≤ sl.lines.length || 256 ≤ s.outstanding t || !c.hasCredit jid || !s.spokeOpen (tileDie t) (w64 line) s.reqno then s
      else
        (s.onTile t fun c => ({ c with
          slots := AList.set c.slots k { sl with nextj := sl.nextj + 1, lines := sl.lines ++ [{ va := w64 line }] } } : CTile).charge jid).send
          (.slot t k) sl.epoch jid { va := w64 line, acc := .readRow 64 } 0

/-- Whether a reply belongs to a stream slot of a tile. -/
def Rep.forSlot (t : Nat) (r : Rep) : Bool := match r.req.src with
  | .slot u _ => u == t
  | _ => false

/-- Whether a reply belongs to the memory port of a tile. -/
def Rep.forPort (t : Nat) (r : Rep) : Bool := match r.req.src with
  | .port u => u == t
  | _ => false

/-- The n-th reply that a test picks out, with its index among all. -/
def State.nthRep (s : State) (test : Rep → Bool) (n : Nat) : Option (Rep × Nat) := (s.reps.zipIdx.filter fun r => test r.1)[n]?

/-- STREAM_READAHEAD_REPLY: the line's bytes have arrived, or it is marked bad; a reply for a slot closed since is discarded (R282,
R283). -/
def readAheadReply (s : State) (t n : Nat) : State :=
  match s.nthRep (Rep.forSlot t) n with
  | none => s
  | some (r, i) =>
    let s := { s with reps := dropNth s.reps i }
    match r.req.src with
    | .slot _ k =>
      s.onTile t fun c =>
        let sl := c.slot k
        if sl.valid && sl.epoch == r.req.own then
          { c with slots := AList.set c.slots k { sl with lines := sl.lines.map fun l =>
              if l.va == r.req.piece.va && l.bytes.isNone && !l.bad then
                (if r.cause = 0 then { l with bytes := some r.bytes } else { l with bad := true })
              else l } }
        else c
    | _ => s

/-! ## Replies (R277, R286, R289) -/

/-- The lanes that a request concerns, with their addresses. -/
def Piece.lanes (p : Piece) : List (Nat × Word) :=
  match p.acc with
  | .loads l => l.map fun e => (e.1, e.2.1)
  | .stores l => l.map fun e => (e.1, e.2.1)
  | _ => [(p.lane, p.va)]

/-- The port that a failure names (R370): ARG has no operand at fault; a port that the constant supplies is none. -/
def errPort (o : MemOp) (port : Nat) : Nat :=
  if isTileNode o.op then 1 else if o.op == 0x0D || (o.op == 0xD2 && o.f.kc) then 3 else constPort o.f port

/-- An operation as a reply changes it: with a cause, the lanes that bring no value have failed. -/
def MemOp.take (o : MemOp) (r : Rep) : MemOp :=
  let o := { o with out := o.out - 1 }
  if r.cause ≠ 0 then
    { o with vals := o.vals ++ r.vals, errs := o.errs ++
        (if isTileNode o.op then [(r.req.piece.row, r.cause, 1, r.req.piece.va, r.extra)]
         else (r.req.piece.lanes.filter fun l => !r.vals.any fun v => v.1 == l.1).map fun l => (l.1, r.cause, errPort o r.port, l.2, r.extra)) }
  else { o with vals := o.vals ++ r.vals }

/-- Bytes at an offset, cut into aligned 8-byte words (R274). -/
def wordCuts : Nat → Nat → List Byte → List (Nat × List Byte)
  | 0, _, _ => []
  | k + 1, off, bs =>
    if bs.isEmpty then []
    else
      let m := 8 - off % 8
      (off, bs.take m) :: wordCuts k (off + m) (bs.drop m)

/-- The bytes from an offset of a row as they land: the bits above the row's last element are written as R83 says. -/
def landPart (s : State) (b : Buf) (row off : Nat) (bs : List Byte) : List Byte :=
  toBytes bs.length ((ofBytes bs * 2 ^ (8 * off) % 2 ^ (tBits b.x.shape * tCols b.x.shape) + rowTail b.x (s.rowGet b.m b.x row)) / 2 ^ (8 * off))

/-- The bytes of pieces of a row, in ascending offset. -/
def joinBytes (l : List (Nat × List Byte)) : List Byte := (sortBy (fun a b => decide (a.1 ≤ b.1)) l).flatMap (·.2)

/-- The pieces of a row that have arrived; once all have and none failed, its words are to land in the buffer (R285, R286). -/
def landRow (s : State) (t : Nat) (o : MemOp) (r : Rep) : State :=
  match r.req.piece.acc, r.cause with
  | .readRow _, 0 =>
    let row := r.req.piece.row
    let rows := o.rows ++ [(row, r.req.piece.off, r.bytes)]
    let mine := rows.filter fun e => e.1 == row
    let b := o.buf s
    if mine.foldl (fun n e => n + e.2.2.length) 0 = rowBytes b.x.shape then
      let bs := landPart s b row 0 (joinBytes (mine.map (·.2)))
      s.onTile t fun c => c.onMop o.id fun o => { o with
        rows := rows.filter fun e => e.1 != row, land := o.land ++ wordCuts (bs.length + 1) (b.x.rowOff row) bs }
    else s.onTile t fun c => c.onMop o.id fun o => { o with rows := rows }
  | _, _ => s

/-- An operation that a freeze wave has withdrawn gives its counter back once it has no request without a reply (R337, R377). -/
def giveBack (s : State) (t id : Nat) : State :=
  match (s.tile t).mop? id with
  | none => s
  | some o =>
    match o.lent && o.out == 0, o.cnt with
    | true, some c => (s.uncount o.firing c).onTile t fun x => x.onMop id fun o => { o with cnt := none, had := some c }
    | _, _ => s

/-- The next word of a row that has arrived at a port's memory tile lands there; with the last, the operation ends (R285, R300). -/
def landWord (s : State) (t : Nat) : State :=
  match (s.tile t).mops.find? fun o => !o.land.isEmpty with
  | none => s
  | some o =>
    match o.land with
    | [] => s
    | w :: rest =>
      memSettle ((s.padWrite (o.buf s).m w.1 w.2).onTile t fun c => c.onMop o.id fun o => { o with land := rest }) t o.id

/-- MEMORY_REPLY_ARRIVE: the n-th reply for a port arrives; with the last, the operation ends (R277, R289, R290, R324). With n past
them, the next word of a row lands in its buffer. -/
def replyArrive (s : State) (t n : Nat) : State :=
  match s.nthRep (Rep.forPort t) n with
  | none => landWord s t
  | some (r, i) =>
    let s := { s with reps := dropNth s.reps i }
    match (s.tile t).mop? r.req.own with
    | none => s
    | some o =>
      let o' := o.take r
      let s := s.onTile t fun c => c.onMop o.id fun _ => o'
      let s := if o.errs.isEmpty then memRaise s o' else s
      giveBack (memSettle (landRow s t o' r) t o.id) t o.id

/-- The requests of a frame that have not issued are dropped (R368); an operation with none outstanding ends. -/
def dropPieces (s : State) (t fi : Nat) : State :=
  let ids := ((s.tile t).mops.filter fun o => o.firing.fi == fi).map (·.id)
  ids.foldl (fun (s : State) id =>
    memSettle (s.onTile t fun c => c.onMop id fun o => { o with pieces := [] }) t id) s

end Sys2Proof.Machine
end

