-- ==== Sys2Proof/Machine/Homes.lean ====
section
/-! DEFINITION. Home slices: performing accesses, atomics, continuations, I-structures and barriers (R300, R301, R316, R319 to R340,
R358, R366, R404, R426). -/

namespace Sys2Proof.Machine

/-! ## Arithmetic of atomics (R325, R326) -/

/-- A floating sum rounded once under RNE (R326). -/
def fsum (ty : Ty) (m v : Word) : Word := writeF ty .rn (exSum .rn [readF ty m, readF ty v])

/-- The halves of a bf16 pair, each under g. -/
def bfPair (g : Word → Word → Word) (m v : Word) : Word :=
  w64 ((g (w64 (field m 0 16)) (w64 (field v 0 16))).toNat % 2 ^ 16 + (g (w64 (field m 16 16)) (w64 (field v 16 16))).toNat % 2 ^ 16 * 2 ^ 16)

/-- The lesser or greater of two values at a type: integers by value, floats under R158 with SUB 0. -/
def pickOf (greater : Bool) (ty : Ty) (m v : Word) : Word :=
  if ty == .f32 || ty == .bf16 then
    writeF ty .rn (if greater then (readF ty m).max (readF ty v) else (readF ty m).min (readF ty v))
  else if greater then (if readI ty m < readI ty v then v else m) else (if readI ty v < readI ty m then v else m)

/-- The word that a read-modify-write leaves (R325): m as read, v and n its operands. -/
def atomNew (k : AKind) (ty : Ty) (m v n : Word) : Word :=
  let w (x : Word) : Nat := x.toNat % 2 ^ atomWidth ty
  match k with
  | .add => w64 ((w m + w v) % 2 ^ atomWidth ty)
  | .fadd => if ty = .bf16 then bfPair (fsum .bf16) m v else fsum ty m v
  | .min => if ty = .bf16 then bfPair (pickOf false .bf16) m v else pickOf false ty m v
  | .max => if ty = .bf16 then bfPair (pickOf true .bf16) m v else pickOf true ty m v
  | .and => m &&& v
  | .or => m ||| v
  | .xor => m ^^^ v
  | .xch => w64 (w v)
  | .cas => if w m = w v then w64 (w n) else m
  | .incWrap => if w v ≤ w m then 0 else w64 (w m + 1)
  | .incSat => if w v ≤ w m then m else w64 (w m + 1)

/-- A value as an output of group 0xB: written at TY (R71); a bf16 pair in bits 31:0 (R324). -/
def atomOut (ty : Ty) (m : Word) : Word := if ty = .bf16 then w64 (m.toNat % 2 ^ 32) else writeN ty (readN ty m)

/-! ## Replies -/

/-- A reply sets out, unless nobody in the module waits for it; the ARED contributions that a merged request stands for have then
performed (R339). -/
def State.reply (s : State) (r : Rep) : State :=
  match r.req.src with
  | .outside => { s with sw := { s.sw with areds := s.sw.areds.filter fun x => !(x.held && x.own == r.req.id) } }
  | _ => { s with reps := s.reps ++ [r] }

/-- The bytes of one granule with lanes' bytes written over them in order. -/
def overlay (off : Nat) (bs : List Byte) (g : List Byte) : List Byte := g.take off ++ bs ++ g.drop (off + bs.length)

/-- Which bytes of a granule stores cover. -/
def coverAll (l : List (Nat × Nat)) : Bool := (List.range 64).all fun i => l.any fun x => decide (x.1 ≤ i) && decide (i < x.1 + x.2)

/-- Whether a piece writes a granule whole, so that it takes fresh ECC (R404). -/
def Piece.whole (p : Piece) : Bool := match p.acc with
  | .writeRow bs => bs.length == 64
  | .stores l => coverAll (l.map fun e => (addr e.2.1 % 64, e.2.2.length))
  | _ => false

/-- One word of a request has performed; with the last the reply to the whole request sets out, and a granule that it has written whole
has fresh ECC (R300, R404). -/
def State.joinPart (s : State) (id : Nat) (r : Rep) : State :=
  match AList.get? s.asm id with
  | none => s
  | some a =>
    let a := { a with
      left := a.left - 1, vals := a.vals ++ r.vals, bytes := AList.set a.bytes r.req.piece.off r.bytes
      cause := if a.cause = 0 then r.cause else a.cause }
    if a.left ≠ 0 then { s with asm := AList.set s.asm id a }
    else
      let s := { s with asm := AList.erase s.asm id }
      let s := if a.req.piece.whole && memDies.contains a.die then s.onMdie a.die fun c => { c with ue := c.ue.filter (· != granule a.pa) } else s
      if a.cause ≠ 0 then s.reply { req := a.req, cause := a.cause }
      else s.reply { req := a.req, vals := a.vals, bytes := a.bytes.flatMap (·.2) }

/-- A reply to a request, or to one word of a request whose words perform one by one. -/
def State.answer (s : State) (r : Rep) : State :=
  match r.req.part with
  | some id => s.joinPart id r
  | none => s.reply r

/-- A reply with one lane's two outputs. -/
def State.answerLane (s : State) (r : Req) (v0 v1 : LVal) : State :=
  s.answer { req := r, vals := [(r.piece.lane, v0, v1)] }

/-- A failed reply, with the port and w5 (R289, R371). -/
def State.answerErr (s : State) (r : Req) (cause : Nat) (port : Nat := 0) (extra : Word := 0) : State :=
  s.answer { req := r, cause := cause, port := port, extra := extra }

/-- A failed reply that names an address. -/
def State.answerVa (s : State) (r : Req) (cause : Nat) (va : Word) (port : Nat := 0) (extra : Word := 0) : State :=
  s.answerErr { r with piece := { r.piece with va := w64 (addr va) } } cause port extra

/-- A status of group 0xB: OUT in bits 1:0 (R323). -/
def outStat (n : Nat) : LVal := .runv (w64 n)

/-! ## What an access is (R259, R320) -/

/-- What an access needs of its page (R259). -/
def AccOp.need : AccOp → Need
  | .loads _ => .r
  | .readRow _ => .r
  | .stores _ => .w
  | .writeRow _ => .w
  | _ => .aw

/-- The bytes that an access covers, from its piece's address: (offset, count). -/
def Piece.spans (p : Piece) : List (Nat × Nat) :=
  match p.acc with
  | .loads l => l.map fun e => (addr e.2.1 - addr p.va, e.2.2)
  | .stores l => l.map fun e => (addr e.2.1 - addr p.va, e.2.2.length)
  | .readRow n | .line n _ => [(0, n)]
  | .writeRow bs => [(0, bs.length)]
  | .binit _ | .arrive | .bwait _ => [(0, 16)]
  | .atom _ ty _ _ | .cask ty .. | .caddk ty .. | .ared _ ty _ => [(0, atomBytes ty)]
  | _ => [(0, 8)]

/-- The 8-byte words of physical memory that an access at `pa` touches. -/
def wordsAt (pa : Nat) (p : Piece) : List Nat :=
  p.spans.flatMap fun x => (List.range ((pa + x.1 + x.2 - 1) / 8 + 1 - (pa + x.1) / 8)).map ((pa + x.1) / 8 + ·)

/-- Whether an access may be deferred on its condition (R328). -/
def AccOp.isCont : AccOp → Bool
  | .cask .. | .caddk .. => true
  | _ => false

/-- An access that returns BUSY where it finds the deferral list full (R329). -/
def AccOp.busyWhenFull : AccOp → Bool
  | .cask .. | .caddk .. | .itake | .iread | .iput _ => true
  | _ => false

/-- Whether two accesses touch one word. -/
def shareWord (a : Nat × Req) (pa : Nat) (p : Piece) : Bool :=
  (wordsAt a.1 a.2.piece).any fun w => (wordsAt pa p).contains w

/-! ## Plain accesses -/

/-- The stores of one request at its granule (R289, R404): with every byte covered the granule is written whole. -/
def doStores (s : State) (d pa : Nat) (p : Piece) (l : List (Nat × Word × List Byte)) : State :=
  let base := pa - addr p.va % 64
  let off (e : Nat × Word × List Byte) : Nat := addr e.2.1 % 64
  if coverAll (l.map fun e => (off e, e.2.2.length)) then
    s.dramWrite d base (l.foldl (fun g e => overlay (off e) e.2.2 g) (s.readBytes (hbmAddr (d - 8) base) 64))
  else l.foldl (fun (s : State) e => s.dramWrite d (base + off e) e.2.2) s

/-- The lanes of a load (R289). -/
def doLoads (s : State) (d pa : Nat) (p : Piece) (l : List (Nat × Word × Nat)) : List (Nat × LVal × LVal) :=
  l.map fun e => (e.1, LVal.runv (w64 (s.readN (hbmAddr (d - 8) (pa + (addr e.2.1 - addr p.va))) e.2.2)), .dn)

/-! ## I-structures (R334 to R337) -/

/-- Whether a word of the zone is full. -/
def MDie.full (c : MDie) (pa : Nat) : Bool := c.tags.contains (pa / 8)
/-- Setting a word's tag. -/
def MDie.setTag (c : MDie) (pa : Nat) (full : Bool) : MDie :=
  { c with tags := if full then (if c.tags.contains (pa / 8) then c.tags else (pa / 8) :: c.tags)
                   else c.tags.filter (· != pa / 8) }

/-- An I-structure request's waiting: some true for full, some false for empty, none for other accesses. -/
def AccOp.waitsFor : AccOp → Option Bool
  | .itake | .iread => some true
  | .iput _ => some false
  | _ => none

/-- An atomic or I-structure operation performs at its slice; `mod` tells whether it changes its granule or tag (R321, R340). -/
def State.atomDone (s : State) (d pa : Nat) (mod : Bool) : State :=
  (s.abTouch d pa mod).onSlice d (sliceOf pa) fun x => { x with atoms := x.atoms + 1 }

/-- A lane returned with OUT = 2 (R337, R340). -/
def State.laneBusy (s : State) (d pa : Nat) (r : Req) (v : LVal) : State :=
  (s.onSlice d (sliceOf pa) fun x => { x with busy := x.busy + 1 }).answerLane r v (outStat 2)

/-- The answer to an access that finds its granule uncorrectable, its read of DRAM having been made (R404, R406). -/
def State.answerBad (s : State) (d pa : Nat) (r : Req) : State :=
  (if r.part.isNone then s.demand d pa else s).answerErr r 0x0D

/-- Serving one I-structure request (R336); an uncorrectable granule, with its tags, cannot be brought into the atomic buffer, and
fails it (R321, R404). -/
def serveI (s : State) (d pa : Nat) (r : Req) : State :=
  if s.abBad d pa then s.answerBad d pa r
  else match r.piece.acc with
    | .iput v => ((s.atomDone d pa true).dramWord d pa v).onMdie d (·.setTag pa true) |>.answerLane r .dn (outStat 1)
    | acc =>
      let v := LVal.runv (s.dramGet d pa)
      let s := s.atomDone d pa (acc == .itake)
      (if acc == .itake then s.onMdie d (·.setTag pa false) else s).answerLane r v (outStat 1)

/-- After a change of a word's tag the head of its queue is served while it can be (R336). -/
def serveQueue : Nat → State → Nat → Nat → State
  | 0, s, _, _ => s
  | n + 1, s, d, pa =>
    let q := ((s.mdie d).slice (sliceOf pa)).idq
    match q.zipIdx.find? fun e => e.1.1 == pa && (e.1.2.piece.acc.waitsFor).isSome with
    | none => s
    | some ((_, r), i) =>
      if r.piece.acc.waitsFor = some ((s.mdie d).full pa) then
        serveQueue n (serveI (s.onSlice d (sliceOf pa) fun x => { x with idq := dropNth x.idq i }) d pa r) d pa
      else s

/-- Serving the waiting requests of a word. -/
def State.serveWord (s : State) (d pa : Nat) : State :=
  serveQueue (((s.mdie d).slice (sliceOf pa)).idq.length) s d pa

/-- A request takes one of the 256 deferral entries, or returns OUT = 2 (R337, R358). -/
def deferI (s : State) (d pa : Nat) (r : Req) (busy : LVal) : State :=
  let n := sliceOf pa
  if ((s.mdie d).slice n).idq.length < 256 then s.onSlice d n fun x => { x with idq := x.idq ++ [(pa, r)] }
  else s.laneBusy d pa r busy

/-- An I-structure request arrives at its word (R336). -/
def arriveI (s : State) (d pa : Nat) (r : Req) : State :=
  let want := r.piece.acc.waitsFor
  let c := s.mdie d
  if want = some (c.full pa) && !((c.slice (sliceOf pa)).idq.any fun e => e.1 == pa && e.2.piece.acc.waitsFor == want) then
    (serveI s d pa r).serveWord d pa
  else deferI s d pa r (match r.piece.acc with
    | .iput _ => .dn
    | _ => .runv 0)

/-! ## Barriers (R358, R366) -/

/-- Round b has passed. -/
def roundPassed (round b : Word) : Bool := decide ((round - b - 1).toNat < 2 ^ 63)

/-- The BWAITs that wait at a barrier, in deferral order. -/
def barrierWaits (s : State) (d pa : Nat) : List (Nat × Req) :=
  ((s.mdie d).slice (sliceOf pa)).idq.filter fun e => e.1 == pa && (e.2.piece.acc.waitsFor).isNone

/-- Removing requests from the deferral entries of a slice. -/
def State.dropIdq (s : State) (d n : Nat) (l : List (Nat × Req)) : State :=
  s.onSlice d n fun x => { x with idq := x.idq.filter fun e => !l.any fun g => g.2.id == e.2.id }

/-- The BWAITs that a round has reached are served. -/
def serveBarrier (s : State) (d pa : Nat) (round : Word) : State :=
  let l := (barrierWaits s d pa).filter fun e => match e.2.piece.acc with
    | .bwait b => roundPassed round b
    | _ => false
  l.foldl (fun (s : State) e => s.answerLane e.2 (.runv round) (outStat 1)) (s.dropIdq d (sliceOf pa) l)

/-- BINIT, ARRIVE and BWAIT at their barrier (R366). -/
def doBarrier (s : State) (d pa : Nat) (r : Req) : State :=
  let w0 := s.dramGet d pa
  let round := s.dramGet d (pa + 8)
  let s' := s.abTouch d pa (match r.piece.acc with
    | .bwait _ => false
    | _ => true)
  match r.piece.acc with
  | .binit b =>
    if b.toNat % 2 ^ 32 = 0 ∨ field b 32 32 ≠ 0 then s.answerErr r 0x04 1 b
    else
      let l := barrierWaits s d pa
      let s := l.foldl (fun (s : State) e => s.laneBusy d pa e.2 (.runv round)) (s'.dropIdq d (sliceOf pa) l)
      ((s.dramWord d pa b).dramWord d (pa + 8) 0).answerLane r .dn .dn
  | .arrive =>
    let count := field w0 0 32
    let arrived := field w0 32 32 + 1
    if count = 0 then s.answerErr r 0x04
    else if arrived = count then
      let s := (s'.dramWord d pa (w64 count)).dramWord d (pa + 8) (round + 1)
      serveBarrier (s.answerLane r (.runv round) .dn) d pa (round + 1)
    else (s'.dramWord d pa (w64 (count + arrived % 2 ^ 32 * 2 ^ 32))).answerLane r (.runv round) .dn
  | .bwait b =>
    if roundPassed round b then s'.answerLane r (.runv round) (outStat 1) else deferI s d pa r (.runv 0)
  | _ => s

/-! ## Atomics and continuations (R325, R328) -/

/-- The bits that a store of a type writes: `n` bytes of a word. -/
def wordBytes (ty : Ty) (w : Word) : List Byte := toBytes (atomBytes ty) w.toNat

/-- The word as an atomic of a type reads it. -/
def atomRead (s : State) (d pa : Nat) (ty : Ty) : Word := w64 (s.readN (hbmAddr (d - 8) pa) (atomBytes ty))

/-- Condition and new word of ACASK and AADDK (R328). -/
def contOf (m : Word) : AccOp → Bool × Word × Ty × Word
  | .cask ty b c t => (readN ty m == readN ty b, if readN ty m = readN ty b then w64 (readN ty c) else m, ty, t)
  | .caddk ty b c t => (readN ty (m + b) == readN ty c, w64 (readN ty (m + b)), ty, t)
  | _ => (false, m, .b64, 0)

/-- ACASK or AADDK evaluated at the head of its word (R328): none where it must be deferred or refused, its condition being true and
no shuttle entry free. -/
def evalCont (s : State) (d pa : Nat) (r : Req) : Option State :=
  let ty := (contOf 0 r.piece.acc).2.2.1
  let m := atomRead s d pa ty
  let (cond, new, _, tmpl) := contOf m r.piece.acc
  let n := sliceOf pa
  let run (s : State) : State :=
    let same := wordBytes ty new == wordBytes ty m
    let s := s.atomDone d pa (!same)
    if same then s else s.dramWrite d pa (wordBytes ty new)
  if s.abBad d pa then some (s.answerBad d pa r)
  else if !cond then some ((run s).answerLane r (.runv (atomOut ty m)) (outStat 0))
  else if ((s.mdie d).slice n).sh.length < 64 then
    let s := (run s).onSlice d n fun x => { x with sh := x.sh ++ [
      { place := r.place, jid := r.jid, va := r.piece.va, old := atomOut ty m, new := atomOut ty new, tmpl := tmpl }] }
    some (s.answerLane r (.runv (atomOut ty m)) (outStat 1))
  else none

/-- A lane of ACASK or AADDK that may not perform now: deferred, or BUSY (R328). -/
def deferCont (s : State) (d pa : Nat) (r : Req) : State :=
  let n := sliceOf pa
  if ((s.mdie d).slice n).df.length < 32 then s.onSlice d n fun x => { x with df := x.df ++ [(pa, r)] }
  else s.laneBusy d pa r (.runv 0)

/-- A read-modify-write performs at its word (R325, R326). -/
def doAtom (s : State) (d pa : Nat) (r : Req) (k : AKind) (ty : Ty) (b c : Word) : State :=
  if s.abBad d pa then s.answerBad d pa r
  else
    let m := atomRead s d pa ty
    let new := atomNew k ty m b c
    let same := wordBytes ty new == wordBytes ty m
    let s := s.atomDone d pa (!same)
    let s := if same then s else s.dramWrite d pa (wordBytes ty new)
    s.answerLane r (.runv (atomOut ty m)) .dn

/-- The word that a merged contribution leaves (R339): integers and extremes in any order, a floating sum rounded once. -/
def aredNew (k : AKind) (ty : Ty) (m : Word) (vs : List Word) : Word :=
  let sum (half : Word → Word) (t : Ty) : Word := writeF t .rn (exSum .rn ((m :: vs).map fun v => readF t (half v)))
  if k = .fadd then
    if ty = .bf16 then
      w64 ((sum (fun v => w64 (field v 0 16)) .bf16).toNat % 2 ^ 16 + (sum (fun v => w64 (field v 16 16)) .bf16).toNat % 2 ^ 16 * 2 ^ 16)
    else sum id ty
  else vs.foldl (fun a v => atomNew k ty a v 0) m

/-- A contribution, or several that switches have merged, performs as one atomic at its word (R338, R339). -/
def doAred (s : State) (d pa : Nat) (r : Req) (k : AKind) (ty : Ty) (vs : List Word) : State :=
  if s.abBad d pa then s.answerBad d pa r
  else
    let m := atomRead s d pa ty
    let new := aredNew k ty m vs
    let same := wordBytes ty new == wordBytes ty m
    let s := s.atomDone d pa (!same)
    let s := if same then s else s.dramWrite d pa (wordBytes ty new)
    s.answerLane r .dn .dn

/-- A plain access's command at its pseudo-channel: one for a request, which the words of one share (R273, R406). -/
def State.demandOf (s : State) (d pa : Nat) (r : Req) : State := if r.part.isNone then s.demand d pa else s

/-- An access performs at its slice, or is deferred on its own condition (R320, R325, R328, R336, R366). -/
def performAt (s : State) (d pa : Nat) (r : Req) : State :=
  let p := r.piece
  let zone := decide (pa < (s.mdie d).npg * 2 ^ 18)
  match p.acc with
  | .loads l => if s.abBad d pa then s.answerBad d pa r else (s.demandOf d pa r).answer { req := r, vals := doLoads s d pa p l }
  | .readRow n =>
    if s.abBad d pa then s.answerBad d pa r else (s.demandOf d pa r).answer { req := r, bytes := s.readBytes (hbmAddr (d - 8) pa) n }
  | .stores l => ((doStores s d pa p l).demandOf d pa r).answer { req := r, vals := l.map fun e => (e.1, .dn, .dn) }
  | .writeRow bs => ((s.dramWrite d pa bs).demandOf d pa r).answer { req := r }
  | .atom k ty b c => doAtom s d pa r k ty b c
  | .ared k ty vs => doAred s d pa r k ty vs
  | .cask .. | .caddk .. =>
    match evalCont s d pa r with
    | some s => s
    | none => deferCont s d pa r
  | .itake | .iread | .iput _ => if zone then arriveI s d pa r else (countFault s d 0x03).answerErr r 0x03
  | .iclr =>
    if !zone then (countFault s d 0x03).answerErr r 0x03
    else if s.abBad d pa then s.answerBad d pa r
    else ((s.atomDone d pa ((s.mdie d).full pa)).onMdie d (·.setTag pa false) |>.answerLane r .dn .dn).serveWord d pa
  | .binit _ | .arrive | .bwait _ => if s.abBad d pa then s.answerBad d pa r else doBarrier s d pa r
  | .sys .. | .line .. => s

/-! ## Arrival at a slice (R259, R275, R305, R310, R329, R426) -/

/-- The granule of this module's device memory that a request accesses: its die and physical address; for the host window, 32 and the
offset (R253, R303). -/
def State.granOf (s : State) (r : Req) : Option (Nat × Nat) :=
  if vaG r.piece.va && vaDev r.piece.va != s.sw.fabid then none
  else if vaHome (homeVa r.piece.va) = 0x20 then some (32, granule (addr (homeVa r.piece.va) % 2 ^ 50))
  else match r.loc with
    | some (d, pa, _) => some (d, granule pa)
    | none => match ownerOf s (homeVa r.piece.va) with
      | .ok (some d) => ((s.mdie d).leaseOf r.jid (addr (homeVa r.piece.va))).map fun e =>
          (d, granule (xlate e.2.size e.2.w2 e.2.w3 (addr (homeVa r.piece.va))))
      | _ => none

/-- An earlier request from the same port or channel to the same granule, by whatever address (R275, R303). The words of one request
have no order. -/
def earlierSame (s : State) (n : Nat) (r : Req) : Bool :=
  (s.net.take n).any fun q => q.src == r.src && !q.isSys && !r.isSys && !(q.part.isSome && q.part == r.part)
    && (granule (addr q.piece.va) == granule (addr r.piece.va) || ((s.granOf q).isSome && s.granOf q == s.granOf r))

/-- Whether a release has still to wait for its release set (R305, R307). -/
def relWaits (s : State) (r : Req) : Bool :=
  match r.src with
  | .port t =>
    match (s.tile t).mop? r.own with
    | none => false
    | some o =>
      match s.frameOf o.firing with
      | none => false
      | some x => (x.outl.any fun e => o.rel.contains e.1) || (relFabric o.op o.f && !(s.aredsOf o.firing).isEmpty)
  | _ => false

/-- The operation of a release whose flush has still to be sent to the adapter (R426). -/
def relFlush (s : State) (r : Req) : Option (Nat × Nat) :=
  match r.src with
  | .port t =>
    match (s.tile t).mop? r.own with
    | some o => if relHost o.op o.f && !o.flush then some (t, o.id) else none
    | none => none
  | _ => none

/-- The page that a BIASREQ concerns. -/
def flipPage (s : State) (d : Nat) (r : Req) : Option (Nat × LEnt) :=
  match r.piece.acc with
  | .sys _ _ a _ _ => (s.mdie d).leaseOf r.jid (addr a)
  | _ => none

/-- Whether a physical address lies in a page; a slab is one page (R309). -/
def pageHolds (size : Nat) (w2 w3 : Word) (pa : Nat) : Bool :=
  if size = 3 then (List.range 256).any fun i => slabPage w2 w3 i == (pa / 2 ^ 18 : Nat)
  else field w2 11 37 * 2 ^ 11 / 2 ^ pageBits size == pa / 2 ^ pageBits size

/-- Whether a physical address lies in the page of a lease entry. -/
def LEnt.holds (e : LEnt) (pa : Nat) : Bool := pageHolds e.size e.w2 e.w3 pa

/-- Two lease entries of one physical page. -/
def LEnt.samePage (a b : LEnt) : Bool := a.size == b.size && a.w2 == b.w2 && a.w3 == b.w3

/-- Whether an earlier flip of a die waits or is in progress on the page of flip n (R316). -/
def flipBehind (s : State) (d n : Nat) (e : LEnt) : Bool :=
  ((s.mdie d).flips.take n).any fun q => (flipPage s d q).any fun g => g.2.samePage e

/-- The flips in progress, by place: the first 8 of those that wait for no other of their page (R310, R316). -/
def activeFlips (s : State) (d : Nat) : List Nat :=
  ((List.range (s.mdie d).flips.length).filter fun n =>
    match (s.mdie d).flips[n]? with
    | none => false
    | some r => !((flipPage s d r).any fun e => flipBehind s d n e.2)).take 8

/-- Whether a flip of the page of a physical address is in progress (R310). -/
def pageFlips (s : State) (d pa : Nat) : Bool :=
  (activeFlips s d).any fun n => (((s.mdie d).flips[n]?).bind (flipPage s d)).any fun e => e.2.holds pa

/-- Changing a request that is on its way. -/
def State.onNet (s : State) (n : Nat) (g : Req → Req) : State :=
  match s.net[n]? with
  | none => s
  | some r => { s with net := setNth s.net n (g r) }

/-- The aligned 8-byte words of n bytes at a physical address, as (offset, bytes). -/
def wordSpans (pa n : Nat) : List (Nat × Nat) :=
  (wordCuts (n + 1) pa (List.replicate n 0)).map fun w => (w.1 - pa, w.2.length)

/-- An access as accesses to one word each (R274, R300): pieces of rows by word, loads and stores by the words of their lanes. -/
def Piece.split (p : Piece) (pa : Nat) : List Piece :=
  match p.acc with
  | .readRow n => (wordSpans pa n).map fun x => { p with va := w64 (addr p.va + x.1), acc := .readRow x.2, off := x.1 }
  | .writeRow bs => (wordSpans pa bs.length).map fun x =>
      { p with va := w64 (addr p.va + x.1), acc := .writeRow ((bs.drop x.1).take x.2), off := x.1 }
  | .loads l => (groupBy (fun e => addr e.2.1 / 8) l).map fun g => { p with acc := .loads g.2, off := g.1 % 8 }
  | .stores l => (groupBy (fun e => addr e.2.1 / 8) l).map fun g => { p with acc := .stores g.2, off := g.1 % 8 }
  | _ => [p]

/-- Whether an access moves the words of a row (R300). -/
def Piece.isRow (p : Piece) : Bool := match p.acc with
  | .readRow _ | .writeRow _ => true
  | _ => false

/-- A request at its slice becomes one request for each word; its reply is made of theirs (R300). -/
def splitReq (s : State) (n : Nat) (r : Req) (d pa : Nat) (hb : Bool) : State :=
  let ps := r.piece.split pa
  let rs := ps.zipIdx.map fun p => { r with
    id := s.reqno + p.2, piece := p.1, part := some r.id, loc := some (d, pa + (addr p.1.va - addr r.piece.va), hb) }
  { s.demandOf d pa r with
    net := s.net.take n ++ rs ++ s.net.drop (n + 1), reqno := s.reqno + ps.length
    asm := AList.set s.asm r.id { req := r, die := d, pa := pa, left := ps.length } }

/-- Whether a pseudo-channel is occupied by a refresh or an RFM, and not just by a grant of this clk (R407, R409). -/
def PChan.refreshing (x : PChan) (clk : Nat) : Bool :=
  decide (clk < x.next) && !(x.next == clk + 1 && (x.busR == clk + 1 || x.busC == clk + 1))

/-- Whether an access goes to DRAM: an atomic whose granule the slice's buffer holds does not (R321). -/
def dramAccess (sl : Slice) (pa : Nat) : AccOp → Bool
  | .loads _ | .stores _ | .readRow _ | .writeRow _ => true
  | _ => !sl.ab.any fun g => g.1 == granule pa

/-- The access that request n of the net makes, translated, at its owning die: held by a snoop, by the clearing of the zone, by a
stalled input or by a held word (R329, R334, R426), or while its pseudo-channel refreshes (R407); otherwise it leaves the net and performs, a row word by word. A load or store
of several words of which one is held goes on as one access for each word. -/
def atSlice (s : State) (n : Nat) (r : Req) (d pa : Nat) (hb : Bool) : State :=
  let k := sliceOf pa
  let sl := (s.mdie d).slice k
  let r := { r with loc := some (d, pa, hb) }
  let s := s.onNet n fun _ => r
  let out := { s with net := dropNth s.net n }
  let heldWord := sl.df.any fun g => shareWord g pa r.piece
  if hb && !r.snooped then s.onNet n fun q => { q with held := true }
  else if (s.mdie d).isbusy && ((r.piece.acc.waitsFor).isSome || r.piece.acc == .iclr) then s
  else if sl.wait.isSome || (sl.stall.isSome && sl.stall != some r.id) then s
  else if dramAccess sl pa r.piece.acc && (s.pcNow d (pcOf pa)).refreshing s.clk then s
  else if r.part.isNone && (r.piece.isRow || heldWord) && decide (1 < (r.piece.split pa).length) then splitReq s n r d pa hb
  else
    let out := if sl.stall = some r.id then out.onSlice d k fun x => { x with stall := none } else out
    if heldWord then
      if sl.df.length < 32 then out.onSlice d k fun x => { x with df := x.df ++ [(pa, r)] }
      else if r.piece.acc.busyWhenFull then
        out.laneBusy d pa r (match r.piece.acc with
          | .iput _ => .dn
          | _ => .runv 0)
      else s.onSlice d k fun x => { x with stall := some r.id }
    else performAt out d pa r

/-- A device-memory request n of the net at its owner: bad home, dead die, the owner's spoke, lease, permission, and a hold while its page's
bias flips (R253, R259, R310, R388, R391, R417), then the slice. -/
def atOwner (s : State) (n : Nat) (r : Req) : State :=
  let out := { s with net := dropNth s.net n }
  match r.loc with
  | some (d, pa, hb) => atSlice s n r d pa hb
  | none =>
    match ownerOf s (homeVa r.piece.va) with
    | .error c => out.answerErr r c
    | .ok none => s
    | .ok (some d) =>
      if !s.spokeOpen d r.piece.va r.id then s
      else match leaseCheck s d r.jid (homeVa r.piece.va) r.piece.acc.need with
      | .error c => (countFault out d c).answerErr r c
      | .ok (pa, e) => if pageFlips s d pa then s else atSlice s n r d pa (nbits e.perm 4 1 == 1)

/-! ## Deferred continuations (R328, R329) -/

/-- What the accesses of a deferral list do once an atomic on the words `ws` has let go: each, in order, that shares no word with one
that stays proceeds; an ACASK or AADDK on another word stays, and so does one that finds no shuttle entry, and an access of the switch
die, which has its turn. -/
def followers : List (Nat × Req) → List Nat → Nat → List (Nat × Req) → State → List (Nat × Req) × State
  | [], _, _, kept, s => (kept, s)
  | e :: l, ws, d, kept, s =>
    if kept.any fun k => shareWord k e.1 e.2.piece then followers l ws d (kept ++ [e]) s
    else if e.2.piece.acc.isCont then
      if ws.any fun w => (wordsAt e.1 e.2.piece).contains w then
        match evalCont s d e.1 e.2 with
        | some s => followers l ws d kept s
        | none => followers l ws d (kept ++ [e]) s
      else followers l ws d (kept ++ [e]) s
    else if e.2.piece.acc matches .line .. then followers l ws d (kept ++ [e]) s
    else followers l ws d kept (performAt s d e.1 e.2)

/-- DEFERRED_CONTINUATION_RETRY: with a shuttle entry free, the oldest deferred ACASK or AADDK is evaluated again, and the accesses
behind it on its word proceed (R329). -/
def contRetry (s : State) (d k : Nat) : State :=
  let sl := (s.mdie d).slice k
  match sl.df.zipIdx.find? fun e => e.1.2.piece.acc.isCont with
  | none => s
  | some (e, i) =>
    if 64 ≤ sl.sh.length then s
    else match evalCont s d e.1 e.2 with
      | none => s
      | some s =>
        let (kept, s) := followers (dropNth sl.df i) (wordsAt e.1 e.2.piece) d [] s
        s.onSlice d k fun x => { x with df := kept }

/-! ## Withdrawal (R337) -/

/-- Whether an access can be withdrawn while it is deferred: those of group 0xB, and BWAIT (R337, R358). -/
def AccOp.withdrawable : AccOp → Bool
  | .atom .. | .cask .. | .caddk .. | .itake | .iread | .iput _ | .iclr | .ared .. | .bwait _ => true
  | _ => false

/-- Where a deferred request waits: (die, slice), in its deferral list or in its I-structure queue (R337). -/
def findDeferred (s : State) (id : Nat) : Option (Nat × Nat × Req) :=
  s.md.findSome? fun d => d.2.slices.findSome? fun sl =>
    ((sl.2.idq ++ sl.2.df).find? fun e => e.2.id == id && e.2.piece.acc.withdrawable).map fun e => (d.1, sl.1, e.2)

/-- A request leaves its slice unperformed; accesses held behind it on its word proceed, a deferred ACASK or AADDK only behind another
(R329, R337). -/
def withdraw (s : State) (d k : Nat) (r : Req) : State :=
  let sl := (s.mdie d).slice k
  let s := s.onSlice d k fun x => { x with idq := x.idq.filter (fun e => e.2.id != r.id), wdrs := x.wdrs + 1 }
  match sl.df.find? fun e => e.2.id == r.id with
  | none => s
  | some e =>
    let ws := if r.piece.acc.isCont then wordsAt e.1 e.2.piece else []
    let (kept, s) := followers (sl.df.filter fun g => g.2.id != r.id) ws d [] s
    s.onSlice d k fun x => { x with df := kept }

/-- The operation at a port that a request belongs to. -/
def State.opOf (s : State) (r : Req) : Option MemOp :=
  match r.src with
  | .port t => (s.tile t).mop? r.own
  | _ => none

/-- A request that a freeze wave has withdrawn goes back to its operation (R337, R377). -/
def lend (s : State) (r : Req) (o : MemOp) : State :=
  let t := o.firing.tile
  giveBack (s.onTile t fun c => c.onMop o.id fun o => { o with pieces := o.pieces ++ [r.piece], out := o.out - 1, lent := true }) t o.id

/-- The withdrawal of request n reaches its slice, for a frame that has entered ENDING: a request still deferred
leaves with a reply and no effect (R337). For a freeze wave the request goes back to its operation, whose counter is given back,
to issue again at THAW (R337, R377). -/
def requestWithdraw (s : State) (id : Nat) : State :=
  match findDeferred s id with
  | none => s
  | some (d, k, r) =>
    match s.opOf r with
    | none => s
    | some o =>
      if s.isEnding o.firing then (withdraw s d k r).answer { req := r }
      else if s.frozenAt o.firing.tile o.firing.ctx then
        lend (withdraw s d k r) r o
      else s

/-! ## Host-bias pages (R309, R316, R426) -/

/-- HOST_SNOOP_RESPONSE: the host has answered the snoop of held request n, or, with n past the net, one of the snoops for accesses
that are no requests of the net; a line that it had written comes back first. -/
def snoopResponse (s : State) (n : Nat) (line : Option (List Byte)) : State :=
  let back (s : State) (d pa : Nat) : State := match line with
    | some bs => if bs.length = 64 then s.dramWrite d (granule pa) bs else s
    | none => s
  match s.net[n]? with
  | none =>
    match s.sw.snoops[n - s.net.length]? with
    | some (d, g, false) => let s := back s d g
      { s with sw := { s.sw with snoops := setNth s.sw.snoops (n - s.net.length) (d, g, true) } }
    | _ => s
  | some r =>
    if !r.held then s
    else match r.loc with
      | some (d, pa, _) => (back s d pa).onNet n fun q => { q with held := false, snooped := true }
      | none => s.onNet n fun q => { q with held := false }

/-- The address of the page-table entry that maps an address of a job, by the walk of R256. -/
def pteAddr (s : State) (d jid : Nat) (va : Word) : Option Nat :=
  let r := rootOf s d jid (vaHome va == 16)
  let rec go : Nat → Nat → Nat → Option Nat
    | 0, _, _ => none
    | n + 1, lv, table =>
      let a := table + 8 * nbits (addr va % 2 ^ 50) (42 - 8 * lv) 8
      let e := s.readWord (hbmAddr (d - 8) a)
      if field e 0 1 = 0 then none
      else if field e 1 2 = 0 then go n (lv + 1) (field e 11 37 * 2 ^ 11)
      else some a
  if field r 0 1 = 0 then none else go 4 0 (field r 11 37 * 2 ^ 11)

/-- Setting bit `lo` of a word. -/
def setBit (w : Word) (lo : Nat) (b : Bool) : Word := w64 (w.toNat - field w lo 1 * 2 ^ lo + bit b * 2 ^ lo)

/-- The bias HB of an entry's page, written into the lease entries and translations of its physical page and the page table (R316). -/
def setBias (s : State) (d jid : Nat) (va : Word) (e : LEnt) (host : Bool) : State :=
  let perm (p : Nat) : Nat := p % 16 + bit host * 16
  let same (size : Nat) (w2 w3 : Word) : Bool := size == e.size && w2 == e.w2 && w3 == e.w3
  let s := s.onMdie d fun c => { c with
    lt := c.lt.map fun x => if same x.2.size x.2.w2 x.2.w3 then (x.1, { x.2 with perm := perm x.2.perm }) else x
    tlb := c.tlb.map fun x => if same x.size x.w2 x.w3 then { x with perm := perm x.perm } else x }
  match pteAddr s d jid va with
  | some a => s.dramWord d a (setBit (s.dramGet d a) 7 host)
  | none => s

/-- The status of BIASREQ (R316). -/
def biasStatus (code : Nat) (e : LEnt) : LVal := .scal (w64 (code + e.size * 2 ^ 8))

/-- BIASREQ at its owning die (R316): a flip in progress on the page comes first. -/
def biasArrive (s : State) (n : Nat) (r : Req) (sub : Nat) (a : Word) : State :=
  let out := { s with net := dropNth s.net n }
  let fail (c : Nat) : State := out.answerVa r c a
  if vaG a then fail 0x02
  else match ownerOf s a with
    | .error c => fail c
    | .ok none => s
    | .ok (some d) =>
      match (s.mdie d).leaseOf r.jid (addr a) with
      | none => (countFault out d 0x01).answerVa r 0x01 a
      | some (_, e) =>
        if nbits e.perm 1 1 = 0 then (countFault out d 0x03).answerVa r 0x03 a
        else if !flipBehind s d (s.mdie d).flips.length e && nbits e.perm 4 1 == bit (sub == 0) then
          out.answerLane r (biasStatus 1 e) .dn
        else out.onMdie d fun c => { c with flips := c.flips ++ [r] }

/-- Whether an access that a die has translated to the page of an entry has still to perform (R316). -/
def pageBusy (s : State) (d : Nat) (e : LEnt) : Bool :=
  ((s.mdie d).slices.any fun sl => (sl.2.df ++ sl.2.idq).any fun g => e.holds g.1)
    || s.net.any fun r => match r.loc with
      | some (d', pa, _) => d' == d && e.holds pa
      | none => false

/-- BIAS_FLIP_COMPLETE: flip n of a die, one of those in progress, completes once every access that the die has translated to the
page has performed; `lines` are the lines that the host held, with the bytes of those it wrote back as (offset in the
page, bytes) (R316). -/
def biasComplete (s : State) (d n lines : Nat) (back : List (Nat × List Byte)) : State :=
  match (s.mdie d).flips[n]? with
  | none => s
  | some r =>
    match r.piece.acc, flipPage s d r with
    | .sys _ sub a _ _, some (_, e) =>
      if !(activeFlips s d).contains n || pageBusy s d e then s
      else
        let s := s.onMdie d fun c => { c with flips := dropNth c.flips n }
        if nbits e.perm 4 1 = bit (sub == 0) then s.answerLane r (biasStatus 1 e) .dn
        else
          let s := if sub = 0 then s else
            (back.foldl (fun (s : State) b =>
              s.dramWrite d (granule (xlate e.size e.w2 e.w3 (e.vpage * 2 ^ 18 + b.1 % 2 ^ pageBits e.size))) (b.2.take 64)) s).onMdie d
              fun c => { c with bfbinv := c.bfbinv + w64 lines }
          let s := (setBias s d r.jid a e (sub == 0)).onMdie d fun c => { c with bfcnt := c.bfcnt + 1 }
          let s := { s with sw := { s.sw with snoops := s.sw.snoops.filter fun x => !(x.1 == d && e.holds x.2.1) } }
          s.answerLane r (biasStatus 0 { e with perm := 0 }) .dn
    | _, _ => (s.onMdie d fun c => { c with flips := dropNth c.flips n }).answerErr r 0x01

end Sys2Proof.Machine
end

