-- ==== Sys2Proof/Machine/Copies.lean ====
section
/-! DEFINITION. Copy channels and group 0xA (R291 to R298, R373). -/

namespace Sys2Proof.Machine

/-! ## Channels -/

/-- CC of an instruction of group 0xA (R294). -/
def ccOf (f : Fields) : Nat := xbits f.x 0 2
/-- The memory tile of an instruction of group 0xA (R291). -/
def copyTile (fr : Firing) (f : Fields) : Nat := memTileOf fr.tile (xbits f.x 2 1)
/-- ALLOT of MTCCHc (R291, R299). -/
def MTile.chanAllot (c : MTile) (ctx n : Nat) : Bool := nbits (AList.getD c.callot ctx 0xF) n 1 == 1

/-- The bytes of a piece of a row. -/
def Piece.bytes (p : Piece) : Nat := match p.acc with
  | .readRow n => n
  | .writeRow bs => bs.length
  | _ => 0

/-- Whether a copy's requests have all been answered. -/
def Copy.quiet (c : Copy) : Bool := c.done.length == c.sent

/-- The bytes of the longest prefix of pieces that have arrived. -/
def prefixBytes (done : List Nat) : List Piece → Nat → Nat
  | [], _ => 0
  | p :: ps, i => if done.contains i then p.bytes + prefixBytes done ps (i + 1) else 0

/-- The outputs of a CPYM that is cancelled: a status with ERR = 1, done; both handles are released (R296). -/
def cpymCancelled (s : State) (c : Copy) : State :=
  (((s.releaseOps c.firing).emit1 c.firing c.f.d0 c.lane (.scal (w64 (2 ^ 63)))).emit1 c.firing c.f.d1 c.lane .dn).uncount c.firing .ocp

/-- The end of a copy: CPY emits its handle; CPYM's MMA waits for the matrix queue, unless it was cancelled (R295, R296, R298). -/
def copyEnd (s : State) (m n : Nat) (c : Copy) : State :=
  if c.op = 0xA1 then
    if c.cancel then cpymCancelled s c else s.onChan m n fun x => { x with mma := x.mma ++ [c] }
  else (s.emit1 c.firing c.f.d0 c.lane (.hand (rehandle s (tileDie m) c.handle))).uncount c.firing .ocp

/-- The CPYCANs of a channel that are complete emit done: none of the copies that they cancelled is left (R298). -/
def releaseCans (s : State) (m n : Nat) : State :=
  let x := (s.mtile m).chan n
  if x.copies.any (·.cancel) then s
  else
    (x.cans).foldl (fun (s : State) c => ((s.emit1 c.1 c.2.1.d0 c.2.2.1 (.scal (w64 c.2.2.2))).emit1 c.1 c.2.1.d1 c.2.2.1 .dn).uncount c.1 .ocp)
      (s.onChan m n fun x => { x with cans := [] })

/-- The copy in progress while it is complete: WP reaches its END, also past bytes that never arrive, and the next begins (R292,
R298). -/
def chanSettle : Nat → State → Nat → Nat → State
  | 0, s, _, _ => s
  | k + 1, s, m, n =>
    match ((s.mtile m).chan n).copies with
    | [] => s
    | c :: rest =>
      if c.quiet && (c.cancel || c.done.length == c.pieces.length) then
        let s := s.onChan m n fun x => { x with wp := c.stop, copies := rest }
        chanSettle k (copyEnd (releaseWaits s m n) m n c) m n
      else
        releaseWaits (s.onChan m n fun x => { x with wp := (c.start + prefixBytes c.done c.pieces 0) % 2 ^ 32 }) m n

/-- A channel after a change. -/
def State.settle (s : State) (m n : Nat) : State :=
  releaseCans (chanSettle (((s.mtile m).chan n).copies.length + 1) s m n) m n

/-- Cancelling the copies of a channel that a test picks out (R298). -/
def cancelCopies (s : State) (m n : Nat) (test : Copy → Bool) : State :=
  s.onChan m n fun x => { x with copies := x.copies.map fun c => if test c then { c with cancel := true } else c }

/-- The copies of a frame are cancelled on every channel of its quad, those on their way included (R298, R368). -/
def cancelFrameCopies (s : State) (t fi : Nat) : State :=
  let mine (c : Copy) : Bool := c.firing.tile == t && c.firing.fi == fi
  [memTileOf t 0, memTileOf t 1].foldl (fun (s : State) m =>
    let s := s.onMtile m fun x => { x with cin := x.cin.map fun c => if mine c then { c with cancel := true } else c }
    (List.range 4).foldl (fun (s : State) n =>
      if ((s.mtile m).chan n).copies.any mine then (cancelCopies s m n mine).settle m n else s) s) s

/-! ## Instructions (R294 to R298) -/

/-- CPY and CPYM issue: the copy of each lane goes to its memory tile and counts in OCP; poison on the lowest lane raises (R294, R295,
R458). -/
def runCopy (op : Nat) (f : Fields) (s : State) : State :=
  withFiring s fun fr s =>
    match poisonPort fr 3 0 with
    | some (p, r) => (s.releaseOps fr).raisePoison fr p 0 r
    | none =>
      let jid := s.jidOf fr
      let t := s.onMtile (copyTile fr f) fun c => { c with cin := c.cin ++ (lanesOf fr).map fun i =>
        { id := s.opno + i, firing := fr, f := f, op := op, jid := jid, lane := i, handle := 0 } }
      (lanesOf fr).foldl (fun (s : State) _ => s.count fr .ocp) { t with opno := s.opno + fr.rl }

/-- The follow-on word of a CPYM: K[CK] (R296). -/
def followWord (s : State) (c : Copy) : Word := s.constOf c.firing c.f.ck.toNat

/-- The pitch of a copy: port c of CPY, bits 63:32 of CPYM's follow-on word (R295, R296). -/
def copyPitch (s : State) (c : Copy) : Word :=
  if c.op = 0xA1 then w64 (field (followWord s c) 32 32) else laneWord s c.firing c.f 2 c.lane

/-- Whether a copy writes its buffer. -/
def Copy.isIn (c : Copy) : Bool := c.op == 0xA1 || c.f.sub == 0

/-- The pieces of a copy, in destination order; `lane` numbers them (R292, R295). -/
def copyPieces (c : Copy) (b : Buf) (base pitch : Nat) : List Piece :=
  (((pitchRows b base pitch).flatMap fun r => rowPieces c.isIn r.1 r.2 (rowBytes b.x.shape)).zipIdx).map fun p =>
    { p.1 with lane := p.2 }

/-- The checks that a channel makes of a copy (R184, R286, R291, R295, R296): its buffer, base and pitch. -/
def copyCheck (s : State) (m : Nat) (c : Copy) : Except Err (Buf × Nat × Nat) :=
  let fr := c.firing
  if !(s.mtile m).chanAllot fr.ctx (ccOf c.f) then .error { cause := 0x03, lane := c.lane }
  else match needHandle s fr 0 c.lane true c.isIn with
    | .error e => .error e
    | .ok h =>
      if hTile (tileDie m) h ≠ m then .error { cause := 0x05, port := 0, lane := c.lane, extra := h }
      else if c.op = 0xA1 ∧ field (followWord s c) 16 16 ≠ 0 then .error { cause := 0x04, lane := c.lane, extra := followWord s c }
      else
        let b := bufOf s (tileDie m) h
        match pitchFault c.f b (laneWord s fr c.f 1 c.lane) (copyPitch s c) with
        | some e => .error { e with lane := c.lane, port := if c.op = 0xA1 ∧ e.port = 2 then 3 else e.port }
        | none => .ok (b, addr (laneWord s fr c.f 1 c.lane), (copyPitch s c).toNat)

/-- A lane of a copying firing faults as it is accepted: the lanes above it, on their way to the same channel, are not performed (R458). -/
def copyRefuse (s : State) (m : Nat) (c : Copy) : State :=
  let up (d : Copy) : Bool := d.firing == c.firing && decide (c.lane < d.lane)
  let n := ((s.mtile m).cin.filter up).length
  let s := (s.onMtile m fun x => { x with cin := x.cin.filter fun d => !up d }).releaseOps c.firing
  (List.range (n + 1)).foldl (fun (s : State) _ => s.uncount c.firing .ocp) s

/-- COPY_ACCEPT: the channel accepts copy n on its way: it is checked, takes its span, and CPY emits END (R291, R292, R295). -/
def copyAccept (s : State) (m n : Nat) : State :=
  let x := s.mtile m
  match x.cin[n]? with
  | none => s
  | some c =>
    let k := ccOf c.f
    let drop (s : State) : State := s.onMtile m fun x => { x with cin := dropNth x.cin n }
    if (x.cin.take n).any fun d => d.firing.tile == c.firing.tile && ccOf d.f == k then s
    else if c.cancel then
      if c.op = 0xA1 then cpymCancelled (drop s) c else ((drop s).releaseOps c.firing).uncount c.firing .ocp
    else if 8 ≤ (x.chan k).copies.length then s
    else match poisonPort c.firing 3 c.lane, copyCheck s m c with
      | some (p, r), _ => (copyRefuse (drop s) m c).raisePoison c.firing p c.lane r
      | none, .error e => (copyRefuse (drop s) m c).raise c.firing e
      | none, .ok (b, base, pitch) =>
        let ch := x.chan k
        let start := if ch.copies.isEmpty then ch.wp else ch.stop
        let stop := (start + b.rows * rowBytes b.x.shape) % 2 ^ 32
        let c := { c with handle := (opAt c.firing.ops 0 c.lane).word, start := start, stop := stop, pieces := copyPieces c b base pitch }
        let s := ((drop s).onChan m k fun ch => { ch with stop := stop, copies := ch.copies ++ [c] }).onTile c.firing.tile fun t =>
          t.markActive (some c.jid)
        if c.op = 0xA1 then s else s.emit1 c.firing c.f.d1 c.lane (.scal (w64 stop))

/-- A channel's test of an instruction that names it: allotment (R291). -/
def chanLane (fr : Firing) (f : Fields) (g : State → State) (i : Nat) (s : State) : State :=
  let s := s.releaseAll (tileDie fr.tile) (laneHandles fr i)
  if !(s.mtile (copyTile fr f)).chanAllot fr.ctx (ccOf f) then s.raise fr { cause := 0x03, lane := i } else g s

/-- CPYWP (R297). -/
def runCpywp (f : Fields) (s : State) : State :=
  withFiring s fun fr s => perLane fr (orPoison fr f fun i s =>
    chanLane fr f (fun s => s.emit1 fr f.d0 i (.scal (w64 ((s.mtile (copyTile fr f)).chan (ccOf f)).wp))) i s) s

/-- CPYWAIT (R297). -/
def runCpywait (f : Fields) (s : State) : State :=
  withFiring s fun fr s => perLane fr (orPoison fr f fun i s =>
    let t := (laneWord s fr f 0 i).toNat % 2 ^ 32
    let m := copyTile fr f
    chanLane fr f (fun s =>
      let s := (s.count fr .ocp).onChan m (ccOf f) fun x => { x with wq := x.wq ++ [(fr, f, t, i)] }
      releaseWaits s m (ccOf f)) i s) s

/-- CPYCAN on one lane (R298): the copies accepted from the requester's context slot number on a tile where that slot belongs to the
requester's job. -/
def cpycanLane (fr : Firing) (f : Fields) (i : Nat) (s : State) : State :=
  let m := copyTile fr f
  let k := ccOf f
  let mine (c : Copy) : Bool := c.firing.ctx == fr.ctx && s.jobAt c.firing.tile fr.ctx == s.jobOf fr && !c.cancel
  let n := (((s.mtile m).chan k).copies.filter mine).length
  let s := ((cancelCopies s m k mine).count fr .ocp).onChan m k fun x => { x with cans := x.cans ++ [(fr, f, i, n)] }
  s.settle m k

/-- CPYCAN (R298). -/
def runCpycan (f : Fields) (s : State) : State :=
  withFiring s fun fr s => perLane fr (orPoison fr f fun i s => chanLane fr f (cpycanLane fr f i) i s) s

/-! ## Requests and replies (R293, R295, R296) -/

/-- The request that channel n of a memory tile has ready: its copy in progress, not cancelled, with fewer than 64 requests without
replies, with credit, not stopped by a freeze wave, and taken by the spoke of its die (R293, R377, R412, R417). -/
def chanReady (s : State) (m n : Nat) : Option (Copy × Piece) :=
  match ((s.mtile m).chan n).copies with
  | [] => none
  | c :: _ =>
    if c.cancel || s.frozenAt c.firing.tile c.firing.ctx || 64 ≤ c.sent - c.done.length || !(s.tile c.firing.tile).hasCredit c.jid then none
    else (c.pieces[c.sent]?.filter fun p => s.maySend m p).map fun p => (c, p)

/-- The copy in progress of a channel, changed. -/
def State.onCopy (s : State) (m n id : Nat) (g : Copy → Copy) : State :=
  s.onChan m n fun x => { x with copies := x.copies.map fun c => if c.id == id then g c else c }

/-- A copy that fails: its unit takes the fault and it is cancelled (R295). -/
def copyFault (s : State) (m n : Nat) (c : Copy) (cause port : Nat) (va extra : Word) : State :=
  ((s.onCopy m n c.id fun c => { c with cancel := true }).settle m n).raise c.firing
    { cause := cause, port := port, lane := c.lane, va := va, extra := extra }

/-- The buffer of a copy. -/
def Copy.buf (s : State) (m : Nat) (c : Copy) : Buf := bufOf s (tileDie m) c.handle

/-- Issuing one request of a copy; .OUT reads its bytes now, and a poisoned source raises (R293, R373). -/
def copySend (s : State) (m n : Nat) (c : Copy) (p : Piece) : State :=
  let go (s : State) (p : Piece) : State :=
    let s := s.onTile c.firing.tile fun t => t.pay c.jid
    let s := s.onCopy m n c.id fun c => { c with sent := c.sent + 1 }
    (s.onMtile m fun x => { x with crr := n }).send (.chan m n) c.id c.jid p (c.firing.place 0 c.lane)
  match p.acc with
  | .writeRow bs =>
    match storeBytes s (.copy m c.id) (c.buf s m) p bs.length with
    | (s, .ok bs) => go s { p with acc := .writeRow bs }
    | (s, .error r) => copyFault s m n c 0x07 0 (w64 (addr (laneWord s c.firing c.f 1 c.lane))) r.w0
  | _ => go s p

/-- COPY_REQUEST_ISSUE: the memory tile's port takes one request, round-robin among the channels that have one ready (R293). -/
def copyIssue (s : State) (m : Nat) : State :=
  let x := s.mtile m
  match (List.range 4).findSome? fun i =>
    let n := (x.crr + 1 + i) % 4
    (chanReady s m n).map fun q => (n, q) with
  | none => s
  | some (n, c, p) => copySend s m n c p

/-- Whether a reply belongs to a channel of a memory tile. -/
def Rep.forChan (m : Nat) (r : Rep) : Bool := match r.req.src with
  | .chan u _ => u == m
  | _ => false

/-- The next word of a reply lands at a memory tile; with the last word of a piece WP may advance (R292, R300). -/
def copyWord (s : State) (m : Nat) : State :=
  match (List.range 4).find? fun k => !((s.mtile m).chan k).land.isEmpty with
  | none => s
  | some k =>
    match ((s.mtile m).chan k).land with
    | [] => s
    | (id, off, bs, last) :: rest =>
      let s := (s.padWrite m off bs).onChan m k fun x => { x with land := rest, bytes := x.bytes + w64 bs.length }
      match last with
      | some p => (s.onCopy m k id fun c => { c with done := c.done ++ [p] }).settle m k
      | none => s

/-- The words of a piece, the last with the piece's number. -/
def landWords (id p off : Nat) (bs : List Byte) : List (Nat × Nat × List Byte × Option Nat) :=
  let ws := wordCuts (bs.length + 1) off bs
  ws.zipIdx.map fun w => (id, w.1.1, w.1.2, if w.2 + 1 = ws.length then some p else none)

/-- COPY_REPLY_LAND: the n-th reply for a memory tile's channels: its bytes are to land, or have performed, and WP advances (R292,
R295). With n past them, the next word of a reply lands. -/
def copyLand (s : State) (m n : Nat) : State :=
  match s.nthRep (Rep.forChan m) n with
  | none => copyWord s m
  | some (r, i) =>
    let s := { s with reps := dropNth s.reps i }
    match r.req.src with
    | .chan _ k =>
      match ((s.mtile m).chan k).copies.find? fun c => c.id == r.req.own with
      | none => s
      | some c =>
        let b := c.buf s m
        let p := r.req.piece
        if c.isIn && r.cause == 0 then
          s.onChan m k fun x => { x with
            land := x.land ++ landWords c.id p.lane (b.x.rowOff p.row + p.off) (landPart s b p.row p.off r.bytes) }
        else
        let s := s.onCopy m k c.id fun c => { c with done := c.done ++ [p.lane] }
        if r.cause ≠ 0 then
          if c.isIn && c.op != 0xA1 && xbits c.f.x 3 1 == 1 then
            (s.taint b.m b.d (poisonOf c.firing r.cause 1 (c.firing.lb + c.lane) p.va)).settle m k
          else copyFault s m k c r.cause 1 p.va r.extra
        else
          (s.onChan m k fun x => { x with bytes := x.bytes + w64 p.bytes }).settle m k
    | _ => s

/-- The firing of the MMA that follows a CPYM: the two panels, and the command word (R296). -/
def followFiring (s : State) (c : Copy) : Firing :=
  let a := opAt c.firing.ops 0 c.lane
  let o := opAt c.firing.ops 2 c.lane
  { c.firing with ops := [[if c.f.sub == 0 then a else o], [if c.f.sub == 0 then o else a],
      [.scal (w64 (field (followWord s c) 0 32))]] }

/-- CPYM_MMA_DELIVER: the n-th follow-on operation of a memory tile's channels goes to the matrix queue of its compute tile once
that has room (R296). -/
def cpymDeliver (s : State) (m n : Nat) : State :=
  match ((List.range 4).flatMap fun k => (((s.mtile m).chan k).mma.map fun c => (k, c)))[n]? with
  | none => s
  | some (k, c) =>
    let t := c.firing.tile
    let drop (s : State) : State := s.onChan m k fun x => { x with mma := x.mma.filter fun d => d.id != c.id }
    if s.isEnding c.firing then ((drop s).releaseOps c.firing).uncount c.firing .ocp
    else if QId.mat.depth ≤ (s.tile t).qmat.ents.length || s.frozenAt t c.firing.ctx then s
    else (drop s).onTile t fun x =>
      x.setQueue .mat { x.qmat with ents := x.qmat.ents ++ [(s.clk, followFiring s c)] }

end Sys2Proof.Machine
end

