-- ==== Sys2Proof/Machine/Queues.lean ====
section
/-! DEFINITION. Work queues: jobs, storage, push and pop, QPUSH, QPOP, QCNT, LAUNCH, QCTL (R341 to R347, R360 to R365). -/

namespace Sys2Proof.Machine

/-! ## Jobs and queues (R341, R342) -/

/-- A job. -/
def State.job (s : State) (j : Nat) : Job := AList.getD s.sw.jobs j {}
/-- Changing a job. -/
def State.onJob (s : State) (j : Nat) (g : Job → Job) : State := { s with sw := { s.sw with jobs := AList.set s.sw.jobs j (g (s.job j)) } }
/-- Changing the switch die. -/
def State.onSw (s : State) (g : Switch → Switch) : State := { s with sw := g s.sw }
/-- A queue. -/
def State.queue (s : State) (q : Nat) : Queue := AList.getD s.sw.queues q {}
/-- Changing a queue. -/
def State.onQueue (s : State) (q : Nat) (g : Queue → Queue) : State :=
  { s with sw := { s.sw with queues := AList.set s.sw.queues q (g (s.queue q)) } }

/-- The occupancy of a queue (R342). -/
def Queue.occ (q : Queue) : Nat := (q.tail + 2 ^ 32 - q.head) % 2 ^ 32
/-- The depth of a queue. -/
def Queue.depth (q : Queue) : Nat := 2 ^ q.dlog
/-- A full queue. -/
def Queue.full (q : Queue) : Bool := decide (q.depth ≤ q.occ)
/-- Where entry i is stored, in the owner's address space. -/
def Queue.slotVa (q : Queue) (i : Nat) : Word := w64 (q.base * 64 + 64 * (i % q.depth))

/-- Whether a job may fault on a system register or queue of another: a valid job with SYS = 1 (R341). -/
def State.sysJob (s : State) (j : Nat) : Bool := (s.job j).valid && (s.job j).sys

/-! ## Accesses of the switch die to job memory (R343, R425) -/

/-- Where an access of the switch die lands: host memory, a die's DRAM, another module. -/
inductive Spot where
  | host (a : Nat)
  | dram (d pa : Nat)
  | away (a : Nat)
deriving DecidableEq, Repr

/-- The G = 0 address that an access of a job names at this module; none where it names another module; a cause without FABEN or a valid
job (R253, R428). -/
def homeOf (s : State) (jid : Nat) (va : Word) : Except Nat (Option Word) :=
  if !vaG va then .ok (some va)
  else if !jobBit s.sw.faben jid then .error 0x03
  else if vaDev va = s.sw.fabid then (if (s.job jid).valid then .ok (some (vaLocal va)) else .error 0x01)
  else .ok none

/-- What another module answers to an access of the switch die at an address now (log entry 127). -/
def awayAt (s : State) (va : Word) : Except Nat Spot :=
  let c := Config.remoteCause s.clk (addr va)
  if [0x01, 0x02, 0x03, 0x0D, 0x12].contains c then .error c else .ok (.away (addr va))

/-- Where an access of a job lands (R253, R259, R425, R428); a cause otherwise. -/
def locate (s : State) (jid : Nat) (va : Word) (need : Need) : Except Nat Spot :=
  match homeOf s jid va with
  | .error c => .error c
  | .ok none => awayAt s va
  | .ok (some v) =>
    if vaHome v = 0x20 then
      if jobBit s.sw.adphj jid && decide (addr v % 2 ^ 50 < s.sw.hwsize) then .ok (.host (hostAddr s.sw.hwbase + addr v % 2 ^ 50))
      else .error 0x03
    else match ownerOf s v with
      | .error c => .error c
      | .ok none => .error 0x12
      | .ok (some d) => match leaseCheck s d jid v need with
        | .error c => .error c
        | .ok (pa, _) => .ok (.dram d pa)

/-- Reading n bytes inside one granule. -/
def Spot.read (s : State) (n : Nat) : Spot → Except Nat (List Byte)
  | .host a => .ok (s.readBytes a n)
  | .dram d pa => if s.abBad d pa then .error 0x0D else .ok (s.readBytes (hbmAddr (d - 8) pa) n)
  | .away a => .ok ((List.range n).map fun i => Config.remoteByte s.clk (a + i))

/-- Writing bytes inside one granule. -/
def Spot.write (s : State) (bs : List Byte) : Spot → State
  | .host a => s.writeBytes a bs
  | .dram d pa => s.dramWrite d pa bs
  | .away _ => s

/-- Reading n bytes inside one granule as a job. -/
def jobRead (s : State) (jid : Nat) (va : Word) (n : Nat) (need : Need := .r) : Except Nat (List Byte) :=
  match locate s jid va need with
  | .error c => .error c
  | .ok p => p.read s n

/-- Writing bytes inside one granule as a job. -/
def jobWrite (s : State) (jid : Nat) (va : Word) (bs : List Byte) (need : Need := .w) : Except Nat State :=
  match locate s jid va need with
  | .error c => .error c
  | .ok p => .ok (p.write s bs)

/-! ## When an access that is no request of the net may perform (R301, R309, R310, R320, R329, R390, R426) -/

/-- The entry that an access of n bytes takes in a deferral list (R329; log entry 126). -/
def lineReq (pa n st : Nat) : Req :=
  { id := 0, src := .outside, own := 0, jid := 0, piece := { va := w64 pa, acc := .line n st } }

/-- Whether an entry of a deferral list is that of an access of n bytes at an address. -/
def lineOf (pa n : Nat) (e : Nat × Req) : Bool := e.1 == pa && match e.2.piece.acc with
  | .line m _ => m == n
  | _ => false

/-- Whether entries hold a word of n bytes at an address. -/
def holdsWord (l : List (Nat × Req)) (pa n : Nat) : Bool := l.any fun e => shareWord e pa (lineReq pa n 0).piece

/-- An access of n bytes at a physical address may not perform yet: an entry that it has in the deferral list is behind another on its
words; without one, its page's bias flips, the TC0 input of its slice waits, where it travels in that class, or one of its words is held
(R310, R329, R333). -/
def State.lineHeld (s : State) (d pa n : Nat) (tc1 : Bool := false) : Bool :=
  let sl := (s.mdie d).slice (sliceOf pa)
  if sl.df.any (lineOf pa n) then holdsWord (sl.df.takeWhile fun e => !lineOf pa n e) pa n
  else pageFlips s d pa || (!tc1 && (sl.stall.isSome || sl.wait.any (· != (pa, n)))) || holdsWord sl.df pa n

/-- An access that arrives for a held word takes an entry behind it; where the list is full, it waits at the head of the TC0 input (R329). -/
def State.lineArrive (s : State) (d pa n : Nat) (tc1 : Bool) : State :=
  let k := sliceOf pa
  let sl := (s.mdie d).slice k
  if !s.lineHeld d pa n tc1 || sl.df.any (lineOf pa n) || pageFlips s d pa || !holdsWord sl.df pa n then s
  else if sl.df.length < 32 then s.onSlice d k fun x => { x with
    df := x.df ++ [(pa, lineReq pa n 0)], wait := if x.wait = some (pa, n) then none else x.wait }
  else if tc1 || sl.stall.isSome || sl.wait.isSome then s
  else s.onSlice d k fun x => { x with wait := some (pa, n) }

/-- An access has its turn: its entry is in state st. -/
def State.lineTake (s : State) (st d pa n : Nat) : State :=
  let k := sliceOf pa
  let sl := (s.mdie d).slice k
  if sl.df.any (lineOf pa n) || sl.wait == some (pa, n) then s.onSlice d k fun x => { x with
    df := x.df.map fun e => if lineOf pa n e then (pa, lineReq pa n st) else e
    wait := if x.wait = some (pa, n) then none else x.wait }
  else s

/-- Whether an entry of a deferral list is that of an access in state st. -/
def lineIn (st : Nat) (e : Nat × Req) : Bool := match e.2.piece.acc with
  | .line _ k => k == st
  | _ => false

/-- Whether a physical address lies in a host-bias page, as the lease entries and translations record it (R309). -/
def State.hostBias (s : State) (d pa : Nat) : Bool :=
  ((s.mdie d).lt.any fun e => nbits e.2.perm 4 1 == 1 && e.2.holds pa)
    || (s.mdie d).tlb.any fun e => nbits e.perm 4 1 == 1 && pageHolds e.size e.w2 e.w3 pa

/-- The accesses that had their turn have been made. -/
def State.lineDone (s : State) : State :=
  if s.md.any fun m => m.2.slices.any fun sl => sl.2.df.any (lineIn 1) then
    { s with md := s.md.map fun m => (m.1, { m.2 with slices := m.2.slices.map fun sl => (sl.1, { sl.2 with
        df := sl.2.df.map fun e => match e.2.piece.acc with
          | .line n 1 => (e.1, lineReq e.1 n 2)
          | _ => e }) }) }
  else s

/-- What has waited for answered snoops and for its turn at slices has been done: the snoops serve no later access. -/
def State.spend (s : State) : State := s.lineDone.onSw fun w => { w with snoops := w.snoops.filter fun x => !x.2.2 }

/-- Accesses at (die, physical address, bytes) by the switch die or a memory die: they wait while one of them is held, with an entry behind
the held word, and until the host has answered the snoop of each line in host bias, which is sent first (R309, R329, R426). -/
def State.gate (s : State) (ls : List (Nat × Nat × Nat)) (tc1 : Bool := false) : State × Bool :=
  if ls.any fun l => s.lineHeld l.1 l.2.1 l.2.2 tc1 then (ls.foldl (fun (s : State) l => s.lineArrive l.1 l.2.1 l.2.2 tc1) s, false)
  else
    let need := ((ls.filter fun l => s.hostBias l.1 l.2.1).map fun l => (l.1, granule l.2.1)).eraseDups
    let answered (l : Nat × Nat) : Bool := s.sw.snoops.contains (l.1, l.2, true)
    if need.all answered then (ls.foldl (fun (s : State) l => s.lineTake 1 l.1 l.2.1 l.2.2) s, true)
    else
      let new := need.filter fun l => !s.sw.snoops.any fun x => x.1 == l.1 && x.2.1 == l.2
      (s.onSw fun w => { w with snoops := w.snoops ++ new.map fun l => (l.1, l.2, false) }, false)

/-- Whether an access waits at the switch die: its home is NOTREADY, or the home table is not written (R390); or, with G = 1, its link
does not take it (R421, R428). -/
def ownerWaits (s : State) (jid : Nat) (va : Word) : Bool := match homeOf s jid va with
  | .error _ => false
  | .ok none => !fabricOpen s va
  | .ok (some v) => (vaG va && !fabricOpen s va) || (ownerOf s v matches .ok none)

/-- Whether n bytes at an address, located by `loc`, may be accessed now; the state carries the snoops sent and the entries taken. -/
def State.accessGate (s : State) (loc : Word → Except Nat Spot) (jid va n : Nat) (tc1 : Bool := false) : State × Bool :=
  let cs := cuts (n / 64 + 2) va 0 n
  if cs.any fun c => ownerWaits s jid (w64 (va + c.1)) then (s, false)
  else s.gate (cs.filterMap fun c => match loc (w64 (va + c.1)) with
    | .ok (.dram d pa) => some (d, pa, c.2)
    | _ => none) tc1

/-- The same for an access of a job through its leases. -/
def State.jobGate (s : State) (jid : Nat) (va : Word) (n : Nat) (need : Need) (tc1 : Bool := false) : State × Bool :=
  s.accessGate (fun v => locate s jid v need) jid (addr va) n tc1

/-- The die that raises a lease or permission fault of an access of a job counts it (R266); another module's faults count there. -/
def countAt (s : State) (jid : Nat) (va : Word) (cause : Nat) : State :=
  match homeOf s jid va with
  | .ok (some v) => match ownerOf s v with
    | .ok (some d) => countFault s d cause
    | _ => s
  | _ => s

/-- The accesses made at a slice let go of their words, and what waits behind them proceeds (R329). -/
def letGo (d : Nat) (s : State) (k : Nat) : State :=
  let sl := (s.mdie d).slice k
  if !sl.df.any (lineIn 2) then s
  else
    let ws := (sl.df.filter (lineIn 2)).flatMap fun e => wordsAt e.1 e.2.piece
    let (kept, s) := followers (sl.df.filter fun e => !lineIn 2 e) ws d [] s
    s.onSlice d k fun x => { x with df := kept }

/-- Every slice lets go of the words of accesses made. -/
def letGoAll (s : State) : State := s.md.foldl (fun (s : State) m => (m.2.slices.map (·.1)).foldl (letGo m.1) s) s

/-- The accesses with their turn at a slice that are not made: they go, with no effect (log entry 126). -/
def lineDrop (s : State) (d k : Nat) : State :=
  s.onSlice d k fun x => { x with df := x.df.map fun e => match e.2.piece.acc with
    | .line n _ => (e.1, lineReq e.1 n 2)
    | _ => e }

/-! ## Records of queue launch faults (R349, R370, R374) -/

/-- A queue launch fault: cause 0x0E, level 1, with queue and entry in w3, the card's address in w4 and the reason in w5. -/
def launchRecord (s : State) (q entry : Nat) (card : Word) (reason : Nat) : List Word :=
  [w64 (0x0E + 1 * 2 ^ 8 + s.version % 2 ^ 32 * 2 ^ 32), 0, 0, w64 (q + 2 ^ 15 + entry % 2 ^ 32 * 2 ^ 16), w64 (addr card),
   w64 (reason * 2 ^ 60), w64 s.clk, 0]

/-- A record waits for its delivery (R374). -/
def State.pendRec (s : State) (r : PendRec) : State := s.onSw fun w => { w with recs := w.recs ++ [r] }

/-- STATE as a fault or a write sets it; after a QCTL of this clk it acts on what that leaves (R365). -/
def Queue.setState (x : Queue) (clk st : Nat) : Queue :=
  { x with state := st, ctl := x.ctl.map fun c => if c.clk = clk then { c with since := c.since ++ [8 + st] } else c }

/-- A queue freezes under a queue launch fault whose record goes to a fault queue (R343, R349). -/
def queueFault (s : State) (q entry fq : Nat) (card : Word) (reason : Nat) : State :=
  (s.onQueue q fun x => x.setState s.clk 2).pendRec
    { jid := (s.queue q).jid, fq := fq, words := launchRecord s q entry card reason }

/-- A storage access that failed: the queue freezes with reason 1, to the owner's default fault queue (R343). -/
def storageFault (s : State) (q i : Nat) : State :=
  let x := s.queue q
  queueFault s q i (s.job x.jid).fq (x.slotVa i) 1

/-! ## Push and pop (R344 to R346) -/

/-- What a push or a pop comes to: done with the entry index, full or empty, refused. -/
inductive QOut where
  | ok (i : Nat)
  | none
  | refused
deriving DecidableEq, Repr

/-- A push of entry i: launches of its slot are known no longer, and no mark of an entry that was there stays (R356, R368). -/
def forget (s : State) (q i : Nat) : State :=
  let n := (s.queue q).depth
  s.onSw fun w => { w with
    known := w.known.filter fun k => !(k.1 == q && k.2.1 % n == i % n)
    marks := w.marks.filter fun m => !(m.1 == q && m.2 % n == i % n)
    launch := w.launch.map fun l => if l.queue = q ∧ l.entry % n = i % n then { l with unk := true } else l }

/-- A CLOSED queue opens empty (R342). -/
def Queue.opened (x : Queue) : Queue := { x with state := 1, head := 0, tail := 0, epoch := x.epoch + bit (x.head != 0) }

/-- The change of state by QCTL, or by what else has set STATE (R365). -/
def qctlTo (x : Queue) (sub : Nat) : Queue :=
  match sub, x.state with
  | 0, 1 => { x with state := 2 }
  | 1, 2 => { x with state := 1 }
  | 2, 1 | 2, 2 => { x with state := if x.occ = 0 then 0 else 3 }
  | 3, _ => { x with state := 0, head := x.tail }
  | 9, 0 => x.opened
  | k + 8, _ => { x with state := if k = 3 ∧ x.occ = 0 then 0 else k }
  | _, _ => x

/-- A queue with STATE, HEAD and TAIL as they stood before a QCTL. -/
def Queue.before (x : Queue) (c : QSnap) : Queue := { x with state := c.state, head := c.head, tail := c.tail, epoch := c.epoch, ctl := none }

/-- A push or pop in the clk of a QCTL is evaluated against the state before it, and what has changed STATE since acts on what it leaves
(R365). -/
def beforeCtl {α : Type} (s : State) (q : Nat) (g : State → State × α) : State × α :=
  match (s.queue q).ctl with
  | none => g s
  | some c =>
    if c.clk ≠ s.clk then g s
    else
      let (s, o) := g (s.onQueue q fun x => x.before c)
      (s.onQueue q fun x => c.since.foldl qctlTo { x with ctl := some { c with state := x.state, head := x.head, tail := x.tail, epoch := x.epoch } }, o)

/-- A queue as a push or a pop of this clk finds it: as it stood before a QCTL of the clk (R365). -/
def State.queueNow (s : State) (q : Nat) : Queue :=
  let x := s.queue q
  match x.ctl with
  | some c => if c.clk = s.clk then x.before c else x
  | none => x

/-- Whether the storage that a push would write may be accessed now (R309, R310, R320, R343). -/
def pushGate (s : State) (q : Nat) : State × Bool :=
  let x := s.queueNow q
  if x.state ≠ 1 ∨ x.full then (s, true) else s.jobGate x.jid (x.slotVa x.tail) 64 .w true

/-- A push of one entry (R344, R345). -/
def pushEntry (s : State) (q : Nat) (bs : List Byte) : State × QOut :=
  beforeCtl (s.spend.onQueue q fun x => { x with slot := s.clk + 1 }) q fun s =>
    let x := s.queue q
    if x.state ≠ 1 then (s, .refused)
    else if x.full then (s.onQueue q fun y => { y with refused := s.clk + 1 }, .none)
    else match jobWrite s x.jid (x.slotVa x.tail) bs with
      | .error _ => (storageFault s q x.tail, .refused)
      | .ok s =>
        (forget (s.onQueue q fun y => { y with
          tail := (y.tail + 1) % 2 ^ 32, since := if y.occ = 0 then s.clk else y.since, pushed := s.clk + 1 }) q x.tail, .ok x.tail)

/-- A card that a push has placed keeps the address that the push named: the operand of QPUSH and LAUNCH, the address that the host gives
(R370). -/
def nameCard (s : State) (q : Nat) (o : QOut) (va : Nat) : State :=
  match o with
  | .ok i =>
    if va = 0 ∨ (s.queue q).kind = 1 then s
    else s.onSw fun w => { w with named := (q, i, va) :: w.named.filter fun c => !(c.1 == q && c.2.1 == i) }
  | _ => s

/-- The address of the card in an entry: the one that its push named, else the entry's own (R370). -/
def cardAddr (s : State) (q i : Nat) : Word :=
  match s.sw.named.find? fun c => c.1 == q && c.2.1 == i with
  | some c => w64 c.2.2
  | none => (s.queue q).slotVa i

/-- The address that the push of a request names. -/
def Push.va (p : Push) : Nat := match p.req.piece.acc with
  | .sys _ _ a _ _ => addr a
  | _ => 0

/-- Whether the entries of a queue that a pop of this clk sees are none: a push of the same clk is not among them (R346). -/
def Queue.popEmpty (x : Queue) (clk : Nat) : Bool := decide (x.occ ≤ bit (x.pushed == clk + 1))

/-- Whether the storage that a pop would read may be accessed now; no pop falls in a clk in which a push has met the queue full (R346). -/
def popGate (s : State) (q : Nat) : State × Bool :=
  let x := s.queueNow q
  if x.refused = s.clk + 1 then (s, false)
  else if (x.state ≠ 1 ∧ x.state ≠ 3) ∨ x.popEmpty s.clk then (s, true)
  else s.jobGate x.jid (x.slotVa x.head) 64 .r

/-- A pop of the entry at HEAD, evaluated before a push of the same clk (R344, R346); a DRAINING queue that it leaves empty is
CLOSED. -/
def popEntry (s : State) (q : Nat) : State × QOut × List Byte :=
  beforeCtl s.spend q fun s =>
    let x := s.queue q
    if x.state ≠ 1 ∧ x.state ≠ 3 then (s, .refused, [])
    else if x.popEmpty s.clk then (s, .none, [])
    else match jobRead s x.jid (x.slotVa x.head) 64 with
      | .error _ => (storageFault s q x.head, .refused, [])
      | .ok bs =>
        (s.onQueue q fun y => { y with
          head := (y.head + 1) % 2 ^ 32, epoch := y.epoch + (y.head + 1) / 2 ^ 32, since := s.clk, state := if y.state = 3 ∧ y.occ = 1 then 0 else y.state }, .ok x.head, bs)

/-- A refused push counts in DROP (R342). -/
def countDrop (s : State) (q : Nat) : State := s.onQueue q fun x => { x with drop := (x.drop + 1) % 2 ^ 32 }

/-! ## The checks of queue instructions (R359, R360) -/

/-- The check of a queue word: reserved bits, ownership, kind; the cause with w5. A system job may name any queue
(R360; DEDUCED, log entry 106). -/
def queueCheck (s : State) (jid : Nat) (w : Word) (kind : Option Nat) : Option (Nat × Word) :=
  if field w 15 49 ≠ 0 then some (0x04, w)
  else
    let x := s.queue w.toNat
    let owned := !(x.state == 0 && x.jid == 0) && x.jid == jid
    if !(owned || s.sysJob jid) || (kind.isSome && kind != some x.kind) then some (0x03, 0) else none

/-- Without request n of the net. -/
def State.taken (s : State) (n : Nat) : State := { s with net := dropNth s.net n }

/-- The two outputs of a request that acts at the switch die. -/
def State.answerSys (s : State) (r : Req) (v : Word) : State := s.answerLane r (.scal v) .dn

/-- The status of a push or pop (R361, R362). -/
def queueStatus (o : QOut) : Word :=
  match o with
  | .ok i => w64 (i * 2 ^ 32)
  | .none => 1
  | .refused => 2

/-- The number of operands of the instruction that a request is of. -/
def State.operandsOf (s : State) (r : Req) : Nat := ((s.opOf r).map fun o => o.f.ar.toNat + bit o.f.kc).getD 0

/-- The crossbar port by which a request reaches the switch die: the port of the UCIe module that it takes (R10, R417). -/
def crossbarPort (s : State) (r : Req) (va : Word) : Nat :=
  match r.src with
  | .port t => (s.nSel (tileDie t) va).getD 0
  | _ => 0

/-- A push reaches the switch die. One that a later place in the order of this clk has already overtaken counts as reaching it in the
next (R345; log entry 100). -/
def State.enterPush (s : State) (p : Push) : State :=
  let x := s.queue p.queue
  let late := x.slot == s.clk + 1 && decide (p.rank < x.prank)
  s.onSw fun w => { w with pushes := w.pushes ++ [{ p with clk := s.clk + bit late }] }

/-- Whether a push is applied before another of its queue (R345). -/
def Push.before (a b : Push) : Bool := decide (a.clk < b.clk) || (a.clk == b.clk && decide (a.rank < b.rank))

/-- Whether push n is the next of its queue, and may be applied in this clk: one push of a queue in each clk, a LAUNCH that waits for
room before those that came after it (R345, R364). -/
def pushNext (s : State) (n : Nat) (p : Push) : Bool :=
  decide (p.clk ≤ s.clk) && (s.queue p.queue).slot != s.clk + 1
    && !(s.sw.pushes.zipIdx.any fun x => x.1.queue == p.queue && x.2 != n && (x.1.before p || (!p.before x.1 && decide (x.2 < n))))
    && !((s.sw.heldp.any fun x => x.queue == p.queue) && !(s.queue p.queue).full)

/-- QPUSH and LAUNCH reach the switch die (R361, R364): checks, the read of the entry, and the push on its way. -/
def pushArrive (s : State) (n : Nat) (r : Req) (launch : Bool) (a b c : Word) : State :=
  let s0 := s
  let s := s.taken n
  match queueCheck s r.jid b (if launch then some 0 else none) with
  | some (cause, w) => s.answerErr r cause 1 w
  | none =>
    if addr a % 64 ≠ 0 then s.answerVa r 0x04 a
    else
      let three := launch && s.operandsOf r == 3
      if three && field c 32 32 != 0 then s.answerErr r 0x04 2 c
      else match s0.jobGate r.jid a 64 .r with
      | (s0, false) => s0
      | (s0, true) =>
        let s := (s0.taken n).spend
        match jobRead s r.jid a 64 with
        | .error cause => (countAt s r.jid a cause).answerVa r cause a
        | .ok bs =>
          let bs := if three then bs.take 20 ++ toBytes 4 (field c 0 32) ++ bs.drop 24 else bs
          s.enterPush { queue := b.toNat, entry := bs, req := r, rank := 2 + crossbarPort s r a }

/-- Whether a push is a LAUNCH. -/
def Push.isLaunch (p : Push) : Bool := match p.req.piece.acc with
  | .sys op .. => op == 0xC3
  | _ => false

/-- A push that is applied leaves its place in the order of the clk. -/
def markPush (s : State) (p : Push) : State := s.onQueue p.queue fun x => { x with prank := p.rank }

/-- Whether a push comes from the host. -/
def Push.isHost (p : Push) : Bool := p.req.src == .outside

/-- What a push comes to: the card's name, DROP, and the status to the program (R342, R347, R361, R364, R370). -/
def pushDone (s : State) (p : Push) (o : QOut) : State :=
  let s := markPush (if o matches .ok _ || p.isLaunch then nameCard s p.queue o p.va else countDrop s p.queue) p
  if p.isHost then s else s.answerSys p.req (queueStatus o)

/-- QUEUE_PUSH_APPLY: push n on its way is applied, the next of its queue (R345); a LAUNCH on a full queue is held
(R364). -/
def pushApply (s : State) (n : Nat) : State :=
  match s.sw.pushes[n]? with
  | none => s
  | some p =>
    if !pushNext s n p then s
    else match pushGate s p.queue with
    | (s, false) => s
    | (s, true) =>
      let s := s.onSw fun w => { w with pushes := dropNth w.pushes n }
      if p.isLaunch && (s.queueNow p.queue).state == 1 && (s.queueNow p.queue).full then
        s.onSw fun w => { w with heldp := w.heldp ++ [p] }
      else
        let (s, o) := pushEntry s p.queue p.entry
        pushDone s p o

/-- HELD_LAUNCH_PUSH: held push n is applied once its queue has room, or is refused when the queue is no longer OPEN (R364). -/
def heldPush (s : State) (n : Nat) : State :=
  match s.sw.heldp[n]? with
  | none => s
  | some p =>
    if (s.sw.heldp.take n).any fun x => x.queue == p.queue then s
    else if (s.queue p.queue).slot = s.clk + 1 then s
    else if (s.queueNow p.queue).state == 1 && (s.queueNow p.queue).full then s
    else match pushGate s p.queue with
    | (s, false) => s
    | (s, true) =>
      let s := s.onSw fun w => { w with heldp := dropNth w.heldp n }
      let (s, o) := pushEntry s p.queue p.entry
      pushDone s p o

/-- QPOP (R362). -/
def qpop (s : State) (n : Nat) (r : Req) (a b : Word) : State :=
  let s0 := s
  let s := s.taken n
  match queueCheck s r.jid b (some 1) with
  | some (cause, w) => s.answerErr r cause 1 w
  | none =>
    if addr a % 64 ≠ 0 then s.answerVa r 0x04 a
    else match popGate s0 b.toNat with
    | (s0, false) => s0
    | (s0, true) => match s0.jobGate r.jid a 64 .w with
    | (s0, false) => s0
    | (s0, true) =>
      let (s, o, bs) := popEntry (s0.taken n) b.toNat
      match o with
      | .ok _ =>
        match jobWrite s r.jid a bs with
        | .ok s => s.answerSys r (queueStatus o)
        | .error cause => (countAt s r.jid a cause).answerVa r cause a
      | _ => s.answerSys r (queueStatus o)

/-- QCNT (R363). -/
def qcnt (s : State) (n : Nat) (r : Req) (a : Word) : State :=
  let s := s.taken n
  match queueCheck s r.jid a none with
  | some (cause, w) => s.answerErr r cause 0 w
  | none => s.answerSys r (w64 (min (s.queue a.toNat).occ (2 ^ 17 - 1) + (s.queue a.toNat).state * 2 ^ 32))

/-- QCTL (R365). -/
def qctl (s : State) (n : Nat) (r : Req) (sub : Nat) (a : Word) : State :=
  let s := s.taken n
  match queueCheck s r.jid a none with
  | some (cause, w) => s.answerErr r cause 0 w
  | none =>
    (s.onQueue a.toNat fun x =>
      let was : QSnap := (x.ctl.filter (·.clk == s.clk)).getD { clk := s.clk, state := x.state, head := x.head, tail := x.tail, epoch := x.epoch, since := [] }
      { qctlTo x sub with ctl := some { was with since := was.since ++ [sub] } }).answerSys r (w64 (s.queue a.toNat).state)

/-- HOST_QUEUE_PUSH: a write of the host to the queue window: one aligned full line is a push, which reaches the switch die by the
Deuri link; anything else counts in BADW (R345, R347, R423). `va` is the address of the card that the host has copied, 0 for none. -/
def hostPush (s : State) (off : Nat) (bs : List Byte) (va : Nat) : State :=
  if off % 64 ≠ 0 ∨ bs.length ≠ 64 ∨ 2 ^ 21 ≤ off then s.onSw fun w => { w with badw := min (w.badw + 1) 31 }
  else
    let r : Req := { id := s.reqno, src := .outside, own := 0, jid := 0, piece := { va := 0, acc := .sys 0xC0 0 (w64 va) 0 0 } }
    { s with reqno := s.reqno + 1 }.enterPush { queue := off / 64, entry := bs, req := r }

/-- QCFG_STATE_WRITE: a write of STATE (R342): 1 on a CLOSED queue opens it empty if its configuration is good; any other takes
effect as written, and a DRAINING queue that is empty is CLOSED at once (R344). -/
def stateWrite (s : State) (q st : Nat) : State :=
  let x := s.queue q
  if x.state = 0 ∧ st = 1 then
    if 6 ≤ x.dlog ∧ x.dlog ≤ 16 ∧ (s.job x.jid).valid then s.onQueue q fun x => (x.setState s.clk 1).opened else s
  else s.onQueue q fun x => { x.setState s.clk (st % 4) with state := if st = 3 ∧ x.occ = 0 then 0 else st % 4 }

end Sys2Proof.Machine
end

