-- ==== Sys2Proof/Machine/Faults.lean ====
section
/-! DEFINITION. Faults: what taking one does to its unit, the record and its delivery, TRAP (R370 to R374, R383). -/

namespace Sys2Proof.Machine

/-! ## Ending a unit (R104, R368, R372) -/

/-- Frame requests of a unit leave every allocation queue (R104, R368). -/
def dropRequests (s : State) (u : UnitId) : State :=
  { s with ct := s.ct.map fun c => (c.1, { c.2 with allocq := c.2.allocq.map fun q => (q.1, q.2.filter fun r => r.unit != u) }) }

/-- Changing a launch. -/
def State.onLaunch (s : State) (q e : Nat) (g : Launch → Launch) : State :=
  s.onSw fun w => { w with launch := w.launch.map fun l => if l.queue == q && l.entry == e then g l else l }

/-- RCOUNT of a launch (R348). -/
def Launch.rcount (l : Launch) : Nat := field (l.word 2) 32 32

/-- Launch slots that a launch no longer needs: it has no unit there and deals no more (R352). -/
def freeSlots (l : Launch) : Launch :=
  if l.dealt < l.rcount ∧ !l.stop then l
  else { l with slots := l.slots.filter fun p => l.units.any (fun u => u.2.2 == p.1) || l.sheaf.any fun x => x.1 == p.1 }

/-- A launch that deals no more, and will end with an ST (R352, R368, R372). -/
def Launch.halted (l : Launch) (st : Nat) : Launch := freeSlots { l with stop := true, st := st, sheaf := [] }

/-- A tile where every frame of a context that is left is ENDING, or is to be once it is LIVE: a cancel or fault has ended the context's work
there, and its regions close (R102, R282). -/
def endWork (s : State) (t ctx : Nat) : State :=
  if (s.tile t).frames.any fun f => f.2.ctx == ctx && f.2.st != .ending && !f.2.doomed then s
  else (s.onTile t fun c => c.closeSlots ctx).serveSlots t

/-- Every frame of a unit enters ENDING, its requests that have not issued are dropped, its copies are cancelled, and regions close
where the work of its context is over (R104, R282, R298, R368, R372). -/
def killUnit (s : State) (u : UnitId) : State :=
  let fs := s.unitFrames u
  let s := (dropRequests (s.endUnit u) u).onLaunch u.queue u.entry fun l => { l with killed := u.no :: l.killed.filter (· != u.no) }
  let ctxs := (fs.filterMap fun p => (s.frame? p.1 p.2).map fun x => (p.1, x.ctx)).eraseDups
  ctxs.foldl (fun (s : State) p => endWork s p.1 p.2) (fs.foldl (fun (s : State) p => cancelFrameCopies (dropPieces s p.1 p.2) p.1 p.2) s)

/-- Whether a unit has a record that waits for its frames, or is being cancelled: a further fault in it is not recorded (R372). -/
def unitEnding (s : State) (u : UnitId) : Bool :=
  (s.sw.recs.any fun r => r.unit == some u)
    || (s.sw.cancels.any fun c => c.unit == some u || c.ls.contains (u.queue, u.entry))

/-- A launch by its name. -/
def State.launch? (s : State) (q e : Nat) : Option Launch := s.sw.launch.find? fun l => l.queue == q && l.entry == e

/-- The fault queue of a launch: the card's with FQV = 1, else the job's (R374). -/
def Launch.fq (l : Launch) (s : State) : Nat :=
  if field (l.word 6) 15 1 = 1 then field (l.word 6) 0 15 else (s.job l.jid).fq

/-- A fault counts in FLTSUP (R372, R376). -/
def State.suppress (s : State) : State := s.onSw fun w => { w with fltsup := w.fltsup + 1 }

/-- The eight words of the record of an instruction's fault (R370). -/
def faultWords (e : FaultInfo) (u : UnitId) (card : Word) : List Word :=
  [w64 (e.cause + bit e.defer * 2 ^ 11 + bit e.rsm * 2 ^ 12 + bit e.log * 2 ^ 13 + bit (!e.rsm && !e.log) * 2 ^ 14
      + e.tcode * 2 ^ 16 + e.mapv % 2 ^ 32 * 2 ^ 32),
    e.w1, e.va, w64 (u.queue + 2 ^ 15 + u.entry % 2 ^ 32 * 2 ^ 16), w64 (addr card), e.extra, w64 e.time, 0]

/-- The accesses that a unit has issued and that have not performed, as (tile, frame, serial); a halted matrix operation and those
behind it do not count (R240, R374). -/
def unitAccesses (s : State) (u : UnitId) (rsm : Bool) : List (Nat × Nat × Nat) :=
  (s.unitFrames u).flatMap fun p => (((s.frame? p.1 p.2).map fun x => x.outl).getD []).filterMap fun e =>
    if rsm && e.2 == .oto then none else some (p.1, p.2, e.1)

/-- INSTRUCTION_FAULT: the oldest fault detected. A resumable one and TRAP.LOG only send their record; any other ends the unit,
freezes the supplying queue, stops the launch's dealing, and its record waits until the unit's frames are FREE; a further one in
a unit that is ending is counted and not recorded (R372, R240, R383). -/
def instructionFault (s : State) : State :=
  match s.detected with
  | [] => s
  | e :: rest =>
    let s := { s with detected := rest }
    match s.frame? e.tile e.fi with
    | none => s.suppress
    | some x =>
      let u := x.unit
      let l := s.launchOf u
      let jid := ((s.jobAt e.tile x.ctx).orElse fun _ => l.map (·.jid)).getD 0
      let fq := (l.map fun l => l.fq s).getD (s.job jid).fq
      let words := faultWords e u ((l.map (·.cardVA)).getD 0)
      if e.rsm || e.log then s.pendRec { jid := jid, fq := fq, words := words, after := e.after, mem := unitAccesses s u e.rsm }
      else if unitEnding s u then (killUnit s u).suppress
      else
        let s := (killUnit s u).onQueue u.queue fun q => q.setState s.clk 2
        let s := s.onLaunch u.queue u.entry fun l => l.halted 5
        s.pendRec { jid := jid, fq := fq, unit := some u, words := words }

/-- Whether a queue takes a fault record of a job: a data queue that it owns, OPEN and not full (R374). -/
def takesRecord (s : State) (q jid : Nat) : Bool :=
  let x := s.queue q
  x.kind == 1 && x.jid == jid && x.state == 1 && !x.full

/-- A record that cannot be pushed is lost: FLTJ.LOST and CPSTAT.FLOST rise, and the job's next record carries OVF (R374). -/
def loseRecord (s : State) (jid : Nat) : State :=
  (s.onJob jid fun j => { j with ovf := true }).onSw fun w =>
    let f := AList.getD w.fltj jid (0, 0)
    { w with flost := min (w.flost + 1) 31, fltj := AList.set w.fltj jid (f.1, (f.2 + 1) % 2 ^ 32) }

/-- Pushing a record to its fault queue (R374, R427). -/
def pushRecord (s : State) (r : PendRec) : State :=
  if !takesRecord s r.fq r.jid then loseRecord s r.jid
  else
    let w0 := (r.words.headD 0).toNat + bit (s.job r.jid).ovf * 2 ^ 15
    match pushEntry s r.fq ((w64 w0 :: r.words.drop 1).flatMap fun w => toBytes 8 w.toNat) with
    | (s, .ok _) =>
      (s.onJob r.jid fun j => { j with ovf := false }).onSw fun w =>
        let f := AList.getD w.fltj r.jid (0, 0)
        { w with fltj := AList.set w.fltj r.jid ((f.1 + 1) % 2 ^ 32, f.2), msi1 := w.msi1 + 1 }
    | (s, _) => loseRecord s r.jid

/-- Whether an access of a frame is outstanding. -/
def State.stillOut (s : State) (e : Nat × Nat × Nat) : Bool :=
  (s.frame? e.1 e.2.1).any fun x => x.outl.any fun o => o.1 == e.2.2

/-- FAULT_RECORD_DELIVERY: record n is delivered, once every frame of its unit is FREE, the accesses that it must follow have performed,
its flush has returned, and no earlier record waits for its fault queue (R372, R374, R426); TRAP.LOG then emits done (R383). -/
def recordDeliver (s : State) (n : Nat) : State :=
  match s.sw.recs[n]? with
  | none => s
  | some r =>
    if (s.sw.recs.take n).any fun x => x.fq == r.fq then s
    else if match r.unit with
      | some u => !(s.unitFrames u).isEmpty
      | none => r.mem.any s.stillOut then s
    else if !r.flush then s.onSw fun w => { w with recs := setNth w.recs n { r with flush := true } }
    else if takesRecord s r.fq r.jid && (s.queue r.fq).slot == s.clk + 1 then s
    else match if takesRecord s r.fq r.jid then pushGate s r.fq else (s, true) with
    | (s, false) => s
    | (s, true) =>
      let s := pushRecord (s.onSw fun w => { w with recs := dropNth w.recs n }) r
      match r.after with
      | some (fr, d) => s.emitDoneOwn fr d
      | none => s

/-! ## TRAP (R383) -/

/-- TRAP: .END takes Fault(0x10) with a in w5; .LOG sends the same record and its unit goes on (R383). A firing of several lanes
makes one record, of its lowest lane. -/
def runTrap (log : Bool) (f : Fields) (s : State) : State :=
  withFiring s fun fr s =>
    match firstPoison fr with
    | some (l, p, r) => (s.releaseOps fr).raisePoison fr p l r
    | none =>
      let a := laneWord s fr f 0 0
      let s := s.releaseOps fr
      { s with detected := s.detected ++ [{
          cause := 0x10, tile := fr.tile, fi := fr.fi, w1 := fr.place 3 0, va := 0, extra := a, defer := false,
          tcode := xbits f.x 0 12, mapv := s.version, time := s.clk, log := log,
          after := if log then some ({ fr with ops := [] }, f.d1) else none }] }

end Sys2Proof.Machine
end

