-- ==== Sys2Proof/Machine/Load.lean ====
section
/-! DEFINITION. Loading a configuration of a region (R110 to R113, R282). -/

namespace Sys2Proof.Machine

/-- A configuration of a region. -/
def Region.cfg? (r : Region) (c : Nat) : Option Cfg := r.cfgs[c]?

/-- The placements of a configuration on a tile, as (BLK, GBN). -/
def Region.placed (r : Region) (c t : Nat) : List (Nat × Nat) :=
  match r.cfg? c with
  | none => []
  | some x => (x.plcs.filter fun p => r.tileAt p.rx p.ry == t).map fun p => (p.blk, p.gbn)

/-- The conditions of R110 on a region's context: ISC is zero, every frame is FREE, no frame request and no KSET waits. -/
def quiet110 (s : State) (r : Region) : Bool :=
  r.isc == 0 && r.computeTiles.all fun t =>
    let c := s.tile t
    !(c.frames.any fun f => f.2.ctx == r.ctx) && (c.allocOf r.ctx).isEmpty && !(c.ksets.any fun k => k.1.ctx == r.ctx)

/-- Whether an entry is kept by a configuration (R111). -/
def keepsEntry (r : Region) (c t : Nat) (e : Entry) : Bool := (r.placed c t).any fun p => p.1 == e.blk && p.2 == e.block.gbn

/-- The constants staged in an entry become current (R111). -/
def Entry.current (e : Entry) : Entry :=
  { e with
    block := { e.block with consts := e.staged.foldl (fun l p => setNth l p.1 p.2) e.block.consts }
    staged := [] }

/-- A tile's entries of a context that a configuration does not keep are released; in those kept, staged constants become
current (R110, R111); the context's stream slots close (R282). -/
def releaseEntries (r : Region) (keep : Nat → Entry → Bool) (s : State) (t : Nat) : State :=
  (s.onTile t fun c => ({ c with entries := (c.entries.filter fun e => e.2.ctx != r.ctx || keep t e.2).map fun e =>
    if e.2.ctx == r.ctx then (e.1, e.2.current) else e } : CTile).closeRegions r.ctx).serveSlots t

/-- The placements of a configuration on a tile that have no entry yet. -/
def missing (s : State) (r : Region) (c t : Nat) : List (Nat × Nat) :=
  (r.placed c t).filter fun p => !((s.tile t).entries.any fun e => e.2.ctx == r.ctx && e.2.blk == p.1 && e.2.block.gbn == p.2)

/-- The last step of R110: the region takes up its configuration. -/
def loadFinish (s : State) (g v c : Nat) : State :=
  s.onRegion g v fun r => { r with
    isc := ((r.cfg? c).map (·.iters)).getD 0, cfg := c, loading := false, active := true, load := none, armed := none }

/-- Removing repeats, the first of each stays. -/
def distinct : List Nat → List Nat
  | [] => []
  | x :: l => x :: (distinct l).filter (· != x)

/-- CONFIG_TRANSITION: a region with a transition armed, its conditions holding, releases the entries that are not kept and begins
to fetch; with NEXT = 0x1FF its run ends (R110, R111, R138). -/
def configTransition (s : State) (g v : Nat) : State :=
  match s.graph? g, s.region? g v with
  | some x, some r =>
    match r.armed with
    | none => s
    | some c =>
      if x.st != .bound || r.load.isSome || !quiet110 s r then s
      else if c = 0x1FF then
        let s := r.computeTiles.foldl (releaseEntries r fun _ _ => false) s
        s.onRegion g v fun r => { r with active := false, armed := none, done := true }
      else
        let s := r.computeTiles.foldl (releaseEntries r (keepsEntry r c)) s
        let todo := r.computeTiles.filter fun t => !(missing s r c t).isEmpty
        let gbns := distinct (todo.flatMap fun t => (missing s r c t).map (·.2))
        let s := s.onRegion g v fun r => { r with
          active := false, loading := true, load := some { target := c, fetch := gbns, got := [], tiles := todo, failed := false } }
        if gbns.isEmpty then loadFinish s g v c else s
  | _, _ => s

/-! ## Fetching blocks (R62, R113) -/

/-- The n 8-byte words at an address, read as a job that needs X (R62); a failure names its address (R113). -/
def fetchWords (s : State) (jid va : Nat) : Nat → Except (Nat × Nat) (List Byte)
  | 0 => .ok []
  | n + 1 =>
    match jobRead s jid (w64 va) 8 .x with
    | .error c => .error (c, va)
    | .ok bs => (fetchWords s jid (va + 8) n).map (bs ++ ·)

/-- The bytes of a block that the loader reads: its header, and the rest where the header passes its checks (R55). -/
def blockSpan (s : State) (jid va gbn : Nat) : Nat :=
  match fetchWords s jid va 2 with
  | .error _ => 16
  | .ok hb => if (hdrFault (ofBytes hb) gbn (s.sysJob jid)).isSome then 16 else hdrLen (ofBytes hb)

/-- The block at an address of an image, checked (R55, R113): its fault carries w2 and w5. The GBN of w5 is the directory index by which
the block was fetched, whatever its header says (log entry 105). -/
def fetchBlock (s : State) (jid va gbn : Nat) : Except (BlockFault × Nat × Word) Block :=
  match fetchWords s jid va 2 with
  | .error (c, a) => .error ({ cause := c, ix := 0 }, a, 0)
  | .ok hb =>
    let h := ofBytes hb
    let w5 (e : BlockFault) : Word := w64 (gbn * 2 ^ 32 + (if e.cause = 0x0B then e.crc else 0))
    match hdrFault h gbn (s.sysJob jid) with
    | some e => .error (e, va, w5 e)
    | none =>
      match fetchWords s jid (va + 16) (hdrNi h + hdrNk h) with
      | .error (c, a) => .error ({ cause := c, ix := 0 }, a, 0)
      | .ok body =>
        match checkBlock h body gbn (s.sysJob jid) with
        | .error e => .error (e, va, w5 e)
        | .ok b => .ok b

/-- The record of a block that failed, for one tile: level 2, to the job's fault queue (R113, R370, R371). -/
def blockRecord (s : State) (jid t ctx blk : Nat) (va : Nat) (e : BlockFault) (w5 : Word) : PendRec :=
  { jid := jid, fq := (s.job jid).fq, words :=
      [w64 (e.cause + 2 * 2 ^ 8 + s.version % 2 ^ 32 * 2 ^ 32), placeWord t ctx 0 blk e.ix 3 0, w64 (addr (w64 va)), 0, 0, w5, w64 s.clk, 0] }

/-- Writing the placements of a tile that have no entry, each into its lowest free entry (R110). -/
def writeEntries (s : State) (r : Region) (c t : Nat) (got : List (Nat × Block)) : State :=
  (missing s r c t).foldl (fun (s : State) p =>
    match got.find? fun b => b.1 == p.2, (List.range 16).find? fun i => (AList.get? (s.tile t).entries i).isNone with
    | some b, some i => s.onTile t fun k => { k with
        entries := AList.set k.entries i { ctx := r.ctx, blk := p.1, block := b.2 } }
    | _, _ => s) s

/-- Whether a tile has as many free entries as a load needs there (R112). -/
def roomFor (s : State) (r : Region) (c t : Nat) : Bool :=
  decide ((missing s r c t).length + (s.tile t).entries.length ≤ 16)

/-- A load whose blocks have all been fetched: it fails as a whole, or writes every tile with room and waits at the others, and ends
when none is left (R110, R112, R113). A tile where other loads wait lets no later one past them (log entry 133). -/
def loadWrite (s : State) (g v : Nat) (r : Region) (l : Load) : State :=
  if l.failed then s.onRegion g v fun r => { r with loading := false, load := none, armed := none }
  else
    let (now, later) := l.tiles.partition fun t => (s.tile t).loadWait.isEmpty && roomFor s r l.target t
    let s := now.foldl (fun (s : State) t => writeEntries s r l.target t l.got) s
    let s := later.foldl (fun (s : State) t => s.onTile t fun c => { c with loadWait := c.loadWait ++ [(g, v)] }) s
    if later.isEmpty then loadFinish s g v l.target
    else s.onRegion g v fun r => { r with load := some { l with fetch := [], tiles := later } }

/-- CONFIG_BLOCK_FETCHED: block n of those that a load has still to fetch has arrived and is checked, once its lines
may be read (R301, R309, R320); each fault is recorded for every tile that places the block (R55, R113). -/
def blockFetched (s : State) (g v n : Nat) : State :=
  match s.graph? g, s.region? g v with
  | some x, some r =>
    match r.load with
    | none => s
    | some l =>
      match l.fetch[n]? with
      | none => s
      | some gbn =>
        let va := (addr (w64 x.img) + x.dir.getD gbn 0)
        match s.jobGate x.jid (w64 va) (blockSpan s x.jid va gbn) .x with
        | (s, false) => s
        | (s, true) =>
        let s := s.spend
        let rest := dropNth l.fetch n
        let (s, l) := match fetchBlock s x.jid va gbn with
          | .ok b => (s, { l with fetch := rest, got := l.got ++ [(gbn, b)] })
          | .error (e, fva, w5) =>
            let s := countAt s x.jid (w64 fva) e.cause
            let bad := l.tiles.flatMap fun t => ((missing s r l.target t).filter fun p => p.2 == gbn).map fun p => (t, p.1)
            (bad.foldl (fun (s : State) p => s.pendRec (blockRecord s x.jid p.1 r.ctx p.2 fva e w5)) s,
              { l with fetch := rest, failed := true })
        if rest.isEmpty then loadWrite s g v r l else s.onRegion g v fun r => { r with load := some l }
  | _, _ => s

/-- CONFIG_LOAD_ENTRY_WAIT: the load that waits first at a tile writes its entries there once there is room (R112). -/
def loadEntryWait (s : State) (g v t : Nat) : State :=
  match (s.tile t).loadWait, s.region? g v with
  | (g', v') :: rest, some r =>
    match r.load with
    | none => s
    | some l =>
      if g' ≠ g ∨ v' ≠ v then s
      else if !roomFor s r l.target t then s
      else
        let s := (writeEntries s r l.target t l.got).onTile t fun c => { c with loadWait := rest }
        let left := l.tiles.filter (· != t)
        if left.isEmpty then loadFinish s g v l.target
        else s.onRegion g v fun r => { r with load := some { l with tiles := left } }
  | _, _ => s

end Sys2Proof.Machine
end

