-- ==== Sys2Proof/Machine/Leases.lean ====
section
/-! DEFINITION. Leases, binding of graphs, TLBINV (R56 to R61, R255, R259 to R272). -/

namespace Sys2Proof.Machine

/-! ## Pages and owners (R253, R254, R262) -/

/-- The memory die that a page belongs to, whether or not it is up yet; none for a page that no die of this module owns (R262). -/
def homeDie (s : State) (va : Word) : Option Nat :=
  if vaG va then none
  else
    let h := vaHome va
    let d := if h < 4 then 8 + h else if h = 16 then s.ht (h6 (field va 18 32)) else 0
    if memDies.contains d && s.dieState d != 3 then some d else none

/-- The address of a page of 256 KiB. -/
def pageVa (p : Nat) : Word := w64 (p * 2 ^ 18)

/-- The pages of a span: the page of its base and the pages after it. -/
def spanPages (base : Word) (n : Nat) : List Nat := (List.range n).map fun i => (addr base / 2 ^ 18 + i) % 2 ^ 39

/-- The pages that n bytes at an address touch. -/
def bytePages (base len : Nat) : List Nat :=
  if len = 0 then [] else (List.range ((base + len - 1) / 2 ^ 18 + 1 - base / 2 ^ 18)).map (base / 2 ^ 18 + ·)

/-- The dies that own some page. -/
def ownersOf (s : State) (pages : List Nat) : List Nat :=
  memDies.filter fun d => pages.any fun p => homeDie s (pageVa p) == some d

/-- A page whose owner is not known yet: an interleaved one while the home table is not written (R390). -/
def pageWaits (s : State) (p : Nat) : Bool :=
  let va := pageVa p
  !vaG va && vaHome va == 16 && !memDies.contains (s.ht (h6 (field va 18 32)))

/-- Whether the requests for some pages wait at the switch die: for an owner, or behind requests that do (R262, R390). -/
def leaseWaits (s : State) (pages : List Nat) : Bool :=
  pages.any (pageWaits s) || (!s.sw.lwait.isEmpty && !(ownersOf s pages).isEmpty)

/-- Who has still to grant some pages: the owning dies; the switch die, 12, while the requests wait there. -/
def leaseNeed (s : State) (pages : List Nat) : List Nat := if leaseWaits s pages then [12] else ownersOf s pages

/-- The lease requests for some pages go to every die that owns one of them. -/
def sendLeases (s : State) (who : LWho) (jid : Nat) (pages : List Nat) : State :=
  (ownersOf s pages).foldl (fun (s : State) d => s.onMdie d fun c => { c with
    lreq := c.lreq ++ [{ who := who, jid := jid, pages := pages.filter fun p => homeDie s (pageVa p) == some d }] }) s

/-- A lease request goes to every die that owns a page of it, in one order for all, or waits at the switch die (R262, R390). -/
def askLeases (s : State) (who : LWho) (jid : Nat) (pages : List Nat) : State :=
  if leaseWaits s pages then s.onSw fun w => { w with lwait := w.lwait ++ [(who, jid, pages)] } else sendLeases s who jid pages

/-! ## Paging records (R263) -/

/-- The words of a paging record. -/
def pagingRecord (d jid page reason : Nat) (entry : Word) : List Word :=
  [w64 (jid + d * 2 ^ 12 + reason * 2 ^ 16), pageVa page, entry, 0, 0, 0, 0, 0]

/-- The pager pushes a record, keeps it while the queue is full or takes another push in this clk, or discards and counts it (R263,
R345). -/
def pagePush (s : State) (d : Nat) (ws : List Word) : State :=
  let c := s.mdie d
  let q := s.queue c.pgq
  let lose (s : State) : State := s.onMdie d fun c => { c with pglost := min (c.pglost + 1) 255 }
  if !c.pgen then s
  else if q.state ≠ 1 ∨ q.kind ≠ 1 ∨ !s.sysJob q.jid then lose s
  else if q.full || q.slot == s.clk + 1 then s.onMdie d fun c => { c with pgpend := c.pgpend ++ [ws] }
  else match pushGate s c.pgq with
    | (s, false) => s.onMdie d fun c => { c with pgpend := c.pgpend ++ [ws] }
    | (s, true) => match pushEntry s c.pgq (ws.flatMap fun w => toBytes 8 w.toNat) with
      | (s, .ok _) => s
      | (s, _) => lose s

/-- The pager retries the records that it keeps (R263). -/
def retryPages (s : State) (d : Nat) : State :=
  let ws := (s.mdie d).pgpend
  ws.foldl (fun (s : State) w => pagePush s d w) (s.onMdie d fun c => { c with pgpend := [] })

/-! ## Serving a lease request (R261, R262, R265) -/

/-- What serving has found: the entries hit by age, the translations to add, the pages that wait for the pager, and whether it waits. -/
structure LPlan where
  hits   : List Nat := []
  news   : List TlbEnt := []
  posted : List Nat := []
  wait   : Bool := false
deriving DecidableEq, Repr

/-- One page of a lease request at its die: a hit, a walk, or a wait (R262 step 2, R265). -/
def planPage (d jid : Nat) (acc : LPlan × State) (p : Nat) : LPlan × State :=
  let (l, s) := acc
  let va := addr (pageVa p)
  match (s.mdie d).lt.find? fun e => e.2.covers jid va with
  | some (_, e) =>
    if e.drain then ({ l with wait := true }, s)
    else (if l.hits.contains e.age then l else { l with hits := l.hits ++ [e.age] }, s)
  | none =>
    if l.news.any fun e => covers e.jid e.size e.vpage jid va then (l, s)
    else if l.posted.contains p then ({ l with wait := true }, s)
    else match tlbLook s d jid (pageVa p) with
      | (.ok e, s) => ({ l with news := l.news ++ [e] }, s)
      | (.stop reason w, s) =>
        ({ l with posted := l.posted ++ [p], wait := true }, pagePush s d (pagingRecord d jid p reason w))

/-- The capacity of a lease table (R261). -/
def ltCap : Nat := 65536

/-- The slot for one more entry: a free one, or that of the oldest unpinned entry not among those hit (R261). -/
def ltSlot (c : MDie) (hits : List Nat) : Option Nat :=
  if c.lt.length < ltCap then (List.range (c.lt.length + 1)).find? fun i => (AList.get? c.lt i).isNone
  else (leastBy (fun a b => decide (a.2.age < b.2.age))
    (c.lt.filter fun e => e.2.lcnt + e.2.ecnt == 0 && !hits.contains e.2.age)).map (·.1)

/-- Whether a table has slots for n new entries. -/
def ltRoom (c : MDie) (hits : List Nat) (n : Nat) : Bool :=
  decide (n + (c.lt.filter fun e => 0 < e.2.lcnt + e.2.ecnt || hits.contains e.2.age).length ≤ ltCap)

/-- Adding the entry of a translation, with the ages of those taken so far. -/
def ltAdd (acc : MDie × List Nat) (e : TlbEnt) : MDie × List Nat :=
  match ltSlot acc.1 acc.2 with
  | none => acc
  | some i =>
    ({ acc.1 with
        lt := AList.set acc.1.lt i { size := e.size, jid := e.jid, perm := e.perm, vpage := e.vpage, w2 := e.w2, w3 := e.w3, age := acc.1.ltseq }
        ltseq := acc.1.ltseq + 1 }, acc.2 ++ [acc.1.ltseq])

/-- Whether a waiter takes explicit leases. -/
def LWho.explicit : LWho → Bool
  | .launch .. => false
  | _ => true

/-- Raising or lowering the counts of entries of a die, named by age. -/
def ltCount (c : MDie) (explicit up : Bool) (is : List Nat) : MDie :=
  { c with lt := c.lt.map fun e =>
      if !is.contains e.2.age then e
      else if explicit then (e.1, { e.2 with ecnt := if up then e.2.ecnt + 1 else e.2.ecnt - 1 })
      else (e.1, { e.2 with lcnt := if up then e.2.lcnt + 1 else e.2.lcnt - 1 }) }

/-- Lowering the counts that (die, age) pairs hold (R264). -/
def releaseEnts (s : State) (explicit : Bool) (ents : List (Nat × Nat)) : State :=
  ents.foldl (fun (s : State) p => s.onMdie p.1 fun c => ltCount c explicit false [p.2]) s

/-- LEASE.ACQ once every die has answered: its status, or the release of what it took and cause 0x15 (R269). -/
def acqSettle (s : State) (id : Nat) : State :=
  match s.sw.acqs.find? fun a => a.req.id == id with
  | none => s
  | some a =>
    if !a.need.isEmpty then s
    else
      let s := s.onSw fun w => { w with acqs := w.acqs.filter fun b => b.req.id != id }
      match leastBy (fun x y => decide (x.1 < y.1)) a.lack, a.req.piece.acc with
      | none, _ => s.answerSys a.req (w64 a.ents.length)
      | some (d, n), .sys _ _ va _ _ => (releaseEnts s true a.ents).answerVa a.req 0x15 va 3 (w64 (n + d * 2 ^ 60))
      | some _, _ => s

/-- A grant reaches whoever asked for it (R262 step 4). -/
def granted (s : State) (d : Nat) (who : LWho) (is : List Nat) : State :=
  let ents := is.map fun i => (d, i)
  match who with
  | .launch q e => s.onLaunch q e fun l => { l with need := l.need.filter (· != d), ents := l.ents ++ ents }
  | .acq id =>
    acqSettle (s.onSw fun w => { w with acqs := w.acqs.map fun a =>
      if a.req.id == id then { a with need := a.need.filter (· != d), ents := a.ents ++ ents } else a }) id
  | .bind id =>
    s.onSw fun w => { w with binds := w.binds.map fun b =>
      if b.req.id == id then { b with need := b.need.filter (· != d), ents := b.ents ++ ents } else b }

/-- A die that lacks entries for a LEASE.ACQ says so, and one at which an ECNT stands at 255 to a RELOC.BIND too (R269, R270). -/
def lacking (s : State) (d id n : Nat) : State :=
  acqSettle (s.onSw fun w => { w with
    acqs := w.acqs.map fun a =>
      if a.req.id == id then { a with need := a.need.filter (· != d), lack := a.lack ++ [(d, n)] } else a
    binds := w.binds.map fun b =>
      if b.req.id == id then { b with need := b.need.filter (· != d), lack := b.lack ++ [(d, n)] } else b }) id

/-- A lease request that is no longer wanted goes. -/
def dropLeaseAsk (s : State) (who : LWho) : State :=
  (memDies.foldl (fun (s : State) d => s.onMdie d fun c => { c with lreq := c.lreq.filter fun r => r.who != who }) s).onSw fun w =>
    { w with lwait := w.lwait.filter fun x => x.1 != who }

/-- The entries that some pages of a job need at a die, as far as its lease table and the page tables show them: a leaf, or a slab, each
takes one (R261, R262). -/
def entriesAt (s : State) (d jid : Nat) (pages : List Nat) : Nat :=
  let found := (pages.filter fun p => homeDie s (pageVa p) == some d).foldl (fun (l : List TlbEnt) p =>
    let va := addr (pageVa p)
    if l.any fun e => covers e.jid e.size e.vpage jid va then l
    else match (s.mdie d).lt.find? fun e => e.2.covers jid va, (tlbLook s d jid (pageVa p)).1 with
      | some (_, e), _ => { jid := jid, size := e.size, perm := e.perm, vpage := e.vpage, w2 := e.w2, w3 := e.w3 } :: l
      | none, .ok e => e :: l
      | none, .stop .. => l) []
  found.length

/-- Whether some pages need more entries at a die than its table holds (R262). -/
def leasesTooMany (s : State) (jid : Nat) (pages : List Nat) : Bool :=
  memDies.any fun d => decide (ltCap < entriesAt s d jid pages)

/-- A launch that needs more entries at a die than its table holds: a queue launch fault with reason 6 (R262, R349). -/
def refuseLaunch (s : State) (q e : Nat) : State :=
  match s.launch? q e with
  | none => s
  | some l =>
    let s := dropLeaseAsk s (.launch q e)
    queueFault (s.onLaunch q e fun l => { l with stop := true, st := 5, need := [] }) q e (l.fq s) ((s.queue q).slotVa e) 6

/-- LEASE_REQUEST_SERVE: a memory die serves the lease request at its head: it grants all of it at once, or leaves it waiting (R262,
R263); LEASE.ACQ is told at once of a full table or of an ECNT at 255 (R269), RELOC.BIND of the latter (R270). A launch that the tables
of its dependence step did not show to be too large is refused here (R262; log entry 101). -/
def leaseServe (s : State) (d : Nat) : State :=
  let s := retryPages s d
  if !s.dieUp d then s
  else match (s.mdie d).lreq with
    | [] => s
    | q :: _ =>
      let (l, s) := q.pages.foldl (planPage d q.jid) (({ posted := q.posted } : LPlan), s)
      let rest := (s.mdie d).lreq.drop 1
      if l.wait then s.onMdie d fun c => { c with lreq := { q with posted := l.posted } :: rest }
      else
        let c := s.mdie d
        let tooMany := q.who.explicit && c.lt.any fun e => l.hits.contains e.2.age && decide (255 ≤ e.2.ecnt)
        if tooMany || !ltRoom c l.hits l.news.length then
          match q.who with
          | .acq id => lacking (s.onMdie d fun c => { c with lreq := rest }) d id l.news.length
          | .launch q e => if ltCap < l.hits.length + l.news.length then refuseLaunch s q e else s
          | .bind id => if tooMany then lacking (s.onMdie d fun c => { c with lreq := rest }) d id l.news.length else s
        else
          let (c, is) := l.news.foldl ltAdd (c, l.hits)
          granted (s.setMdie d { ltCount c q.who.explicit true is with lreq := rest }) d q.who is

/-! ## LEASE (R268, R269) -/

/-- Whether a lease entry of a die covers a page of a job that the die owns. -/
def entIn (s : State) (d jid : Nat) (pages : List Nat) (e : LEnt) : Bool :=
  pages.any fun p => e.covers jid (addr (pageVa p)) && homeDie s (pageVa p) == some d

/-- LEASE.ACQ and LEASE.REL (R269). -/
def lease (s : State) (n : Nat) (r : Req) (rel : Bool) (a b : Word) : State :=
  let s := s.taken n
  if field b 44 20 ≠ 0 then s.answerErr r 0x04 1 b
  else
    let jid := field b 32 12
    let pages := spanPages a (field b 0 32 + 1)
    if rel then
      let hit := memDies.flatMap fun d => ((s.mdie d).lt.filter fun e => decide (0 < e.2.ecnt) && entIn s d jid pages e.2).map fun e => (d, e.2.age)
      (releaseEnts s true hit).answerSys r (w64 hit.length)
    else
      let s := s.onSw fun w => { w with acqs := w.acqs ++ [{ req := r, need := leaseNeed s pages }] }
      acqSettle (askLeases s (.acq r.id) jid pages) r.id

/-! ## TLBINV (R265, R272) -/

/-- Whether a TLBINV covers a page table entry of a job: the pages of a span, or every page of the job. -/
def invCovers (acc : AccOp) (jid size vpage : Nat) : Bool :=
  match acc with
  | .sys _ sub a b _ =>
    if sub = 1 then jid == field a 0 12
    else
      let p0 := addr a / 2 ^ 18
      jid == field b 32 12 && decide (vpage ≤ p0 + field b 0 32) && decide (p0 < vpage + 2 ^ (pageBits size - 18))
  | _ => false

/-- TLBINV at the dies: translations and unpinned entries go, pinned ones are drained (R265, R272). -/
def tlbinv (s : State) (n : Nat) (r : Req) (sub : Nat) (a b : Word) : State :=
  let s := s.taken n
  if sub = 0 ∧ field b 44 20 ≠ 0 then s.answerErr r 0x04 1 b
  else if sub = 1 ∧ field a 12 52 ≠ 0 then s.answerErr r 0x04 0 a
  else
    let ds := memDies.filter s.dieUp
    let cov (jid size vpage : Nat) : Bool := invCovers r.piece.acc jid size vpage
    let s := ds.foldl (fun (s : State) d => s.onMdie d fun c =>
      let hit (e : Nat × LEnt) : Bool := cov e.2.jid e.2.size e.2.vpage
      let pinned (e : Nat × LEnt) : Bool := decide (0 < e.2.lcnt + e.2.ecnt)
      { c with
        tlb := c.tlb.filter fun e => !cov e.jid e.size e.vpage
        inv := c.inv ++ [(r.id, (c.lt.filter fun e => hit e && pinned e).map (·.2.age))]
        lt := (c.lt.filter fun e => !(hit e && !pinned e)).map fun e => if hit e then (e.1, { e.2 with drain := true }) else e }) s
    if ds.isEmpty then s.answerLane r .dn .dn else s.onSw fun w => { w with waits := w.waits ++ [r] }

/-- TLBINV_DRAIN_COMPLETE: the n-th TLBINV of a die completes there once the entries that it drains are unpinned: they are discarded,
and lease requests that wait for pages in range walk again (R263, R265, R272). -/
def tlbinvComplete (s : State) (d n : Nat) : State :=
  match (s.mdie d).inv[n]? with
  | none => s
  | some (id, is) =>
    if (s.mdie d).lt.any fun e => is.contains e.2.age && decide (0 < e.2.lcnt + e.2.ecnt) then s
    else
      let r := s.sw.waits.find? fun r => r.id == id
      let cov (jid size vpage : Nat) : Bool := match r with
        | some r => invCovers r.piece.acc jid size vpage
        | none => false
      let s := s.onMdie d fun c => { c with
        lt := c.lt.filter fun e => !is.contains e.2.age
        inv := dropNth c.inv n
        tlb := c.tlb.filter fun e => !cov e.jid e.size e.vpage
        lreq := c.lreq.map fun q => { q with posted := q.posted.filter fun p => !cov q.jid 0 p } }
      if s.md.any fun m => m.2.inv.any fun i => i.1 == id then s
      else match r with
        | some r => (s.onSw fun w => { w with waits := w.waits.filter fun x => x.id != id }).answerLane r .dn .dn
        | none => s

/-! ## Reads through the system TLB (R260, R270, R424) -/

/-- A read or write of a job through its page tables, without a lease: where it lands, or a cause; the TLB fills. -/
def tlbLocate (s : State) (jid : Nat) (va : Word) (need : Need) : Except Nat Spot × State :=
  match homeOf s jid va with
  | .error c => (.error c, s)
  | .ok none => (awayAt s va, s)
  | .ok (some v) => match ownerOf s v with
    | .error c => (.error c, s)
    | .ok none => (.error 0x12, s)
    | .ok (some d) =>
      match tlbLook s d jid v with
      | (.stop _ _, s) => (.error 0x01, s)
      | (.ok e, s) =>
        if !need.ok e.perm then (.error 0x03, s)
        else
          let pa := xlate e.size e.w2 e.w3 (addr v)
          if s.chanDead d pa then (.error 0x12, s) else (.ok (.dram d pa), s)

/-- Whether n bytes of a job may be accessed now through the system TLB (R270, R309, R310, R390). -/
def State.tlbGate (s : State) (jid va n : Nat) (need : Need) : State × Bool :=
  s.accessGate (fun v => (tlbLocate s jid v need).1) jid va n

/-- The n 8-byte words at an address, read through the system TLB; a failure names its address. -/
def tlbWords (s : State) (jid va : Nat) : Nat → Except (Nat × Nat) (List Byte) × State
  | 0 => (.ok [], s)
  | n + 1 =>
    match tlbLocate s jid (w64 va) .r with
    | (.error c, s) => (.error (c, va), s)
    | (.ok p, s) => match p.read s 8 with
      | .error c => (.error (c, va), s)
      | .ok w => match tlbWords s jid (va + 8) n with
        | (.ok bs, s) => (.ok (w ++ bs), s)
        | (.error e, s) => (.error e, s)

/-! ## Graph images (R56 to R61) -/

/-- A field of n bytes at an offset. -/
def bytesAt (bs : List Byte) (off n : Nat) : Nat := ofBytes ((bs.drop off).take n)

/-- A table of an image: it starts on a 16-byte boundary and lies inside ISIZE. -/
def tableOk (size off len : Nat) : Bool := off % 16 == 0 && decide (off + len ≤ size)

/-- The conditions of R61 on the header alone. -/
def imgHeadOk (h : List Byte) : Bool :=
  let f (o n : Nat) : Nat := bytesAt h o n
  f 0 4 == 0x4E474946 && f 4 2 == 1 && decide (f 6 2 ≤ 1) && f 8 4 % 16 == 0 && decide (64 ≤ f 8 4)
    && decide (1 ≤ f 0x10 2 ∧ f 0x10 2 ≤ 64) && decide (1 ≤ f 0x12 2 ∧ f 0x12 2 ≤ 16384)
    && decide (1 ≤ f 0x14 4 ∧ f 0x14 4 ≤ 1048576) && decide (1 ≤ f 0x18 2) && f 0x1A 6 == 0 && f 0x38 8 == 0
    && tableOk (f 8 4) (f 0x20 4) (8 * f 0x10 2) && tableOk (f 8 4) (f 0x24 4) (16 * f 0x12 2)
    && tableOk (f 8 4) (f 0x28 4) (8 * f 0x14 4) && tableOk (f 8 4) (f 0x2C 4) (4 * f 0x18 2)

/-- Placement i of an image (R59). -/
def imgPlc (bs : List Byte) (i : Nat) : Nat := bytesAt bs (bytesAt bs 0x28 4 + 8 * i) 8

/-- A placement's fields. -/
def plcOf (w : Nat) : Plc := { rx := nbits w 0 5, ry := nbits w 5 5, blk := nbits w 10 4, gbn := nbits w 16 16 }

/-- No two placements give a tile one BLK (R61). -/
def plcsDistinct : List Plc → Bool
  | [] => true
  | p :: l => !(l.any fun q => q.rx == p.rx && q.ry == p.ry && q.blk == p.blk) && plcsDistinct l

/-- Whether each configuration entry has its fields in range and its placements in their table, and each placement entry names a compute
tile and a block, whether or not a region lists it (R58, R59, R61). NEXT of an entry that no region lists may be any number up to 255, or
0x1FF (log entry 132). -/
def imgTablesOk (bs : List Byte) : Bool :=
  ((List.range (bytesAt bs 0x12 2)).all fun i =>
    let o := bytesAt bs 0x24 4 + 16 * i
    let w := bytesAt bs (o + 8) 8
    bytesAt bs o 8 != 0 && nbits w 57 7 == 0 && nbits w 32 16 != 0 && decide (nbits w 32 16 ≤ 5120)
      && decide (nbits w 0 32 + nbits w 32 16 ≤ bytesAt bs 0x14 4) && (nbits w 48 9 == 0x1FF || decide (nbits w 48 9 ≤ 255))
      && plcsDistinct ((List.range (nbits w 32 16)).map fun k => plcOf (imgPlc bs (nbits w 0 32 + k))))
  && (List.range (bytesAt bs 0x14 4)).all fun i =>
    let p := imgPlc bs i
    nbits p 14 2 == 0 && nbits p 32 32 == 0 && decide (nbits p 5 5 < 20) && (nbits p 0 5 + nbits p 5 5) % 2 == 0
      && decide (nbits p 16 16 < bytesAt bs 0x18 2)

/-- A configuration of a region of wm1 and hm1 with n configurations, if it is valid (R58, R59, R61). -/
def imgCfg (bs : List Byte) (i wm1 hm1 n : Nat) : Option Cfg :=
  let o := bytesAt bs 0x24 4 + 16 * i
  let w := bytesAt bs (o + 8) 8
  let ps := (List.range (nbits w 32 16)).map fun k => imgPlc bs (nbits w 0 32 + k)
  let next := nbits w 48 9
  if next ≠ 0x1FF ∧ n ≤ next then none
  else if ps.any fun p => decide (2 * (wm1 + 1) ≤ nbits p 0 5) || decide (2 * (hm1 + 1) ≤ nbits p 5 5) then none
  else some { iters := bytesAt bs o 8, next := next, plcs := ps.map plcOf }

/-- A list of options, all present. -/
def allSome {α : Type} : List (Option α) → Option (List α)
  | [] => some []
  | none :: _ => none
  | some x :: l => (allSome l).map (x :: ·)

/-- Region v of an image, not yet placed (R57, R61). -/
def imgRegion (bs : List Byte) (v : Nat) : Option Region :=
  let w := bytesAt bs (bytesAt bs 0x20 4 + 8 * v) 8
  let n := nbits w 46 9
  if nbits w 0 6 ≠ v ∨ nbits w 6 2 ≠ 0 ∨ 9 < nbits w 12 4 ∨ nbits w 19 13 ≠ 0 ∨ nbits w 55 9 ≠ 0 ∨ n = 0 ∨ 256 < n
      ∨ bytesAt bs 0x12 2 < nbits w 32 14 + n then none
  else (allSome ((List.range n).map fun c => imgCfg bs (nbits w 32 14 + c) (nbits w 8 4) (nbits w 12 4) n)).map fun cfgs =>
    { vreg := v, die := 0, qx := 0, qy := 0, wm1 := nbits w 8 4, hm1 := nbits w 12 4, ctx := 0, nls := nbits w 16 3 + 1, cfgs := cfgs }

/-- The block directory (R60). -/
def imgDir (bs : List Byte) : List Nat := (List.range (bytesAt bs 0x18 2)).map fun g => bytesAt bs (bytesAt bs 0x2C 4 + 4 * g) 4

/-- An image's regions and directory, if the image is valid (R61). A block whose 16-byte header does not lie inside ISIZE makes it
invalid, since IFLAGS.SYSIMG could not be held against that block (log entry 102). -/
def imgParse (bs : List Byte) : Option (List Region × List Nat) :=
  let dir := imgDir bs
  if crc32c (bs.drop 64) ≠ bytesAt bs 0x0C 4 then none
  else if dir.any fun o => o % 16 != 0 || decide (bs.length < o + 16) then none
  else if bytesAt bs 6 2 = 0 ∧ dir.any fun o => nbits (bytesAt bs o 16) 89 1 == 1 then none
  else if !imgTablesOk bs then none
  else (allSome ((List.range (bytesAt bs 0x10 2)).map fun v => imgRegion bs v)).map fun rs => (rs, dir)

/-! ## RELOC (R267, R270, R271) -/

/-- A region as a relocation word places it (R267). -/
def placeRegion (r : Region) (w : Nat) : Region :=
  { r with die := nbits w 0 4, qx := nbits w 4 4, qy := nbits w 8 4, ctx := nbits w 12 4 }

/-- Two regions share a tile. -/
def regionsMeet (a b : Region) : Bool := a.die == b.die && a.tiles.any fun t => b.covers t

/-- The check of region v of a graph to be placed (R270 step 2): the CODE of the first condition that fails. -/
def placeFault (s : State) (rs : List Region) (r : Region) : Option Nat :=
  if 15 < r.qx + r.wm1 ∨ 9 < r.qy + r.hm1 then some 2
  else if 8 ≤ r.die ∨ !s.dieUp r.die then some 4
  else if r.tiles.any fun t => s.tileDead t then some 3
  else if r.computeTiles.any (fun t => (s.regionAt t r.ctx).isSome) || rs.any fun q => q.vreg != r.vreg && q.ctx == r.ctx && regionsMeet q r then some 5
  else none

/-- The first region that fails, with its CODE. -/
def placeFaults (s : State) (rs : List Region) : Option (Nat × Nat) :=
  rs.findSome? fun r => (placeFault s rs r).map fun c => (r.vreg, c)

/-- The relocation table's words: the header, and one for each region (R267); the word with a reserved bit set. -/
def relocBad (ws : List Nat) : Option Nat :=
  match ws with
  | [] => none
  | h :: l =>
    if nbits h 12 4 ≠ 0 ∨ nbits h 22 42 ≠ 0 then some h else l.find? fun w => nbits w 16 48 != 0

/-- Bytes as 8-byte numbers. -/
def wordNats (bs : List Byte) (n : Nat) : List Nat := (List.range n).map fun i => bytesAt bs (8 * i) 8

/-- The status of RELOC and THAW: CODE and VREG, or GNUM (R270, R380). -/
def relocStatus (code vreg gnum : Nat) : Word := w64 (code + vreg * 2 ^ 8 + gnum * 2 ^ 16)

/-- A graph number that is not in use: the manual does not say which (log entry 2). -/
def freshGnum (s : State) : Nat :=
  let c := (Config.freeWord s.free).toNat % 65536
  ((List.range 65536).find? fun k => (s.graph? ((c + k) % 65536)).isNone).elim 0 fun k => (c + k) % 65536

/-- A job's bandwidth accounts: one at every tile where it has a slot; the first of a tile starts within the period that runs (R411). -/
def addAccount (clk jid : Nat) (c : CTile) : CTile :=
  if c.accts.any fun a => a.2.jid == jid then c
  else match (List.range 16).find? fun i => (AList.get? c.accts i).isNone with
    | some i => { c with
        accts := AList.set c.accts i { jid := jid }
        bwlast := if c.accts.isEmpty then clk / 1024 * 1024 else c.bwlast }
    | none => c

/-- The accounts of a job whose last slot at a tile is free are dropped (R411). -/
def dropAccount (s : State) (jid t : Nat) : State :=
  if (List.range 16).any fun c => s.jobAt t c == some jid then s
  else s.onTile t fun c => { c with accts := c.accts.filter fun a => a.2.jid != jid }

/-- A graph takes its number and slots, and its regions begin to load configuration 0 (R270 steps 4 and 5). -/
def bindGraph (s : State) (g : Nat) (x : Graph) : State :=
  let s := s.onSw fun w => { w with graphs := AList.set w.graphs g x, doneg := w.doneg.filter (· != g), cancd := w.cancd.filter (· != (2, g, 0)) }
  (x.regions.flatMap fun r => r.computeTiles).foldl (fun (s : State) t => s.onTile t (addAccount s.clk x.jid)) s

/-- RELOC.BIND once every die has answered (R270 steps 3 to 5): an ECNT at 255 faults as LEASE.ACQ does (R269), a place taken meanwhile
fails it. -/
def bindSettle (s : State) (id : Nat) : State :=
  match s.sw.binds.find? fun b => b.req.id == id with
  | none => s
  | some b =>
    if !b.need.isEmpty then s
    else
      let s := s.onSw fun w => { w with binds := w.binds.filter fun c => c.req.id != id }
      match leastBy (fun x y => decide (x.1 < y.1)) b.lack, placeFaults s b.graph.regions with
      | some (d, n), _ => (releaseEnts s true b.ents).answerVa b.req 0x15 (w64 b.graph.img) 3 (w64 (n + d * 2 ^ 60))
      | none, some (v, c) => (releaseEnts s true b.ents).answerSys b.req (relocStatus c v 0)
      | none, none =>
        let g := freshGnum s
        (bindGraph (s.useFree 1) g { b.graph with ents := b.ents, regions := b.graph.regions.map fun r => { r with armed := some 0 } }).answerSys
          b.req (relocStatus 0 0 g)

/-- n 8-byte words that an operand names, read through the system TLB for request k of the net, which waits while they may not be
accessed; an access fault at the operand's port answers it, counted by the die (R266, R270, R370). -/
def bindWords (s : State) (k : Nat) (r : Req) (port jid va n : Nat) (go : State → List Byte → State) : State :=
  match s.tlbGate jid va (8 * n) .r with
  | (s, false) => s
  | (s, true) => match tlbWords s jid va n with
    | (.error e, s) => (countAt (s.taken k).spend jid (w64 e.2) e.1).answerVa r e.1 (w64 e.2) port
    | (.ok bs, s) => go s bs

/-- The regions of a valid image with the words of their table: the checks of R270, and the leases of the image's pages. -/
def bindPlace (s : State) (r : Req) (jid img size : Nat) (rs : List Region) (dir ws : List Nat) : State :=
  match ws.find? fun w => nbits w 16 48 != 0 with
  | some w => s.answerErr r 0x04 1 (w64 w)
  | none =>
    let rs := (rs.zip ws).map fun p => placeRegion p.1 p.2
    match placeFaults s rs with
    | some (v, c) => s.answerSys r (relocStatus c v 0)
    | none =>
      let pages := bytePages img size
      let s := s.onSw fun w => { w with binds := w.binds ++ [
        { req := r, need := leaseNeed s pages, graph := { jid := jid, img := img, dir := dir, regions := rs } }] }
      bindSettle (askLeases s (.bind r.id) jid pages) r.id

/-- RELOC.BIND at the switch die, steps 1 to 3 (R270). The table is read in the requester's job, the image in the table's (R267). -/
def bindArrive (s : State) (n : Nat) (r : Req) (a b : Word) : State :=
  bindWords s n r 1 r.jid (addr b) 1 fun s hb =>
    let h := ofBytes hb
    let jid := nbits h 0 12
    if (relocBad [h]).isSome then (s.taken n).spend.answerErr r 0x04 1 (w64 h)
    else bindWords s n r 0 jid (addr a) 8 fun s head =>
      if !imgHeadOk head then (s.taken n).spend.answerSys r (relocStatus 1 0 0)
      else bindWords s n r 0 jid (addr a) (bytesAt head 8 4 / 8) fun s bs =>
        match imgParse bs with
        | none => (s.taken n).spend.answerSys r (relocStatus 1 0 0)
        | some (rs, dir) =>
          if nbits h 16 6 ≠ rs.length % 64 then (s.taken n).spend.answerSys r (relocStatus 6 0 0)
          else bindWords s n r 1 r.jid (addr b + 8) rs.length fun s tb =>
            bindPlace (s.taken n).spend r jid (addr a) (bytesAt head 8 4) rs dir (wordNats tb rs.length)

/-- Whether a graph has a launch popped and not complete. -/
def graphBusy (s : State) (g : Nat) : Bool := s.sw.launch.any fun l => field (l.word 0) 0 16 == g

/-- The entries and slots of a graph go, with its leases and accounts, and its counter is complete until its number names another graph
(R271; log entry 103). -/
def unbindGraph (s : State) (g : Nat) (x : Graph) : State :=
  let s := s.onSw fun w => { w with graphs := AList.erase w.graphs g, doneg := w.doneg.filter (· != g) ++ [g] }
  let s := if x.st == .released then s else
    x.regions.foldl (fun (s : State) r => r.computeTiles.foldl (fun (s : State) t =>
      dropAccount ((s.onTile t fun c => ({ c with
        entries := c.entries.filter fun e => e.2.ctx != r.ctx
        loadWait := c.loadWait.filter fun w => w.1 != g } : CTile).closeRegions r.ctx).serveSlots t) x.jid t) s) s
  x.ents.foldl (fun (s : State) p => s.onMdie p.1 fun c => ltCount c true false [p.2]) s

/-- The lease requests that have waited at the switch die for the home table go out, in order (R262, R390). -/
def sendWaiting (s : State) : State :=
  let ws := s.sw.lwait
  if ws.isEmpty || ws.any fun x => x.2.2.any (pageWaits s) then s
  else
    let s := s.onSw fun w => { w with lwait := [] }
    ws.foldl (fun (s : State) x =>
      let (who, jid, pages) := x
      let need := ownersOf s pages
      let s := sendLeases s who jid pages
      match who with
      | .launch q e => s.onLaunch q e fun l => { l with need := need }
      | .acq id => acqSettle (s.onSw fun w => { w with acqs := w.acqs.map fun a => if a.req.id == id then { a with need := need } else a }) id
      | .bind id =>
        bindSettle (s.onSw fun w => { w with binds := w.binds.map fun b => if b.req.id == id then { b with need := need } else b }) id) s

/-- RELOC.UNBIND (R271): it waits while the graph has a launch outstanding. -/
def unbind (s : State) (r : Req) (a : Word) : State :=
  let g := field a 0 16
  match s.graph? g with
  | none => s.answerSys r 7
  | some x =>
    if x.jid ≠ field a 16 12 then s.answerSys r 7
    else if graphBusy s g then s.onSw fun w => { w with unbinds := w.unbinds ++ [r] }
    else (unbindGraph s g x).answerSys r 0

/-- RELOC.UNBIND at the switch die (R271). -/
def unbindArrive (s : State) (n : Nat) (r : Req) (a : Word) : State :=
  let s := s.taken n
  if field a 28 36 ≠ 0 then s.answerErr r 0x04 0 a else unbind s r a

/-- The UNBINDs that wait are tried again after a launch has ended. -/
def retryUnbinds (s : State) : State :=
  let rs := s.sw.unbinds
  rs.foldl (fun (s : State) r => match r.piece.acc with
    | .sys _ _ a _ _ => unbind s r a
    | _ => s) (s.onSw fun w => { w with unbinds := [] })

end Sys2Proof.Machine
end

