-- ==== Sys2Proof/Machine/Launch.lean ====
section
/-! DEFINITION. Launches: pop and checks, phases, edges, admission, dealing, units, completion, CNTRD and CANCEL (R348 to R357, R367,
R368). -/

namespace Sys2Proof.Machine

/-! ## Cards (R348) -/

/-- GNUM of a launch. -/
def Launch.gnum (l : Launch) : Nat := field (l.word 0) 0 16
/-- CFG. -/
def Launch.cfg (l : Launch) : Nat := field (l.word 0) 16 8
/-- BLK. -/
def Launch.blk (l : Launch) : Nat := field (l.word 0) 24 4
/-- RSIZE. -/
def Launch.rsize (l : Launch) : Nat := field (l.word 2) 0 16
/-- NFOOT. -/
def Launch.nfoot (l : Launch) : Nat := field (l.word 3) 57 4
/-- PRI. -/
def Launch.pri (l : Launch) : Nat := field (l.word 4) 0 3
/-- CLASS. -/
def Launch.cls (l : Launch) : Nat := field (l.word 4) 3 2
/-- PHASE. -/
def Launch.phase (l : Launch) : Nat := field (l.word 4) 8 8
/-- VREG. -/
def Launch.vreg (l : Launch) : Nat := field (l.word 4) 16 6
/-- P, the number of regions served (R352). -/
def Launch.regions (l : Launch) : Nat := field (l.word 4) 22 6 + 1
/-- Whether a launch serves a region. -/
def Launch.serves (l : Launch) (v : Nat) : Bool := decide (l.vreg ≤ v) && decide (v < l.vreg + l.regions)

/-- Whether a card has a zero field that is not zero (R348). -/
def Launch.zeroBad (l : Launch) : Bool :=
  field (l.word 0) 38 26 != 0 || field (l.word 1) 57 7 != 0 || field (l.word 2) 16 16 != 0 || field (l.word 3) 61 3 != 0
    || field (l.word 4) 5 3 != 0 || field (l.word 4) 28 4 != 0 || field (l.word 5) 57 7 != 0 || field (l.word 6) 16 48 != 0

/-- Whether a card has a zero field that is not zero, EPORT = 0b11 or CLASS = 3, or a table or record off its alignment (reason 2 of R349;
log entry 21). -/
def Launch.badFields (l : Launch) : Bool :=
  l.zeroBad || field (l.word 0) 35 2 == 3 || l.cls == 3 || field (l.word 3) 0 4 != 0 || field (l.word 5) 0 4 != 0

/-- The 16-byte ranges of a footprint table (R348). -/
def footRanges : List Byte → Nat → List (Nat × Nat)
  | _, 0 => []
  | bs, n + 1 => (ofBytes (bs.take 8), ofBytes ((bs.drop 8).take 8)) :: footRanges (bs.drop 16) n

/-- Reading n ranges as a job, 16 bytes at a time. -/
def readFoot (s : State) (jid va : Nat) : Nat → Except Nat (List Byte)
  | 0 => .ok []
  | n + 1 => match jobRead s jid (w64 va) 16 with
    | .error c => .error c
    | .ok bs => (readFoot s jid (va + 16) n).map (bs ++ ·)

/-- A range from its words. -/
def rangeOf (w : Nat × Nat) : Range := { base := nbits w.1 0 57, len := nbits w.2 0 48, r := nbits w.1 57 1 == 1, w := nbits w.1 58 1 == 1 }

/-- No tile of a region places a block in a configuration. -/
def Region.lacksBlock (r : Region) (c blk : Nat) : Bool :=
  match r.cfg? c with
  | none => true
  | some x => !x.plcs.any fun p => p.blk == blk

/-- The checks of R349 after the card has been read: the launch with its ranges, or the reason of its fault. -/
def checkCard (s : State) (l : Launch) : Except Nat Launch :=
  if l.badFields then .error 2
  else match if l.nfoot ≤ 8 then readFoot s l.jid (field (l.word 3) 0 57) l.nfoot else .ok [] with
    | .error _ => .error 1
    | .ok bs =>
      let ws := footRanges bs (min l.nfoot 8)
      let foot := ws.map rangeOf
      if ws.any fun w => nbits w.1 59 5 != 0 || nbits w.2 48 16 != 0 then .error 2
      else match s.graph? l.gnum with
        | none => .error 3
        | some g =>
          if g.jid != l.jid || g.regions.length < l.vreg + l.regions then .error 3
          else if (0 < l.rcount ∧ (l.rsize = 0 ∨ l.rsize % 8 ≠ 0)) ∨ 8 < l.nfoot ∨ foot.any (fun x => !(x.r || x.w) || x.len == 0) then .error 4
          else if l.phase ≠ (s.job l.jid).phase ∧ l.phase ≠ ((s.job l.jid).phase + 1) % 256 then .error 5
          else if (List.range l.regions).any fun i => match g.regions[l.vreg + i]? with
              | some r => r.lacksBlock l.cfg l.blk
              | none => true then .error 7
          else .ok { l with foot := foot }

/-! ## What ends with a launch (R356, R357) -/

/-- Whether an entry has been pushed to a launch queue and not yet popped. -/
def unpopped (s : State) (q e : Nat) : Bool :=
  (s.queue q).kind == 0 && decide ((e + 2 ^ 32 - (s.queue q).head) % 2 ^ 32 < (s.queue q).occ)

/-- Whether a launch has not ended, or is marked to end at its pop: one whose entry QCTL.CLOSE has discarded will never pop. -/
def launchPending (s : State) (p : Nat × Nat) : Bool :=
  (s.launch? p.1 p.2).isSome || (s.sw.marks.contains p && unpopped s p.1 p.2)

/-- CANCELs whose objects have ended answer with the prior value and done (R368). -/
def settleCancels (s : State) : State :=
  let (done, left) := s.sw.cancels.partition fun c =>
    !(c.ls.any (launchPending s)) && (match c.unit with
      | some u => (s.unitFrames u).isEmpty
      | none => true)
  done.foldl (fun (s : State) c => if c.own then s else s.answerLane c.req (.scal c.prior) .dn)
    (s.onSw fun w => { w with cancels := left })

/-- A launch becomes known with its final status and OUT, until its queue slot is pushed again (R356). -/
def launchKnown (s : State) (q e st out : Nat) : State :=
  settleCancels (s.onSw fun w => { w with known := (q, e, st, out) :: w.known.filter fun k => !(k.1 == q && k.2.1 == e) })

/-- Raising and exchanging words of job memory by atomics, which need A and W (R259, R324), through the job's page tables: the launch's
leases have gone by then (R357). -/
def jobAtomic (s : State) (jid : Nat) (va : Word) (g : Word → Word) : Except Nat State :=
  match tlbLocate s jid va .aw with
  | (.error c, _) => .error c
  | (.ok (.dram d pa), s) =>
    if s.abBad d pa then .error 0x0D
    else .ok ((s.atomDone d pa true).dramWord d pa (g (s.dramGet d pa)))
  | (.ok _, s) => .ok s

/-- A word of a launch's completion record by atomic; one that fails counts in CPSTAT.FLOST (R357). -/
def recordWord (s : State) (l : Launch) (off : Nat) (g : Word → Word) : State × Bool :=
  match if addr (l.word 5) % 16 = 0 then jobAtomic s l.jid (w64 (addr (l.word 5) + off)) g else .error 0x04 with
  | .ok s => (s, true)
  | .error _ => (s.onSw fun w => { w with flost := min (w.flost + 1) 31 }, false)

/-- Word 1 of the completion record: ST and the records completed (R357). -/
def recordStatus (l : Launch) : Word := w64 (l.st + l.comp % 2 ^ 32 * 2 ^ 32)

/-! ## Edges and leases (R262, R351) -/

/-- Two ranges share a byte. -/
def Range.meets (a b : Range) : Bool := decide (a.base < b.base + b.len) && decide (b.base < a.base + a.len)

/-- Whether a card depends on an earlier launch (R351). -/
def dependsOn (l e : Launch) : Bool :=
  if l.nfoot = 0 ∧ l.cls = 0 then false
  else l.cls == 2 || e.cls == 2
    || (l.cls == 0 && l.foot.any fun a => e.foot.any fun b => (a.w || b.w) && a.meets b)

/-- A launch that a CANCEL has taken out of the dependence set: it was not admitted (R368). -/
def Launch.leftSet (l : Launch) : Bool := l.stop && l.st == 4 && l.stage != .running

/-- The earlier launches of its job that a card depends on. -/
def edgesOf (l : Launch) : List Launch → List (Nat × Nat)
  | [] => []
  | e :: rest =>
    if e.queue = l.queue ∧ e.entry = l.entry then []
    else if e.jid == l.jid && !e.leftSet && dependsOn l e then (e.queue, e.entry) :: edgesOf l rest
    else edgesOf l rest

/-- The pages of a launch's ranges. -/
def Launch.pages (l : Launch) : List Nat := distinct (l.foot.flatMap fun r => bytePages r.base r.len)

/-- A launch whose edges have cleared asks for its leases; with no records it completes (R262, R351). -/
def toLeasing (s : State) (l : Launch) : State :=
  if l.rcount = 0 then s.onLaunch l.queue l.entry fun l => { l with stage := .ended }
  else
    let need := leaseNeed s l.pages
    askLeases (s.onLaunch l.queue l.entry fun l => { l with stage := .leasing, need := need }) (.launch l.queue l.entry) l.jid l.pages

/-- The launches whose last edge has cleared enter leasing, in pop order (R351). -/
def enterLeasing (s : State) : State :=
  (s.sw.launch.filter fun l => l.stage == .edges && !l.stop && l.edges.isEmpty).foldl toLeasing s

/-- A card that fails after its pop: the queue launch fault, and the launch ends with ST 5 (R349, R352). -/
def launchFault (s : State) (l : Launch) (reason : Nat) : State :=
  queueFault (s.onLaunch l.queue l.entry fun l => l.halted 5) l.queue l.entry (l.fq s) ((s.queue l.queue).slotVa l.entry) reason

/-- A launch past the phase gate takes its edges, unless its ranges need more lease entries than a table holds (R262, R349, R351); when
they have cleared by the end of the clk, it enters leasing. -/
def deriveEdges (s : State) (l : Launch) : State :=
  let es := edgesOf l s.sw.launch
  let s := s.onLaunch l.queue l.entry fun l => { l with stage := .edges, edges := es }
  if leasesTooMany s l.jid l.pages then launchFault s l 6 else s

/-- The phase gate of a job (R350): the cards that wait proceed in pop order; one of the next phase waits until no launch of the job that
has been popped is of the present one, those behind it among them; one whose phase has gone by, after a write of PHASE, faults (log
entry 22). -/
def phaseGate : Nat → State → Nat → State
  | 0, s, _ => s
  | n + 1, s, jid =>
    match s.sw.launch.find? fun l => l.jid == jid && l.stage == .phase && !l.stop with
    | none => s
    | some l =>
      let p := (s.job jid).phase
      if l.phase = p then phaseGate n (deriveEdges s l) jid
      else if l.phase = (p + 1) % 256 then
        if s.sw.launch.any fun e => e.jid == jid && e.phase == p then s
        else phaseGate n (deriveEdges (s.onJob jid fun j => { j with phase := l.phase }) l) jid
      else phaseGate n (launchFault s l 5) jid

/-- The phase gate over every card that waits. -/
def openGate (s : State) (jid : Nat) : State := phaseGate s.sw.launch.length s jid

/-! ## Pop (R349) -/

/-- Launches popped and not complete, of a job. -/
def State.lout (s : State) (jid : Nat) : Nat := (s.sw.launch.filter fun l => l.jid == jid).length

/-- The launch queues from which a card may be popped. -/
def popQueues (s : State) : List (Nat × Queue) :=
  (s.sw.queues.map fun q => (q.1, s.queueNow q.1)).filter fun q => q.2.kind == 0 && (q.2.state == 1 || q.2.state == 3)
    && !q.2.popEmpty s.clk && q.2.refused != s.clk + 1 && decide (s.lout q.2.jid < 4096) && !(s.job q.2.jid).susp

/-- The queue that the command processor chooses, with the new guard count: highest PRI, round-robin within it, the guard of R36. -/
def choosePop (s : State) : Option (Nat × Nat) :=
  let qs := popQueues s
  let top := qs.foldl (fun n q => max n q.2.pri) 0
  let high := qs.filter fun q => q.2.pri == top
  let low := qs.filter fun q => decide (q.2.pri < top)
  let last := AList.getD s.sw.poplast top (2 ^ 15)
  let rr := ((high.find? fun q => decide (last < q.1)).orElse fun _ => high.head?).map (·.1)
  if 64 ≤ s.sw.popg then
    match leastBy (fun a b => decide (a.2.since < b.2.since)) low with
    | some q => some (q.1, 0)
    | none => rr.map fun q => (q, 0)
  else rr.map fun q => (q, if low.isEmpty then 0 else s.sw.popg + 1)

/-- The launch that a card makes. -/
def launchOf (s : State) (q i : Nat) (bs : List Byte) : Launch :=
  { queue := q, entry := i, jid := (s.queue q).jid, card := (wordNats bs 8).map w64, cardVA := cardAddr s q i, stage := .phase }

/-- A graph, phase and job to which a new launch belongs are no longer ended. -/
def State.revive (s : State) (l : Launch) : State :=
  if s.sw.cancd.isEmpty then s
  else s.onSw fun w => { w with cancd := w.cancd.filter fun k => k != (2, l.gnum, 0) && k != (3, l.phase, l.jid) && k != (4, l.jid, 0) }

/-- A card that has been popped: a marked one completes as cancelled; else it is checked, and waits at the phase gate; one that fails ends
with ST 5, and its completion record is to be written (R349, R350, R357, R368). -/
def popped (s : State) (l : Launch) : State :=
  let e := l.entry % 2 ^ 32
  if s.sw.marks.contains (l.queue, e) then
    launchKnown (s.onSw fun w => { w with marks := w.marks.filter (· != (l.queue, e)) }) l.queue e 4 l.rcount
  else match checkCard s l with
    | .error r =>
      queueFault (s.onSw fun w => { w with launch := w.launch ++ [{ l with stage := .ended, stop := true, st := 5 }] })
        l.queue l.entry (l.fq s) ((s.queue l.queue).slotVa l.entry) r
    | .ok l => openGate ((s.revive l).onSw fun w => { w with launch := w.launch ++ [l] }) l.jid

/-- Whether the card at the head of a queue, and the footprint table that it names, may be read now (R309, R310, R343, R346). -/
def cardGate (s : State) (q : Nat) : State × Bool :=
  let x := s.queueNow q
  match popGate s q, jobRead s x.jid (x.slotVa x.head) 64 with
  | (s, true), .ok bs =>
    let l := launchOf s q x.head bs
    if s.sw.marks.contains (q, x.head) || l.badFields || l.nfoot == 0 || decide (8 < l.nfoot) then (s, true)
    else s.jobGate l.jid (w64 (field (l.word 3) 0 57)) (16 * l.nfoot) .r
  | p, _ => p

/-- CARD_POP: at most one card every 4 clk, none while 16,384 launches are outstanding (R349). -/
def cardPop (s : State) : State :=
  if (match s.sw.popclk with
      | some c => decide (s.clk < c + 4)
      | none => false) || decide (16384 ≤ s.sw.launch.length) then s
  else match choosePop s with
    | none => s
    | some (q, g) =>
      match cardGate s q with
      | (s, false) => s
      | (s, true) =>
        let x := s.queue q
        let s := s.onSw fun w => { w with popclk := some s.clk, popg := g, poplast := AList.set w.poplast x.pri q }
        match popEntry s q with
        | (s', .ok i, bs) =>
          popped (s'.onSw fun w => { w with named := w.named.filter fun c => !(c.1 == q && c.2.1 == i) })
            { launchOf s q i bs with entry := i + 2 ^ 32 * x.epoch }
        | (s', _, _) => s'

/-- LAUNCH_ADMIT: launch n, every die having granted, is admitted (R262). -/
def launchAdmit (s : State) (n : Nat) : State :=
  match s.sw.launch[n]? with
  | none => s
  | some l =>
    if l.stage != .leasing || !l.need.isEmpty || l.stop then s
    else (s.onLaunch l.queue l.entry fun l => { l with stage := .running, adm := s.sw.admno }).onSw fun w => { w with admno := w.admno + 1 }

/-! ## Dealing (R352, R353) -/

/-- Whether a tile is testing or aborting (R398). -/
def CTile.testing (c : CTile) : Bool := c.scan.state != 0

/-- Whether the dealer may deal to a region: its run in configuration c, its die in service, its graph not frozen, no tile testing
(R352, R377, R391, R398). -/
def regionOpen (s : State) (g : Graph) (r : Region) (c : Nat) : Bool :=
  g.st == .bound && r.active && r.cfg == c && s.dieUp r.die && !r.computeTiles.any fun t => (s.tile t).testing

/-- The lowest free launch slot of a region, or the one that the launch holds (R352). -/
def slotFor (s : State) (l : Launch) (v : Nat) (r : Region) : Option Nat :=
  match l.slots.find? fun p => p.1 == v with
  | some p => some p.2
  | none => (List.range r.nls).find? fun i =>
      !s.sw.launch.any fun e => e.gnum == l.gnum && e.slots.contains (v, i)

/-- Whether a launch could deal its next sheaf to a region (R352). -/
def canDeal (s : State) (l : Launch) (v : Nat) : Bool :=
  l.stage == .running && !l.stop && decide (l.dealt < l.rcount) && l.serves v && !(l.sheaf.any fun p => p.1 == v)
    && !(s.job l.jid).susp
    && match s.graph? l.gnum, s.region? l.gnum v with
      | some g, some r => regionOpen s g r l.cfg && (slotFor s l v r).isSome
      | _, _ => false

/-- Whether a launch is served before another at a region: higher PRI, then admitted earlier (R352). -/
def servedBefore (a b : Launch) : Bool := decide (b.pri < a.pri) || (a.pri == b.pri && decide (a.adm < b.adm))

/-- The size of a launch's next sheaf to a region (R352). -/
def sheafSize (l : Launch) (v : Nat) : Nat :=
  let r := l.rcount - l.dealt
  let first := field (l.word 4) 32 16
  if first ≠ 0 ∧ !(l.slots.any fun p => p.1 == v) then min r first
  else min r (max (max (field (l.word 4) 48 16) 1) (ceilDiv r (2 * l.regions)))

/-- The tiles of a region that place a block in its present configuration, in ascending (RY, RX) (R353). -/
def dealTiles (r : Region) (blk : Nat) : List Nat :=
  let ps := ((r.cfg? r.cfg).map (·.plcs)).getD []
  (sortBy (fun a b => decide (a.ry < b.ry) || (a.ry == b.ry && decide (a.rx ≤ b.rx))) (ps.filter fun p => p.blk == blk)).map fun p =>
    r.tileAt p.rx p.ry

/-- The record of a unit whose first frame could never be granted (R101, R372): the dealer has no instruction to name. -/
def overrunRecord (s : State) (l : Launch) (c : Nat) : List Word :=
  [w64 (0x09 + 2 ^ 14 + s.version % 2 ^ 32 * 2 ^ 32), 0, 0, w64 (l.queue + 2 ^ 15 + l.entry % 2 ^ 32 * 2 ^ 16), w64 (addr l.cardVA), w64 c,
   w64 s.clk, 0]

/-- The request for the frame of records next to next + k - 1 (R102, R353). -/
def dealRequest (l : Launch) (r : Region) (t slot next k : Nat) : AllocReq :=
  { seq := 0, owner := none, unit := { queue := l.queue, entry := l.entry, no := l.unitNo }, ctx := r.ctx, blk := l.blk,
    base := w64 next, argp := w64 ((addr (l.word 1) + l.rsize * next) % 2 ^ 57), ret := 0, lslot := slot, active := List.range k,
    toks := if field (l.word 0) 37 1 = 1 then
        [{ dst := t, ctx := r.ctx, fi := 0, blk := l.blk, ix := field (l.word 0) 28 7, port := field (l.word 0) 35 2, lb := 0, rl := k,
           pay := .run ((List.range k).map fun i => w64 (next + i)) }]
      else [] }

/-- One frame of the sheaf in hand at a region: the state after it, and whether it went out (R353). -/
def dealFrame (s : State) (q e v : Nat) : State × Bool :=
  match s.launch? q e with
  | none => (s, false)
  | some l =>
    match l.sheaf.find? (fun p => p.1 == v), s.graph? l.gnum, s.region? l.gnum v with
    | some (_, next, stop), some g, some r =>
      let ts := dealTiles r l.blk
      let t := ts.getD (r.rr % max ts.length 1) 0
      if !regionOpen s g r l.cfg || ts.isEmpty || 16 ≤ ((s.tile t).allocOf r.ctx).length then (s, false)
      else match (s.tile t).entry r.ctx l.blk with
        | none => (s, false)
        | some b =>
          let k := min b.block.lw (stop - next)
          let slot := ((l.slots.find? fun p => p.1 == v).map (·.2)).getD 0
          if (s.tile t).quotaOf r.ctx < b.block.cells then
            let s := (s.onQueue q fun x => x.setState s.clk 2).onLaunch q e fun l => l.halted 5
            (s.pendRec { jid := l.jid, fq := l.fq s, words := overrunRecord s l b.block.cells }, false)
          else
            let s := (s.request t (dealRequest l r t slot next k)).onRegion l.gnum v fun r => { r with rr := (r.rr + 1) % max ts.length 1 }
            (s.onLaunch q e fun l => { l with
              units := l.units ++ [(l.unitNo, k, v)], unitNo := l.unitNo + 1
              sheaf := if next + k = stop then l.sheaf.filter fun p => p.1 != v
                       else l.sheaf.map fun p => if p.1 = v then (v, next + k, stop) else p }, true)
    | _, _, _ => (s, false)

/-- As many frames of the sheaf in hand as the allocation queues take. -/
def dealFrames : Nat → State → Nat → Nat → Nat → State
  | 0, s, _, _, _ => s
  | n + 1, s, q, e, v => match dealFrame s q e v with
    | (s, true) => dealFrames n s q e v
    | (s, false) => s

/-- SHEAF_DEAL: the sheaf in hand of launch n at region v goes on, or the launch's next sheaf goes there (R352, R353); a region whose run
has ended makes it fault with reason 7. -/
def sheafDeal (s : State) (n v : Nat) : State :=
  match s.sw.launch[n]? with
  | none => s
  | some l =>
    if l.stage != .running || l.stop || !l.serves v then s
    else match s.region? l.gnum v with
      | none => s
      | some r =>
        let fuel := 16 * r.computeTiles.length + 1
        if r.done && (decide (l.dealt < l.rcount) || l.sheaf.any fun p => p.1 == v) then launchFault s l 7
        else if l.sheaf.any fun p => p.1 == v then (dealFrames fuel s l.queue l.entry v).onLaunch l.queue l.entry freeSlots
        else if canDeal s l v && !(s.sw.launch.any fun e => e.gnum == l.gnum && servedBefore e l && canDeal s e v) then
          let k := sheafSize l v
          let slot := (slotFor s l v r).getD 0
          let s := s.onLaunch l.queue l.entry fun l => { l with
            dealt := l.dealt + k, sheaf := l.sheaf ++ [(v, l.dealt, l.dealt + k)]
            slots := if l.slots.any fun p => p.1 == v then l.slots else l.slots ++ [(v, slot)] }
          (dealFrames fuel s l.queue l.entry v).onLaunch l.queue l.entry freeSlots
        else s

/-! ## Units (R103, R356) -/

/-- Whether a unit has neither a frame nor a frame request; frames that were ended while their graph stood frozen in place do not count
(R378). -/
def unitGone (s : State) (u : UnitId) : Bool :=
  ((s.unitFrames u).all fun p => (s.frame? p.1 p.2).any fun x => x.st == .frozen && x.doomed) && !(s.ct.any fun c => c.2.allocq.any fun q => q.2.any fun r => r.unit == u)

/-- A unit that has no frame left is complete: its launch's OUT falls by its records (R38, R103, R356; log entry 89). -/
def unitCheck (s : State) (u : UnitId) : State :=
  if !unitGone s u then s
  else settleCancels (s.onLaunch u.queue u.entry fun l =>
    match l.units.find? fun x => x.1 == u.no with
    | some x => freeSlots { l with
        units := l.units.filter (fun y => y.1 != u.no), comp := l.comp + x.2.1, killed := l.killed.filter (· != u.no) }
    | none => l)

/-- FRAME_RETURN_FREE: an ENDING frame with all counters zero returns its cells and its FI (R99, R104). -/
def frameReturn (s : State) (t fi : Nat) : State :=
  match s.frame? t fi with
  | none => s
  | some x =>
    if x.st != .ending || x.old != 0 || x.ost != 0 || x.ocp != 0 || x.oto != 0 then s
    else
      let s := s.onTile t fun c => { c with
        frames := AList.erase c.frames fi, tags := c.tags.put fi, fences := c.fences.filter fun e => !e.firing.of fi }
      unitCheck s x.unit

/-! ## Completion (R357) -/

/-- Whether a launch has ended (R351, R352, R356, R368). -/
def Launch.isOver (l : Launch) : Bool :=
  l.stage == .ended || (l.stop && l.units.isEmpty)
    || (l.stage == .running && decide (l.rcount ≤ l.dealt) && l.units.isEmpty && l.sheaf.isEmpty)

/-- The edges to a launch clear; launches that have none left enter leasing at the end of the clk (R351). -/
def clearEdges (s : State) (q e : Nat) : State :=
  s.onSw fun w => { w with launch := w.launch.map fun l => { l with edges := l.edges.filter (· != (q, e)) } }

/-- A launch that has ended leaves, and what waits for it goes on (R271, R350, R351, R356). -/
def launchGone (s : State) (l : Launch) : State :=
  let s := s.onSw fun w => { w with launch := w.launch.filter fun e => !(e.queue == l.queue && e.entry == l.entry) }
  let s := clearEdges s l.queue l.entry
  let s := if l.unk then settleCancels s else launchKnown s l.queue (l.entry % 2 ^ 32) l.st (l.rcount - l.comp)
  retryUnbinds (openGate s l.jid)

/-- Word 0 of the completion record is raised, and the launch is gone (R357). -/
def recordRaise (s : State) (l : Launch) : State :=
  match s.tlbGate l.jid (addr (l.word 5)) 8 .aw with
  | (s, false) => s
  | (s, true) => launchGone (recordWord s.spend l 0 fun w => w + 1).1 l

/-- The first part of a launch's end: its leases go, then word 1 of the completion record is written, and the flush of AADD.REL.HOST is
on its way (R264, R357, R426). -/
def recordOpen (s : State) (l : Launch) : State :=
  match s.tlbGate l.jid (addr (l.word 5) + 8) 8 .aw with
  | (s, false) => s
  | (s, true) =>
    match recordWord s.spend l 8 fun _ => recordStatus l with
    | (s, true) => s.onLaunch l.queue l.entry fun l => { l with flush := true }
    | (s, false) => launchGone s l

/-- LAUNCH_COMPLETE: launch n has ended: its leases go, its record is written, what waits for it goes on (R264, R350, R351, R357,
R271). With a completion record it takes two such events: the second is the return of the flush that word 0 waits for (log entry 99). -/
def launchComplete (s : State) (n : Nat) : State :=
  match s.sw.launch[n]? with
  | none => s
  | some l =>
    if !l.isOver then s
    else if l.flush then recordRaise s l
    else
      let s := (releaseEnts (dropLeaseAsk s (.launch l.queue l.entry)) false l.ents).onLaunch l.queue l.entry fun l => { l with ents := [] }
      let l := { l with ents := [] }
      if addr (l.word 5) = 0 then launchGone s l else recordOpen s l

/-! ## CNTRD and CANCEL (R356, R360, R367, R368) -/

/-- The objects of the five levels. -/
inductive CObj where
  | unit (u : UnitId)
  | launch (q e : Nat)
  | graph (g : Nat)
  | phase (jid p : Nat)
  | job (jid : Nat)
  | unknown
deriving DecidableEq, Repr

/-- The frame's unit of the firing that a request is of. -/
def State.unitOf (s : State) (r : Req) : Option UnitId := ((s.opOf r).bind fun o => s.frameOf o.firing).map (·.unit)

/-- The object that holds the firing's frame (R367). -/
def ownObject (s : State) (r : Req) (level : Nat) : CObj :=
  match s.unitOf r with
  | none => .unknown
  | some u =>
    let l := s.launch? u.queue u.entry
    match level with
    | 0 => .unit u
    | 1 => .launch u.queue u.entry
    | 2 => (l.map fun l => CObj.graph l.gnum).getD .unknown
    | 3 => .phase r.jid ((l.map (·.phase)).getD (s.job r.jid).phase)
    | _ => .job r.jid

/-- The launch of a queue that an entry index names: the one popped last, if there is one (R349, R356). -/
def launchNamed (s : State) (q e : Nat) : CObj :=
  .launch q (((s.sw.launch.reverse.find? fun l => l.queue == q && l.entry % 2 ^ 32 == e).map (·.entry)).getD e)

/-- The object that an object id names, or the cause (R360, R367). -/
def objectOf (s : State) (r : Req) (level : Nat) (a : Word) : Except Nat CObj :=
  if a = BitVec.allOnes 64 then .ok (ownObject s r level)
  else match level with
    | 0 => .error 0x04
    | 1 => if field a 47 17 ≠ 0 then .error 0x04 else .ok (launchNamed s (field a 0 15) (field a 15 32))
    | 2 => if field a 16 48 ≠ 0 then .error 0x04 else .ok (.graph a.toNat)
    | 3 => if field a 8 56 ≠ 0 then .error 0x04 else .ok (.phase r.jid a.toNat)
    | _ =>
      if field a 12 52 ≠ 0 then .error 0x04
      else if a.toNat ≠ r.jid ∧ !s.sysJob r.jid then .error 0x03
      else .ok (.job a.toNat)

/-- ST of a launch whose counter is known: it is complete, or was popped and not admitted, or runs. -/
def Launch.status (l : Launch) : Nat := if l.isOver then l.st else if l.stage == .running then 2 else 1

/-- A counter value from OUT and ST (R356). -/
def counterOf (out st : Nat) : Word := w64 (out % 2 ^ 32 + st * 2 ^ 32)

/-- The value of a counter above the launch, with n outstanding: it runs, or is cancelled, or stands at `st` (R356, R368). -/
def State.upper (s : State) (key : Nat × Nat × Nat) (n st : Nat) : Word :=
  counterOf n (if n = 0 ∧ s.sw.cancd.contains key then 4 else if n = 0 then st else 2)

/-- The counter value of an object (R356, R368; log entry 23). -/
def counterValue (s : State) : CObj → Word
  | .unit u => counterOf (s.unitFrames u).length 2
  | .launch q e =>
    match s.launch? q e with
    | some l => if l.unk then 0 else counterOf (l.rcount - l.comp) l.status
    | none => match s.sw.known.find? fun k => k.1 == q && k.2.1 == e % 2 ^ 32 with
      | some k => counterOf k.2.2.2 k.2.2.1
      | none => 0
  | .graph g =>
    if (s.graph? g).isSome then s.upper (2, g, 0) (s.sw.launch.filter fun l => l.gnum == g).length 2
    else if s.sw.doneg.contains g then s.upper (2, g, 0) 0 3 else 0
  | .phase j p => s.upper (3, p, j) (s.sw.launch.filter fun l => l.jid == j && l.phase == p).length 3
  | .job j =>
    if (s.job j).valid then s.upper (4, j, 0) (distinct ((s.sw.launch.filter fun l => l.jid == j).map (·.phase))).length 2 else 0
  | .unknown => 0

/-- CNTRD (R367). -/
def cntrd (s : State) (n : Nat) (r : Req) (level : Nat) (a : Word) : State :=
  let s := s.taken n
  match objectOf s r level a with
  | .error c => s.answerErr r c 0 (if c = 0x04 then a else 0)
  | .ok o => s.answerLane r (.scal (counterValue s o)) .dn

/-- A compute tile no longer holds banks, tables and operations for a context that is frozen (R242). -/
def CTile.endHold (c : CTile) (ctx : Nat) : CTile :=
  let bank (b : MxBank) : MxBank := if b.valid && b.ctx == ctx then { b with valid := false } else b
  let tab (x : CbTab) : CbTab := if x.valid && x.ctx == ctx then { x with valid := false } else x
  { c with
    acc0 := bank c.acc0, acc1 := bank c.acc1, tab0 := tab c.tab0, tab1 := tab c.tab1
    mxFrozen := c.mxFrozen.filter fun o => o.msg.firing.ctx != ctx }

/-- A launch of a frozen graph has been cancelled: its image no longer thaws (R378), and the holds of one frozen in place end (R242). -/
def cancelFrozen (s : State) (gnum : Nat) : State :=
  match s.graph? gnum with
  | none => s
  | some g =>
    if g.st == .released then s.onGraph gnum fun x => { x with dead := true }
    else if g.st == .frozen then
      g.regions.foldl (fun (s : State) r => r.computeTiles.foldl (fun (s : State) t => s.onTile t fun c => c.endHold r.ctx) s)
        (s.onGraph gnum fun x => { x with dead := true })
    else s

/-- A launch stops: nothing more is dealt to it, its units end; not yet admitted, it leaves the dependence set; a freeze image of its graph
no longer thaws (R368, R378). One that is complete does not change (R368). -/
def cancelLaunch (s : State) (l : Launch) : State :=
  if l.isOver then s else
  let us := l.units.map fun u => ({ queue := l.queue, entry := l.entry, no := u.1 } : UnitId)
  let s := s.onLaunch l.queue l.entry fun l => { l.halted (if l.st = 5 then 5 else 4) with edges := [] }
  let s := if l.stage == .running then s else clearEdges s l.queue l.entry
  let s := cancelFrozen s l.gnum
  us.foldl (fun (s : State) u => unitCheck (killUnit s u) u) s

/-- The launches that an object holds, popped and not complete. -/
def objectLaunches (s : State) : CObj → List Launch
  | .launch q e => (s.launch? q e).toList
  | .graph g => s.sw.launch.filter fun l => l.gnum == g
  | .phase j p => s.sw.launch.filter fun l => l.jid == j && l.phase == p
  | .job j => s.sw.launch.filter fun l => l.jid == j
  | _ => []

/-- The jobs whose launch queues may hold launches of an object. -/
def objectJob (s : State) : CObj → Option Nat
  | .graph g => (s.graph? g).map (·.jid)
  | .phase j _ | .job j => some j
  | _ => none

/-- Whether a launch that has not been popped is of an object. -/
def CObj.holds (o : CObj) (l : Launch) : Bool :=
  match o with
  | .graph g => l.gnum == g
  | .phase _ p => l.phase == p
  | .job _ => true
  | _ => false

/-- The entries of a job's launch queues that have been pushed and not popped. -/
def unpoppedOf (s : State) (jid : Nat) : List (Nat × Nat) :=
  (s.sw.queues.filter fun q => q.2.kind == 0 && q.2.jid == jid).flatMap fun q =>
    (List.range q.2.occ).map fun i => (q.1, (q.2.head + i) % 2 ^ 32)

/-- The launches of an object that have been pushed and not popped, as their cards in queue storage say (R368). -/
def unpoppedLaunches (s : State) (o : CObj) : List (Nat × Nat) :=
  match o, objectJob s o with
  | .launch q e, _ => if (objectLaunches s o).isEmpty && unpopped s q e then [(q, e)] else []
  | _, some jid => (unpoppedOf s jid).filter fun p =>
      match jobRead s jid ((s.queue p.1).slotVa p.2) 64 with
      | .ok bs => o.holds (launchOf s p.1 p.2 bs)
      | .error _ => o == .job jid
  | _, none => []

/-- The graph, phase or job that a CANCEL ends, if it is not complete (R38, R368). -/
def cancelKey (s : State) (o : CObj) (busy : Bool) : List (Nat × Nat × Nat) :=
  match o with
  | .graph g => if (s.graph? g).isSome then [(2, g, 0)] else []
  | .phase j p => if busy then [(3, p, j)] else []
  | .job j => if (s.job j).valid then [(4, j, 0)] else []
  | _ => []

/-- Whether the cards that a CANCEL looks at may be read now. -/
def cancelGate (s : State) (o : CObj) : State × Bool :=
  match objectJob s o with
  | none => (s, true)
  | some jid => (unpoppedOf s jid).foldl (fun (a : State × Bool) p =>
      if a.2 then a.1.jobGate jid ((s.queue p.1).slotVa p.2) 64 .r else a) (s, true)

/-- CANCEL (R368): a CANCEL whose own frame it ends answers at once, since that frame waits for it; its outputs are discarded (R105). -/
def cancel (s : State) (n : Nat) (r : Req) (level : Nat) (a : Word) : State :=
  match objectOf s r level a with
  | .error c => (s.taken n).answerErr r c 0 (if c = 0x04 then a else 0)
  | .ok o =>
    match cancelGate s o with
    | (s, false) => s
    | (s, true) =>
    let s := (s.taken n).spend
    let ls := objectLaunches s o
    let names := ls.map fun l => (l.queue, l.entry)
    let marks := unpoppedLaunches s o
    let unit := match o with
      | .unit u => some u
      | _ => none
    let own := match s.unitOf r with
      | some u => unit == some u || names.contains (u.queue, u.entry)
      | none => false
    let v := counterValue s o
    let s := s.onSw fun w => { w with
      marks := w.marks ++ marks
      cancd := let new := cancelKey s o (!ls.isEmpty || !marks.isEmpty); w.cancd.filter (fun k => !new.contains k) ++ new
      cancels := w.cancels ++ [{ req := r, prior := v, ls := names ++ marks, unit := unit, own := own }] }
    let s := if own then s.answerLane r (.scal v) .dn else s
    let s := ls.foldl cancelLaunch s
    settleCancels (match unit with
      | some u => unitCheck (killUnit s u) u
      | none => s)

end Sys2Proof.Machine
end

