-- ==== Sys2Proof/Machine/Publish.lean ====
section
/-! DEFINITION. Publishing a version of the resource map, and MAPRD (R387, R392, R400). -/

namespace Sys2Proof.Machine

/-- A change record (R392). -/
def changeRecord (event : Nat) (deg : Bool) (item ikind version : Nat) : Word :=
  w64 (event + bit deg * 2 ^ 8 + item % 2 ^ 14 * 2 ^ 10 + ikind * 2 ^ 24 + version % 2 ^ 32 * 2 ^ 32)

/-- What D1 of MAPRD.WAIT carries: the change record of version v + 1 while it is in the log, else EVENT 0 with its VLOW (R400;
log entry 25). -/
def waitRecord (s : State) (v : Word) : Word :=
  let u := v.toNat + 1
  if s.version < u + 64 ∧ u ≤ s.version then s.mapWord (512 + u % 64) else w64 (u % 2 ^ 32 * 2 ^ 32)

/-- The version that a MAPRD.WAIT names. -/
def Req.word (r : Req) : Word :=
  match r.piece.acc with
  | .sys _ _ a _ _ => a
  | _ => 0

/-- A MAPRD.WAIT is released (R400). -/
def waitRelease (s : State) (r : Req) : State := s.answerLane r (.scal (w64 s.version)) (.scal (waitRecord s r.word))

/-- VERSION advances by one, the change record takes its place in the log, the vector of R427 is raised, and every MAPRD.WAIT is
released (R387, R392, R400, R427). -/
def State.advanceMap (s : State) (event : Nat) (deg : Bool) (item ikind : Nat) : State :=
  let v := (s.version + 1) % 2 ^ 64
  let s := (s.setMapWord 0 (w64 v)).setMapWord (512 + v % 64) (changeRecord event deg item ikind v)
  let ws := s.sw.mwaits
  ws.foldl waitRelease (s.onSw fun w => { w with mwaits := [], msi0 := w.msi0 + 1 })

/-- A map word as MAPRD.WORD and SYSRD read it; a MIX outside the table reads as zero (R389). -/
def State.mapRead (s : State) (mix : Nat) : Word := if mix < 576 then s.mapWord mix else 0

/-- MAPRD at the switch die (R400): an address word with a bit set above MIX is refused. -/
def maprd (s : State) (n : Nat) (r : Req) (sub : Nat) (a : Word) : State :=
  let s := s.taken n
  if sub = 0 then
    if field a 10 54 ≠ 0 then s.answerErr r 0x04 0 a
    else s.answerLane r (.scal (s.mapRead a.toNat)) (.scal (w64 s.version))
  else if a.toNat < s.version then waitRelease s r
  else if 4096 ≤ s.sw.mwaits.length ∨ 16 ≤ (s.sw.mwaits.filter fun q => q.jid == r.jid).length then
    s.answerLane r (.scal (w64 s.version)) (.scal (w64 (0xFF + (a.toNat + 1) % 2 ^ 32 * 2 ^ 32)))
  else s.onSw fun w => { w with mwaits := w.mwaits ++ [r] }

end Sys2Proof.Machine
end

