-- ==== Sys2Proof/Machine/Shuttle.lean ====
section
/-! DEFINITION. The shuttle queues of the home slices, and the I-structure zone (R327, R330, R331, R334). -/

namespace Sys2Proof.Machine

/-! ## Continuation launch faults (R331) -/

/-- A continuation launch fault: the record goes to the fault queue of the atomic's job, and the entry is freed. -/
def contFault (s : State) (d k n : Nat) (e : ShEnt) (queue reason : Nat) : State :=
  (s.onSlice d k fun x => { x with sh := dropNth x.sh n, cflts := x.cflts + 1 }).pendRec
    { jid := e.jid, fq := (s.job e.jid).fq, words :=
      [w64 (0x0F + 1 * 2 ^ 8 + s.version % 2 ^ 32 * 2 ^ 32), e.place, w64 (addr e.va), w64 queue, 0,
       w64 (reason * 2 ^ 60 + addr e.tmpl), w64 s.clk, 0] }

/-- A template or ring slot in device memory that the job has leased with R and W (reason 1; log entry 24). -/
def contLocate (s : State) (jid : Nat) (va : Word) : Option (Nat × Nat) :=
  match locate s jid va .rw with
  | .ok (.dram d pa) => some (d, pa)
  | _ => none

/-- The words of a template; of an uncorrectable granule they are free values (R404; log entry 128). -/
def tmplWords (s : State) (d pa : Nat) : List Word :=
  if s.abBad d pa then s.freeWords 4 else (List.range 4).map fun i => s.dramGet d (pa + 8 * i)

/-- A template's words, and whether its contents are good for a job (R327, R331). -/
def tmplGood (ws : List Word) (jid : Nat) : Bool :=
  field (ws.getD 0 0) 15 1 == 1 && field (ws.getD 0 0) 16 12 == jid && field (ws.getD 3 0) 0 5 == 0 && field (ws.getD 3 0) 57 7 == 0

/-- The 32-byte argument record of a continuation (R327). -/
def contRecord (e : ShEnt) (user : Word) : List Byte := [e.old, e.new, w64 (addr e.va), user].flatMap fun w => toBytes 8 w.toNat

/-- The free values of an uncorrectable template are used up. -/
def tmplSpent (s : State) (e : ShEnt) : State :=
  if ((contLocate s e.jid e.tmpl).map fun p => s.abBad p.1 p.2) == some true then s.useFree 4 else s

/-- What a shuttle entry finds when it drains (R330, R331): the queue and the reason of its fault, or the places of template and slot, the
queue, the slot's address, the template's words. -/
structure ContPlan where
  tmpl : Nat × Nat
  slot : Nat × Nat
  q    : Nat
  ring : Word
  ws   : List Word
deriving DecidableEq, Repr

/-- The address of the ring slot that a template names next (R327, R330). -/
def ringSlot (ws : List Word) : Word :=
  w64 (field (ws.getD 3 0) 5 52 * 32 + 32 * (field (ws.getD 0 0) 32 32 % 2 ^ field (ws.getD 0 0) 28 4))

/-- The checks of R331 up to reason 3, in order. -/
def contPlan (s : State) (e : ShEnt) : Except (Nat × Nat) ContPlan :=
  if addr e.tmpl % 32 ≠ 0 then .error (0, 2)
  else match contLocate s e.jid e.tmpl with
    | none => .error (0, 1)
    | some (td, tpa) =>
      let ws := tmplWords s td tpa
      let q := field (ws.getD 0 0) 0 15
      if !tmplGood ws e.jid then .error (q, 2)
      else match contLocate s e.jid (ringSlot ws) with
        | none => .error (q, 1)
        | some (rd, rpa) =>
          if (s.queue q).kind ≠ 0 ∨ (s.queue q).jid ≠ e.jid ∨ ((s.queue q).state = 0 ∧ (s.queue q).jid = 0) then .error (q, 3)
          else .ok { tmpl := (td, tpa), slot := (rd, rpa), q := q, ring := ringSlot ws, ws := ws }

/-- Whether an entry's template, and the slot that it names, may be accessed now, in TC1 (R309, R310, R329, R333, R390). -/
def contGate (s : State) (e : ShEnt) : State × Bool :=
  match s.jobGate e.jid e.tmpl 32 .rw true, contLocate s e.jid e.tmpl with
  | (s, true), some (td, tpa) => s.jobGate e.jid (ringSlot (tmplWords s td tpa)) 32 .rw true
  | p, _ => p

/-- SHUTTLE_DRAIN: entry n of a slice's shuttle queue, every earlier one having drained, reads its template, advances RSEQ by one atomic
at the template's home, and writes its record (R330, R340). -/
def shuttleDrain (s : State) (d k n : Nat) : State :=
  let sh := ((s.mdie d).slice k).sh
  match sh[n]? with
  | none => s
  | some e =>
    if e.push.isSome || (sh.take n).any fun x => x.push.isNone then s
    else match if addr e.tmpl % 32 = 0 then contGate s e else (s, true) with
    | (s, false) => s
    | (s, true) =>
      let s := s.spend
      let p := contPlan s e
      let s := tmplSpent s e
      match p with
      | .error (q, reason) => contFault s d k n e q reason
      | .ok p =>
        let w0 := p.ws.getD 0 0
        let s := (s.atomDone p.tmpl.1 p.tmpl.2 true).dramWord p.tmpl.1 p.tmpl.2
          (w64 (field w0 0 32 + (field w0 32 32 + 1) % 2 ^ 32 * 2 ^ 32))
        let s := (s.dramWrite p.slot.1 p.slot.2 (contRecord e (p.ws.getD 2 0))).demand p.slot.1 p.slot.2
        s.onSlice d k fun x => { x with sh := setNth x.sh n { e with push := some (p.q, p.ring, p.ws.getD 1 0) } }

/-- The card of a continuation: the default card with the entry word, one record of 32 bytes (R330). -/
def contCard (def? : List Word) (ring entry : Word) : List Word :=
  let w1 := def?.getD 1 0
  let w2 := def?.getD 2 0
  [entry, w64 (addr ring + field w1 57 7 * 2 ^ 57), w64 (32 + field w2 16 16 * 2 ^ 16 + 2 ^ 32)] ++ def?.drop 3

/-- Whether a card fails a check that it carries by itself: a zero field of R348, EPORT, CLASS, NFOOT (reason 6 of R331). -/
def cardBad (ws : List Word) : Bool :=
  let l : Launch := { queue := 0, entry := 0, jid := 0, card := ws, cardVA := 0 }
  l.zeroBad || field (l.word 0) 35 2 == 3 || l.cls == 3 || decide (8 < l.nfoot)

/-- Whether a push from a shuttle queue has its turn at a queue in this clk: behind the host's, behind those that came earlier and a LAUNCH
that waits for room, one push of a queue in each clk (R345, R364). -/
def shuttleTurn (s : State) (q : Nat) : Bool :=
  (s.queue q).slot != s.clk + 1 && !(s.sw.heldp.any fun p => p.queue == q)
    && !(s.sw.pushes.any fun p => p.queue == q && (decide (p.clk < s.clk) || (p.clk == s.clk && p.rank == 0)))

/-- The push of a continuation's card on a queue that is not full: the state after it, or the reason of the fault (R330, R331). -/
def contPush (s : State) (q : Nat) (ring entry : Word) : State × Except Nat Bool :=
  let x := s.queueNow q
  if x.state ≠ 1 then (s, .error 4)
  else if !x.dv then (s, .error 5)
  else match s.jobGate x.jid (w64 (x.def6 * 64)) 64 .r true, pushGate s q with
    | (s, false), _ => (s, .ok false)
    | _, (s, false) => (s, .ok false)
    | _, _ => match jobRead s x.jid (w64 (x.def6 * 64)) 64 with
      | .error _ => (s, .error 6)
      | .ok bs =>
        let card := contCard ((wordNats bs 8).map w64) ring entry
        if cardBad card then (s, .error 6)
        else match pushEntry s q (card.flatMap fun w => toBytes 8 w.toNat) with
          | (s, .ok _) => (s.onQueue q fun x => { x with prank := 1 }, .ok true)
          | (s, _) => (s, .error 4)

/-- SHUTTLE_PUSH: a drained entry, the first for its queue, waits until the queue has a free entry, pushes its card, and is freed (R330,
R331). -/
def shuttlePush (s : State) (d k n : Nat) : State :=
  let sh := ((s.mdie d).slice k).sh
  match sh[n]? with
  | none => s
  | some e =>
    match e.push with
    | none => s
    | some (q, ring, entry) =>
      if (sh.take n).any fun y => match y.push with
          | some p => p.1 == q
          | none => true then s
      else if (s.queueNow q).full || !shuttleTurn s q then s
      else match contPush s q ring entry with
        | (s, .ok true) => s.onSlice d k fun x => { x with sh := dropNth x.sh n, conts := x.conts + 1 }
        | (s, .ok false) => s
        | (s, .error r) => contFault s d k n e q r

/-! ## The I-structure zone (R334) -/

/-- Pinned lease entries of a die (R266). -/
def MDie.pinned (c : MDie) : Nat := (c.lt.filter fun e => 0 < e.2.lcnt + e.2.ecnt).length

/-- CAP of every stack of a die (R389). -/
def State.setCap (s : State) (d cap : Nat) : State :=
  (List.range 4).foldl (fun (s : State) i =>
    let m := 296 + 4 * (d - 8) + i
    let w := s.mapWord m
    s.setMapWord m (w64 (w.toNat - field w 34 21 * 2 ^ 34 + cap % 2 ^ 21 * 2 ^ 34))) s

/-- Pages that the tags of a zone take (R334). -/
def tagPages (npg : Nat) : Nat := ceilDiv npg 64

/-- A write to ISCFG (R334): ignored with REJ while entries are pinned; else the zone is set, CAP follows, a version is published with
event 10, and the clearing of the tags begins. -/
def iscfgWrite (s : State) (d : Nat) (v : Word) : State :=
  if !memDies.contains d then s
  else
    let c := s.mdie d
    if 0 < c.pinned then s.onMdie d fun c => { c with isrej := true }
    else
      let npg := field v 0 20
      let cap := s.capOf d + tagPages c.npg - tagPages npg
      let s := s.onMdie d fun c => { c with npg := npg, isbusy := true, isrej := false, tags := [] }
      ((s.catchAll d).setCap d cap).advanceMap 10 false (d * 2 ^ 10) 0

/-- The zone granules of a slice, in ascending physical address: 32 in each page (R319, R334). -/
def zoneGranules (npg k : Nat) : List Nat :=
  (List.range npg).flatMap fun p => (List.range 16).flatMap fun r => (List.range 2).map fun h =>
    p * 2 ^ 18 + r * 2 ^ 14 + k / 32 * 2 ^ 12 + k % 32 * 2 ^ 7 + h * 64

/-- A slice's atomic buffer gives up what it holds; a modified granule is written back (R321). -/
def State.abEmpty (s : State) (d k : Nat) : State :=
  let out := (((s.mdie d).slice k).ab.filter (·.2)).map (·.1)
  out.foldl (fun (s : State) g => s.abBack d g) (s.onSlice d k fun x => { x with ab := [] })

/-- A slice clears the tags of its zone granules: each comes into its atomic buffer as an atomic would bring it, in place of what the
buffer held (R321, R334). -/
def clearSlice (d npg : Nat) (s : State) (k : Nat) : State :=
  (zoneGranules npg k).foldl (fun (s : State) g => s.abTouch d g true) (s.abEmpty d k)

/-- The IPUTs that wait for words of a slice to empty are served (R336). -/
def serveEmptied (d : Nat) (s : State) (k : Nat) : State :=
  (distinct ((((s.mdie d).slice k).idq.filter fun e => e.2.piece.acc.waitsFor == some false).map (·.1))).foldl
    (fun (s : State) pa => s.serveWord d pa) s

/-- ISCFG_CLEAR_DONE: every tag of the zone is empty, BUSY returns to 0, each atomic buffer holds the granules that its slice cleared
last, and what has waited for a word to empty goes on (R334, R336). -/
def iscfgClearDone (s : State) (d : Nat) : State :=
  if !(s.mdie d).isbusy then s
  else
    let npg := (s.mdie d).npg
    let s := (List.range 128).foldl (clearSlice d npg) (s.onMdie d fun c => { c with isbusy := false, tags := [] })
    (List.range 128).foldl (serveEmptied d) s

end Sys2Proof.Machine
end

