-- ==== Sys2Proof/Machine/Image.lean ====
section
/-! DEFINITION. The freeze image: what it holds of each tile, its bytes, and how they are read back (R22, R23, R29, R115, R177, R379,
R380; log entry 8). -/

namespace Sys2Proof.Machine

/-! ## What an image holds -/

/-- What a freeze image holds of one tile of a region (R379): relative place, the parts by kind. -/
structure TileImg where
  v      : Nat
  rx     : Nat
  ry     : Nat
  frames : AList Frame := []
  ents   : AList Entry := []
  toks   : List Token := []
  ready  : List (QId × Firing) := []
  held   : List Firing := []
  chain  : List Firing := []
  allocs : List AllocReq := []
  mops   : List MemOp := []
  fences : List Fence := []
  opens  : List (Firing × Fields) := []
  mx     : List MxOp := []
  mxrec  : List MxRec := []
  banks  : List (Nat × MxBank) := []
  tabs   : List (Nat × CbTab) := []
  perms  : List (Nat × Nat) := []
  quota  : Nat := 8192
  descs  : List (Nat × Desc × List Byte) := []
  tags   : AList TagEnt := []
  hnds   : AList Hnd := []
  hwait  : List MxMsg := []
  tallocs : List TAlloc := []
  chans  : AList Chan := []
  hallot : Nat := 0xFFFF
  callot : Nat := 0xF
  mquota : Nat := 512
deriving DecidableEq, Repr

/-- RPC (R33). -/
def Region.rpc (r : Region) : Word := w64 (r.cfg % 256 + bit r.active * 2 ^ 8 + bit r.loading * 2 ^ 9)
/-- RGEO (R33). -/
def Region.rgeo (r : Region) : Word := w64 (r.die + r.qx * 2 ^ 4 + r.qy * 2 ^ 8 + r.wm1 * 2 ^ 12 + r.hm1 * 2 ^ 16 + r.ctx * 2 ^ 20)

/-- A region as RGEO, RPC and ISC of an image give it. -/
def Region.asHeld (r : Region) (geo rpc isc : Nat) : Region :=
  { r with
    die := nbits geo 0 4, qx := nbits geo 4 4, qy := nbits geo 8 4, wm1 := nbits geo 12 4, hm1 := nbits geo 16 4, ctx := nbits geo 20 4
    cfg := nbits rpc 0 8, active := nbits rpc 8 1 == 1, loading := nbits rpc 9 1 == 1, isc := isc }

/-- Fired, unissued entries of a queue in the order in which R36 issues them: by priority, age, BLK, IX and LB (R379). -/
def issueOrder (s : State) (l : List (Nat × Firing)) : List (Nat × Firing) :=
  let key (e : Nat × Firing) : Unit × Nat × List Nat := ((), ((s.blockOf e.2).map (·.pri)).getD 0, [e.1, e.2.blk, e.2.ix, e.2.lb])
  sortBy (fun a b => !before36 (key b) (key a)) l

/-- What a read-out takes from a compute tile of a region. -/
def compImg (s : State) (r : Region) (rx ry : Nat) : TileImg :=
  let t := r.tileAt rx ry
  let c := s.tile t
  let own (fr : Firing) : Bool := fr.ctx == r.ctx
  { v := r.vreg, rx := rx, ry := ry
    frames := c.frames.filter fun f => f.2.ctx == r.ctx
    ents := c.entries.filter fun e => e.2.ctx == r.ctx
    toks := (c.inputs.filter fun k => k.tok.ctx == r.ctx).map (·.tok)
    ready := QId.all.flatMap fun q => (issueOrder s ((c.queue q).ents.filter fun e => own e.2)).map fun e => (q, e.2)
    held := c.held.filter own
    chain := c.chainHold.filter own
    allocs := c.allocOf r.ctx
    mops := c.mops.filter fun o => own o.firing
    fences := c.fences.filter fun e => own e.firing
    opens := c.opens.filter fun o => own o.1
    mx := c.mxFrozen.filter fun o => own o.msg.firing
    mxrec := [c.opRec r.ctx]
    banks := [(0, c.acc0), (1, c.acc1)].filter fun b => b.2.ownedBy r.ctx
    tabs := [(0, c.tab0), (1, c.tab1)].filter fun b => b.2.valid && b.2.ctx == r.ctx
    perms := [0, 1].map fun b => (b, c.permOf r.ctx b)
    quota := AList.getD c.quota r.ctx 8192 }

/-- The part of a channel that belongs to some firings. -/
def Chan.of (x : Chan) (own : Firing → Bool) : Chan :=
  { x with
    copies := x.copies.filter fun c => own c.firing
    waits := x.waits.filter fun w => own w.1
    wq := x.wq.filter fun w => own w.1
    mma := x.mma.filter fun c => own c.firing
    cans := x.cans.filter fun w => own w.1 }

/-- The part that does not. -/
def Chan.without (x : Chan) (own : Firing → Bool) : Chan := x.of fun fr => !own fr

/-- Whether a channel has anything that an image keeps. -/
def Chan.any (x : Chan) : Bool := x.copies.length + x.waits.length + x.wq.length + x.mma.length + x.cans.length != 0

/-- Whether a firing is of a region. -/
def Region.owns (r : Region) (fr : Firing) : Bool := r.ctx == fr.ctx && r.covers fr.tile

/-- What a read-out takes from a memory tile of a region. -/
def memImg (s : State) (r : Region) (rx ry : Nat) : TileImg :=
  let m := r.tileAt rx ry
  let c := s.mtile m
  { v := r.vreg, rx := rx, ry := ry
    descs := (c.descs.filter fun d => d.2.state != 0 && d.2.ctx == r.ctx).map fun d =>
      (d.1, d.2, if d.2.view then [] else s.readBytes (padAddr m (d.2.gran0 * 4096)) (4096 * (d.2.ngm1 + 1)))
    tags := (c.tags.filter fun e => e.2.ctx == r.ctx)
    hnds := (c.hnd.filter fun h => h.2.busy && h.2.ctx == r.ctx)
    hwait := c.hwait.filter fun g => r.owns g.firing
    tallocs := c.allocq.filter fun a => r.owns a.firing
    chans := (c.chans.map fun x => (x.1, x.2.of r.owns)).filter fun x => x.2.any
    hallot := AList.getD c.hallot r.ctx 0xFFFF
    callot := AList.getD c.callot r.ctx 0xF
    mquota := AList.getD c.quota r.ctx 512 }

/-- The places of a region's tiles, in ascending y, then x. -/
def Region.places (r : Region) : List (Nat × Nat) :=
  (List.range (2 * (r.hm1 + 1))).flatMap fun ry => (List.range (2 * (r.wm1 + 1))).map fun rx => (rx, ry)

/-- What a read-out takes from every tile of a graph. -/
def graphImg (s : State) (rs : List Region) : List TileImg :=
  rs.flatMap fun r => r.places.map fun p => if isCompute (r.tileAt p.1 p.2) then compImg s r p.1 p.2 else memImg s r p.1 p.2

/-! ## Layouts: values as 64-bit words, and words read back (log entry 8) -/

/-- A layout: the words of a value, and the value that the words at the front of a list give, with those after them. -/
abbrev Lay (α : Type) := (α → List Nat) × (List Nat → Option (α × List Nat))

/-- One word. -/
def layNat : Lay Nat := (fun n => [n % 2 ^ 64], fun ws => ws.head?.map fun w => (w, ws.drop 1))

/-- A layout of one type by that of another. -/
def layMap {α β : Type} (a : Lay α) (f : α → β) (g : β → α) : Lay β := (fun b => a.1 (g b), fun ws => (a.2 ws).map fun p => (f p.1, p.2))

/-- One value after another. -/
def layBoth {α β : Type} (a : Lay α) (b : Lay β) : Lay (α × β) :=
  (fun p => a.1 p.1 ++ b.1 p.2, fun ws => (a.2 ws).bind fun p => (b.2 p.2).map fun q => ((p.1, q.1), q.2))

/-- n values read one after another. -/
def readMany {α : Type} (rd : List Nat → Option (α × List Nat)) : Nat → List Nat → Option (List α × List Nat)
  | 0, ws => some ([], ws)
  | n + 1, ws => (rd ws).bind fun p => (readMany rd n p.2).map fun q => (p.1 :: q.1, q.2)

/-- A list: its length, then its elements. -/
def layList {α : Type} (a : Lay α) : Lay (List α) :=
  (fun l => l.length :: l.flatMap a.1, fun ws => (layNat.2 ws).bind fun p => readMany a.2 p.1 p.2)

/-- A value or none, as a list of at most one. -/
def layOpt {α : Type} (a : Lay α) : Lay (Option α) := layMap (layList a) (·.head?) Option.toList

/-- k numbers. -/
def layNums (k : Nat) : Lay (List Nat) := (fun l => (List.range k).map fun i => l.getD i 0 % 2 ^ 64, readMany layNat.2 k)

/-- A word. -/
def layWord : Lay Word := layMap layNat w64 BitVec.toNat
/-- A flag. -/
def layBool : Lay Bool := layMap layNat (· == 1) bit
/-- An element of a list of names. -/
def layName {α : Type} [DecidableEq α] (l : List α) (d : α) : Lay α := layMap layNat (fun n => l.getD n d) l.idxOf

/-- n words of 8 bytes. -/
def packBytes (bs : List Byte) : List Nat := (wordsOf bs (ceilDiv bs.length 8)).map BitVec.toNat
/-- The bytes of words. -/
def unpackBytes (ws : List Nat) : List Byte := ws.flatMap (toBytes 8)

/-- Bytes: how many, then packed. -/
def layBytes : Lay (List Byte) :=
  (fun bs => bs.length :: packBytes bs,
   fun ws => (layNat.2 ws).bind fun p => (readMany layNat.2 (ceilDiv p.1 8) p.2).map fun q => ((unpackBytes q.1).take p.1, q.2))

/-! ## Coordinates relative to a region (R59, R379) -/

/-- A tile as x in bits 9:5 and y in bits 4:0 from a region's origin. -/
def tileRel (r : Region) (t : Nat) : Nat := (tileX t + 32 - 2 * r.qx) % 32 * 32 + (tileY t + 32 - 2 * r.qy) % 32
/-- The tile that it names. -/
def tileAbs (r : Region) (n : Nat) : Nat := mkTile r.die ((tileX n + 2 * r.qx) % 32) ((tileY n + 2 * r.qy) % 32)

/-- A handle with its memory tile and its HOLDER changed. -/
def mapHandle (g : Nat → Nat) (h : Word) : Word :=
  w64 (g (field h 54 10) % 1024 * 2 ^ 54 + field h 20 34 * 2 ^ 20 + g (field h 10 10) % 1024 * 2 ^ 10 + field h 0 10)

/-- A handle, relative. -/
def layHandle (r : Region) : Lay Word := layMap layWord (mapHandle (tileAbs r)) (mapHandle (tileRel r))

/-- A tile number. -/
def layTile (r : Region) : Lay Nat := layMap layNat (tileAbs r) (tileRel r)

/-- A link that names a tile and the context of the region, with its tile changed; another stays. -/
def mapLink (r : Region) (mine : Nat → Bool) (g : Nat → Nat) (l : Word) : Word :=
  if l != 0 && mine (field l 0 14) && field l 14 4 == r.ctx then w64 (g (field l 0 14) % 2 ^ 14 + field l 14 50 * 2 ^ 14) else l

/-- A RET link, relative where it names a tile of the region: the die is 0. -/
def layRet (r : Region) : Lay Word :=
  layMap layWord (mapLink r (fun t => t < 1024 && r.covers (tileAbs r t)) (tileAbs r)) (mapLink r r.covers (tileRel r))

/-! ## Tokens, firings, frames -/

/-- A poison record with the place of its origin counted from one region's origin and die, and given from another's (R59, R115, R379). -/
def PRec.moved (src dst : Nat × Nat × Nat) (p : PRec) : PRec :=
  let x := (field p.w0 12 5 + 32 - src.2.1 + dst.2.1) % 32
  let y := (field p.w0 17 5 + 32 - src.2.2 + dst.2.2) % 32
  let d := (field p.w0 8 4 + 16 - src.1 + dst.1) % 16
  { p with w0 := w64 (p.w0.toNat - field p.w0 8 14 * 2 ^ 8 + d * 2 ^ 8 + x * 2 ^ 12 + y * 2 ^ 17) }

/-- The die of a region with the tile of its origin. -/
def Region.origin (r : Region) : Nat × Nat × Nat := (r.die % 16, 2 * r.qx % 32, 2 * r.qy % 32)

/-- A poison record (R115), relative. -/
def layPRec (r : Region) : Lay PRec :=
  layMap (layBoth layWord layWord) (fun p => PRec.moved (0, 0, 0) r.origin { w0 := p.1, w1 := p.2 })
    fun p => let q := p.moved r.origin (0, 0, 0); (q.w0, q.w1)

/-- A lane value: its kind, then its words. -/
def layVal (r : Region) : Lay LVal :=
  (fun v => match v with
    | .scal w => 0 :: layWord.1 w
    | .runv w => 1 :: layWord.1 w
    | .hand h => 2 :: (layHandle r).1 h
    | .dn => [3]
    | .pois p => 4 :: (layPRec r).1 p,
   fun ws => match ws with
    | 0 :: l => (layMap layWord LVal.scal fun _ => 0).2 l
    | 1 :: l => (layMap layWord LVal.runv fun _ => 0).2 l
    | 2 :: l => (layMap (layHandle r) LVal.hand fun _ => 0).2 l
    | 3 :: l => some (.dn, l)
    | 4 :: l => (layMap (layPRec r) LVal.pois fun _ => ⟨0, 0⟩).2 l
    | _ => none)

/-- The words of a payload (R23); a poison record stands in its place (R115). -/
def payWords (r : Region) : Payload → List Nat
  | .scalar v => layWord.1 v
  | .run vs => vs.flatMap layWord.1
  | .handle h => (layHandle r).1 h
  | .done => []
  | .poison p => (layPRec r).1 p

/-- The payload that follows a header. -/
def readPay (r : Region) (h : Word) (ws : List Nat) : Option (Payload × List Nat) :=
  if field h 21 1 = 1 then (layMap (layPRec r) Payload.poison fun _ => ⟨0, 0⟩).2 ws
  else match field h 22 2 with
  | 0 => (layMap layWord Payload.scalar fun _ => 0).2 ws
  | 1 => (readMany layWord.2 (field h 24 6) ws).map fun p => (.run p.1, p.2)
  | 2 => (layMap (layHandle r) Payload.handle fun _ => 0).2 ws
  | _ => some (.done, ws)

/-- A token: the header of R22, then its payload; DST is relative, with die 0. -/
def layToken (r : Region) : Lay Token :=
  (fun k => ({ k with dst := tileRel r k.dst } : Token).header.toNat :: payWords r k.pay,
   fun ws => (layWord.2 ws).bind fun p => (readPay r p.1 p.2).map fun q =>
    ({ dst := tileAbs r (field p.1 7 14), ctx := field p.1 60 4, fi := field p.1 48 12, blk := field p.1 44 4, ix := field p.1 37 7,
       port := field p.1 35 2, lb := field p.1 30 5, rl := field p.1 24 6, pay := q.1 }, q.2))

/-- A token with the mark of one delivered to a link. -/
def layLinked (r : Region) : Lay Token :=
  layMap (layBoth layBool (layToken r)) (fun p => { p.2 with link := p.1 }) fun k => (k.link, k)

/-- A firing with its operand tokens. -/
def layFiring (r : Region) : Lay Firing :=
  layMap (layBoth (layTile r) (layBoth (layNums 6) (layList (layList (layVal r)))))
    (fun p => { tile := p.1, ctx := r.ctx, fi := p.2.1.getD 0 0, blk := p.2.1.getD 1 0, ix := p.2.1.getD 2 0, lb := p.2.1.getD 3 0, rl := p.2.1.getD 4 0,
                ser := p.2.1.getD 5 0, ops := p.2.2 })
    fun fr => (fr.tile, [fr.fi, fr.blk, fr.ix, fr.lb, fr.rl, fr.ser], fr.ops)

/-- An opcode and its fields, as the instruction's word (R47). -/
def layInstr : Lay (Nat × Fields) := layMap layWord
  (fun w => (opOf w, { sub := BitVec.ofNat 4 (field w 52 4), ty := Ty.ofCode (field w 48 4), ar := BitVec.ofNat 2 (field w 46 2)
                       kc := field w 45 1 == 1, sl := BitVec.ofNat 7 (field w 38 7), ck := BitVec.ofNat 6 (field w 32 6)
                       d0 := (decodeDest (field w 22 10)).getD none, d1 := (decodeDest (field w 12 10)).getD none, x := BitVec.ofNat 12 (field w 0 12) }))
  fun p => encodeWord p.1 p.2

/-- The fields of an instruction that goes without its opcode. -/
def layFields : Lay Fields := layMap layInstr (·.2) fun f => (0, f)

/-- A destination. -/
def layDest : Lay (Option Dest) := layMap layNat (fun n => (decodeDest n).getD none) encodeDest

/-- A unit. -/
def layUnit : Lay UnitId := layMap (layNums 3)
  (fun l => { queue := l.getD 0 0, entry := l.getD 1 0, no := l.getD 2 0 }) fun u => [u.queue, u.entry, u.no]

/-- A counter's name. -/
def layCnt : Lay Cnt := layName [.old, .ost, .ocp, .oto] .old

/-- Lanes as a mask. -/
def layMask : Lay (List Nat) := layMap layNat (fun n => (List.range 32).filter fun i => nbits n i 1 == 1) fun l =>
  (distinct l).foldl (fun n i => n + 2 ^ (i % 32)) 0

/-- A parked operand (R26): slot, lane, port, owner IX, kind and value. -/
def layParked (r : Region) : Lay Parked := layMap (layBoth (layNums 4) (layVal r))
  (fun p => { slot := p.1.getD 0 0, lane := p.1.getD 1 0, port := p.1.getD 2 0, owner := p.1.getD 3 0, val := p.2 })
  fun k => ([k.slot, k.lane, k.port, k.owner], k.val)

/-- NEXT of 4 chains and 32 lanes, 16 bits each. -/
def layChain : Lay (AList Nat) := layMap (layNums 32)
  (fun l => ((List.range 128).map fun k => (k, nbits (l.getD (k / 4) 0) (16 * (k % 4)) 16)).filter fun p => p.2 != 0)
  fun c => (List.range 32).map fun i => (List.range 4).foldl (fun n j => n + AList.getD c (4 * i + j) 0 % 2 ^ 16 * 2 ^ (16 * j)) 0

/-- A frame: the header cell (R29), the ended and active lanes, chain NEXT, the unit with the operations counted, the parked operands. -/
def layFrame (r : Region) : Lay (Nat × Frame) :=
  layMap
    (layBoth layNat (layBoth (layNums 2) (layBoth (layRet r) (layBoth (layNums 5) (layBoth (layBoth layMask layMask) (layBoth layChain
      (layBoth (layBoth layUnit layBool) (layBoth (layList (layBoth layNat layCnt)) (layList (layParked r))))))))))
    (fun (fi, h, ret, t, (ended, active), chain, (unit, doomed), outl, parked) =>
      let h0 := h.getD 0 0
      let h1 := h.getD 1 0
      let lw := lwOf (nbits h0 3 2)
      (fi, { st := .frozen, lw := lw, blk := nbits h0 5 4, ns := nbits h0 16 8, ctx := r.ctx, base := w64 (nbits h0 32 32 + nbits h1 0 32 * 2 ^ 32)
             old := nbits h1 32 8, ost := nbits h1 40 8, ocp := nbits h1 48 8, oto := nbits h1 56 8, ret := ret, argp := w64 (t.getD 0 0)
             lslot := t.getD 1 0, cells := nbits h0 16 8 * ceilDiv lw 8 + 1, unit := unit, active := active, ended := ended, parked := parked
             chain := chain, doomed := doomed, outl := outl }))
    fun (fi, x) => (fi, [(x.header 0).toNat, (x.header 1).toNat], x.ret, [(x.header 3).toNat, (x.header 4).toNat, 0, 0, 0], (x.ended, x.active), x.chain,
      (x.unit, x.doomed), x.outl, x.parked)

/-! ## Blocks, ready entries, pending requests -/

/-- Constants as a mask and 64 words. -/
def layConsts : Lay (AList Word) := layMap (layBoth layNat (layNums 64))
  (fun p => ((List.range 64).filter fun k => nbits p.1 k 1 == 1).map fun k => (k, w64 (p.2.getD k 0)))
  fun l => (l.foldl (fun n e => n + 2 ^ (e.1 % 64)) 0, (List.range 64).map fun k => (AList.getD l k 0).toNat)

/-- A block: BLK, GBN, DIGEST, the staged constants, and the constants in force. -/
def layEntry (r : Region) : Lay (Nat × Entry) :=
  layMap (layBoth (layNums 4) (layBoth layConsts (layList layWord)))
    (fun (h, staged, consts) =>
      let e : Entry := { ctx := r.ctx, blk := h.getD 1 0, staged := staged, block := { ns := 0, lw := 0, pri := 0, sys := false, strm := false, gbn := h.getD 2 0, digest := h.getD 3 0, words := [], consts := consts } }
      (h.getD 0 0, e))
    fun (n, e) => ([n, e.blk, e.block.gbn, e.block.digest], e.staged, e.block.consts)

/-- A fired, unissued entry: the queue that it stands in, or waits for (7, or 8 in the chain-hold buffer). -/
def layReady (r : Region) : Lay (Nat × Firing) := layBoth layNat (layFiring r)

/-- A LOOPN in progress (R132). -/
def layLoop (r : Region) : Lay LoopSt :=
  layMap (layBoth (layFiring r) (layBoth layDest (layBoth (layNums 4) (layList (layBoth layNat (layVal r))))))
    (fun (fr, d, l, loops) => { firing := fr, d1 := d, ar := l.getD 0 0, ix := l.getD 1 0, port := l.getD 2 0, j := l.getD 3 0, loops := loops })
    fun x => (x.firing, x.d1, [x.ar, x.ix, x.port, x.j], x.loops)

/-- A frame request with LOOPN progress. -/
def layAlloc (r : Region) : Lay AllocReq :=
  layMap (layBoth (layNums 3) (layBoth (layOpt layNat) (layBoth layUnit (layBoth (layBoth layWord layWord) (layBoth (layRet r)
      (layBoth (layList layNat) (layBoth (layList (layLinked r)) (layOpt (layLoop r)))))))))
    (fun (l, owner, unit, (base, argp), ret, active, toks, loop) =>
      { seq := l.getD 0 0, owner := owner, unit := unit, ctx := r.ctx, blk := l.getD 1 0, base := base, argp := argp, ret := ret,
        lslot := l.getD 2 0, active := active, toks := toks, loop := loop })
    fun x => ([x.seq, x.blk, x.lslot], x.owner, x.unit, (x.base, x.argp), x.ret, x.active, x.toks, x.loop)

/-- The kinds of an atomic. -/
def layKind : Lay AKind := layName [.add, .fadd, .min, .max, .and, .or, .xor, .xch, .cas, .incWrap, .incSat] .add
/-- A type. -/
def layTy : Lay Ty := layMap layNat Ty.ofCode Ty.code

/-- An access: its number, then its operands. -/
def layAcc : Lay AccOp :=
  let w3 : Lay (Word × Word × Word) := layBoth layWord (layBoth layWord layWord)
  let loads : Lay AccOp := layMap (layList (layBoth layNat (layBoth layWord layNat))) .loads fun a => match a with | .loads l => l | _ => []
  let stores : Lay AccOp := layMap (layList (layBoth layNat (layBoth layWord layBytes))) .stores fun a => match a with | .stores l => l | _ => []
  let rows : Lay AccOp := layMap layNat .readRow fun a => match a with | .readRow n => n | _ => 0
  let puts : Lay AccOp := layMap layBytes .writeRow fun a => match a with | .writeRow b => b | _ => []
  let atom : Lay AccOp := layMap (layBoth layKind (layBoth layTy (layBoth layWord layWord))) (fun (k, t, b, c) => .atom k t b c)
    fun a => match a with | .atom k t b c => (k, t, b, c) | _ => (.add, .b64, 0, 0)
  let cask : Lay AccOp := layMap (layBoth layTy w3) (fun (t, b, c, d) => .cask t b c d)
    fun a => match a with | .cask t b c d => (t, b, c, d) | _ => (.b64, 0, 0, 0)
  let caddk : Lay AccOp := layMap (layBoth layTy w3) (fun (t, b, c, d) => .caddk t b c d)
    fun a => match a with | .caddk t b c d => (t, b, c, d) | _ => (.b64, 0, 0, 0)
  let one (g : Word → AccOp) : Lay AccOp := layMap layWord g fun a => match a with | .iput v | .binit v | .bwait v => v | _ => 0
  let ared : Lay AccOp := layMap (layBoth layKind (layBoth layTy (layList layWord))) (fun (k, t, l) => .ared k t l)
    fun a => match a with | .ared k t l => (k, t, l) | _ => (.add, .b64, [])
  let sys : Lay AccOp := layMap (layBoth (layNums 2) w3) (fun (l, a, b, c) => .sys (l.getD 0 0) (l.getD 1 0) a b c)
    fun a => match a with | .sys o u a b c => ([o, u], a, b, c) | _ => ([], 0, 0, 0)
  (fun a => match a with
    | .loads _ => 0 :: loads.1 a | .stores _ => 1 :: stores.1 a | .readRow _ => 2 :: rows.1 a | .writeRow _ => 3 :: puts.1 a
    | .atom .. => 4 :: atom.1 a | .cask .. => 5 :: cask.1 a | .caddk .. => 6 :: caddk.1 a | .itake => [7] | .iread => [8]
    | .iput _ => 9 :: (one .iput).1 a | .iclr => [10] | .ared .. => 11 :: ared.1 a | .binit _ => 12 :: (one .binit).1 a | .arrive => [13]
    | .bwait _ => 14 :: (one .bwait).1 a | .sys .. => 15 :: sys.1 a | .line .. => [16],
   fun ws => match ws with
    | 0 :: l => loads.2 l | 1 :: l => stores.2 l | 2 :: l => rows.2 l | 3 :: l => puts.2 l | 4 :: l => atom.2 l | 5 :: l => cask.2 l
    | 6 :: l => caddk.2 l | 7 :: l => some (.itake, l) | 8 :: l => some (.iread, l) | 9 :: l => (one .iput).2 l | 10 :: l => some (.iclr, l)
    | 11 :: l => ared.2 l | 12 :: l => (one .binit).2 l | 13 :: l => some (.arrive, l) | 14 :: l => (one .bwait).2 l | 15 :: l => sys.2 l
    | _ => none)

/-- A piece of a memory operation. -/
def layPiece : Lay Piece := layMap (layBoth layWord (layBoth layAcc (layNums 3)))
  (fun (va, acc, l) => { va := va, acc := acc, lane := l.getD 0 0, row := l.getD 1 0, off := l.getD 2 0 })
  fun p => (p.va, p.acc, [p.lane, p.row, p.off])

/-- A request of a memory operation that was withdrawn or held. -/
def layMop (r : Region) : Lay MemOp :=
  let v := layVal r
  layMap (layBoth (layFiring r) (layBoth layInstr (layBoth (layNums 3) (layBoth (layList layPiece) (layBoth (layList (layBoth layNat (layBoth v v)))
      (layBoth (layList (layBoth layNat (layBoth layNat layBytes))) (layBoth (layList (layBoth layNat (layBoth layNat (layBoth layNat (layBoth layWord layWord)))))
      (layBoth (layBoth (layOpt layCnt) (layOpt layCnt)) (layBoth (layList layNat) (layBoth (layBoth layBool layBool) layWord))))))))))
    (fun (fr, (op, f), l, pieces, vals, rows, errs, (cnt, had), rel, (lent, flush), row0) =>
      { id := l.getD 0 0, firing := fr, f := f, op := op, jid := l.getD 1 0, out := l.getD 2 0, pieces := pieces, vals := vals, rows := rows,
        errs := errs, cnt := cnt, had := had, rel := rel, lent := lent, flush := flush, row0 := row0 })
    fun o => (o.firing, (o.op, o.f), [o.id, o.jid, o.out], o.pieces, o.vals, o.rows, o.errs, (o.cnt, o.had), o.rel, (o.lent, o.flush), o.row0)

/-- A fence-list entry (R313). -/
def layFence (r : Region) : Lay Fence :=
  layMap (layBoth (layFiring r) (layBoth layFields (layBoth (layBoth layBool layBool) (layBoth (layList layNat) (layList layNat)))))
    (fun (fr, f, (waitc, flush), mem, ahead) => { firing := fr, f := f, waitc := waitc, flush := flush, mem := mem, ahead := ahead })
    fun e => (e.firing, e.f, (e.waitc, e.flush), e.mem, e.ahead)

/-- A message of group 0x8, or a SOPSET. -/
def layMsg (r : Region) : Lay MxMsg :=
  layMap (layBoth (layFiring r) (layBoth layFields (layBoth (layOpt (layPRec r)) (layBoth (layNums 3) layBool))))
    (fun (fr, f, bad, l, ecm) => { firing := fr, f := f, bad := bad, lane := l.getD 0 0, id := l.getD 1 0, table := l.getD 2 0, ecm := ecm })
    fun g => (g.firing, g.f, g.bad, [g.lane, g.id, g.table], g.ecm)

/-- An allocation request of a memory tile (R179). -/
def layTalloc (r : Region) : Lay TAlloc :=
  layMap (layBoth (layFiring r) (layBoth layFields (layBoth (layNums 2) (layBoth (layOpt (layHandle r)) layWord))))
    (fun (fr, f, l, h, p) => { firing := fr, f := f, g := l.getD 0 0, lane := l.getD 1 0, handle := h, param := p })
    fun a => (a.firing, a.f, [a.g, a.lane], a.handle, a.param)

/-- A CPYWAIT or CPYCAN at a channel. -/
def layWait (r : Region) : Lay (Firing × Fields × Nat × Nat) :=
  layMap (layBoth (layFiring r) (layBoth layFields (layNums 2))) (fun (fr, f, l) => (fr, f, l.getD 0 0, l.getD 1 0))
    fun (fr, f, a, b) => (fr, f, [a, b])

/-! ## Buffers, handlers, copies, matrix state -/

/-- A buffer: descriptor number, TDENTn.W0 to W4 (R177) with HOLDER relative, and its granules' contents, which a view has none of. -/
def layDesc (r : Region) : Lay (Nat × Desc × List Byte) :=
  (fun (n, x, bs) => n :: ((List.range 5).map fun w => (({ x with holder := tileRel r (r.die * 1024 + x.holder), prec := x.prec.moved r.origin (0, 0, 0) } : Desc).word w).toNat) ++ packBytes bs,
   fun ws => (readMany layNat.2 6 ws).bind fun (l, rest) =>
    let w (i : Nat) : Nat := l.getD (i + 1) 0
    let x : Desc :=
      { shape := w64 (w 0), gen := nbits (w 1) 0 8, refs := nbits (w 1) 8 16, holder := tileAbs r (nbits (w 1) 24 10) % 1024, ctx := nbits (w 1) 34 4,
        gran0 := nbits (w 1) 38 9, ngm1 := nbits (w 1) 47 8, state := nbits (w 1) 55 2, view := nbits (w 1) 57 1 == 1, ro := nbits (w 1) 58 1 == 1,
        psn := nbits (w 1) 59 1 == 1, voff := nbits (w 2) 0 20, root := nbits (w 2) 20 9,
        sdesc := if nbits (w 2) 38 1 = 1 then some (nbits (w 2) 29 9) else none, prec := PRec.moved (0, 0, 0) r.origin { w0 := w64 (w 3), w1 := w64 (w 4) } }
    (readMany layNat.2 (if x.view then 0 else 512 * (x.ngm1 + 1)) rest).map fun q => ((l.getD 0 0, x, unpackBytes q.1), q.2))

/-- A tag-table entry: slot, key, handle, STAMP (R187). -/
def layTag (r : Region) : Lay (Nat × TagEnt) :=
  layMap (layBoth layNat (layBoth layWord (layBoth (layHandle r) layNat)))
    (fun (n, key, h, stamp) => (n, { key := key, handle := h, ctx := r.ctx, stamp := stamp })) fun (n, e) => (n, e.key, e.handle, e.stamp)

/-- A handler: its number, SHCFG with HOLDER relative, SHCNT, SHPAR (R224), the bound handles, and how far it has come. -/
def layHnd (r : Region) : Lay (Nat × Hnd) :=
  layMap (layBoth (layNums 5) (layBoth (layList (layHandle r)) (layBoth (layNums 4) (layBoth (layOpt (layFiring r)) layDest))))
    (fun (l, bound, m, fr, d1) =>
      let c := l.getD 1 0
      let n := l.getD 2 0
      (l.getD 0 0, { kind := nbits c 0 4, busy := nbits c 4 1 == 1, ctx := nbits c 5 4, holder := tileAbs r (nbits c 9 10) % 1024, pri := nbits c 19 2
                     mask := nbits c 21 1 == 1, chn := nbits c 22 1 == 1, nexth := nbits c 23 4, pend := nbits n 0 13, done := nbits n 16 13
                     total := nbits n 32 13, oob := nbits n 48 13, w0 := w64 (l.getD 3 0), w1 := w64 (l.getD 4 0), bound := bound
                     next := m.getD 0 0, since := m.getD 1 0, wrote := m.getD 2 0, lane := m.getD 3 0, firing := fr, d1 := d1 }))
    fun (n, x) => ([n, ({ x with holder := tileRel r (r.die * 1024 + x.holder) } : Hnd).cfg.toNat, x.cnt.toNat, x.w0.toNat, x.w1.toNat], x.bound,
      [x.next, x.since, x.wrote, x.lane], x.firing, x.d1)

/-- A copy with its operands, START and END. -/
def layCopy (r : Region) : Lay Copy :=
  layMap (layBoth (layFiring r) (layBoth layInstr (layBoth (layHandle r) (layBoth (layNums 6) (layBoth (layList layPiece) (layBoth (layList layNat)
      (layBoth layBool layBool)))))))
    (fun (fr, (op, f), h, l, pieces, done, cancel, landed) =>
      { id := l.getD 0 0, firing := fr, f := f, op := op, jid := l.getD 1 0, lane := l.getD 2 0, handle := h, start := l.getD 3 0, stop := l.getD 4 0,
        sent := l.getD 5 0, pieces := pieces, done := done, cancel := cancel, landed := landed })
    fun c => (c.firing, (c.op, c.f), c.handle, [c.id, c.jid, c.lane, c.start, c.stop, c.sent], c.pieces, c.done, c.cancel, c.landed)

/-- A channel: its number, WP, END, its copies, the follow-on operations and CPYCANs that wait. -/
def layChan (r : Region) : Lay (Nat × Chan) :=
  layMap (layBoth (layNums 3) (layBoth (layList (layCopy r)) (layBoth (layList (layCopy r)) (layList (layWait r)))))
    (fun (l, copies, mma, cans) => (l.getD 0 0, { wp := l.getD 1 0, stop := l.getD 2 0, copies := copies, mma := mma, cans := cans }))
    fun (n, x) => ([n, x.wp, x.stop], x.copies, x.mma, x.cans)

/-- MXOPc (R244) with the number of its operation. -/
def layRec : Lay MxRec := layMap (layNums 6)
  (fun l => { id := l.getD 0 0, prog := l.getD 1 0, state := l.getD 2 0, steps := l.getD 3 0, cause := l.getD 4 0, ecm := l.getD 5 0 == 1 })
  fun x => [x.id, x.prog, x.state, x.steps, x.cause, bit x.ecm]

/-- A matrix operation (R242). -/
def layMx (r : Region) : Lay MxOp :=
  layMap (layBoth (layMsg r) (layBoth (layNums 2) (layBoth (layOpt (layPRec r)) (layBoth (layOpt (layPRec r)) (layBoth (layOpt (layBoth layNat layNat)) layBool)))))
    (fun (g, l, a, b, halt, begun) => { msg := g, steps := l.getD 0 0, prog := l.getD 1 0, psnA := a, psnB := b, halt := halt, begun := begun })
    fun o => (o.msg, [o.steps, o.prog], o.psnA, o.psnB, o.halt, o.begun)

/-- An accumulator bank: its number, the words of MXBANK (R244), and 4096 latches, two to a word. -/
def layBank (r : Region) : Lay (Nat × MxBank) := layMap (layNums 2052)
  (fun l =>
    let b : MxBank := { valid := nbits (l.getD 1 0) 0 1 == 1, ctx := r.ctx, psn := nbits (l.getD 1 0) 5 1 == 1
                        prec := PRec.moved (0, 0, 0) r.origin { w0 := w64 (l.getD 2 0), w1 := w64 (l.getD 3 0) }
                        cells := (((l.drop 4).zipIdx.flatMap fun w => [(2 * w.2, w.1 % 2 ^ 32), (2 * w.2 + 1, w.1 / 2 ^ 32)]).filter fun c => c.2 != 0) }
    (l.getD 0 0, b))
  fun (n, b) => n :: ((List.range 3).map fun w => (({ b with prec := b.prec.moved r.origin (0, 0, 0) } : MxBank).word w).toNat) ++ (List.range 2048).map fun i =>
    AList.getD b.cells (2 * i) b.fill % 2 ^ 32 + AList.getD b.cells (2 * i + 1) b.fill % 2 ^ 32 * 2 ^ 32

/-- A code table: its number, and its entries (R244). -/
def layTab (r : Region) : Lay (Nat × CbTab) := layMap (layNums 3)
  (fun l => (l.getD 0 0, { valid := true, ctx := r.ctx, bits := l.getD 1 0 + l.getD 2 0 * 2 ^ 64 }))
  fun (n, t) => [n, t.bits % 2 ^ 64, t.bits / 2 ^ 64]

/-- A permutation bank: its number, and W0 to W5 (R207). -/
def layPerm : Lay (Nat × Nat) := layMap (layNums 7) (fun l => (l.getD 0 0, (l.drop 1).foldr (fun w n => w + 2 ^ 64 * n) 0))
  fun (b, p) => b :: (List.range 6).map fun w => nbits p (64 * w) 64

/-! ## Sections (R379) -/

/-- Words with a number before them. -/
def layTagged {α : Type} (k : Nat) (a : Lay α) : Lay α := (fun v => k :: a.1 v, fun ws => if ws.head? = some k then a.2 (ws.drop 1) else none)

/-- A part of a section: how many records it has and their words, and records taken up while they are of its kind, at most n. -/
abbrev SectPart := (TileImg → Nat × List Nat) × (Nat → List Nat → TileImg → Nat × List Nat × TileImg)

/-- Records read as long as they are of one kind. -/
def readSome {α : Type} (rd : List Nat → Option (α × List Nat)) : Nat → List Nat → List α × List Nat
  | 0, ws => ([], ws)
  | n + 1, ws => match rd ws with
    | some (x, l) => let q := readSome rd n l; (x :: q.1, q.2)
    | none => ([], ws)

/-- The part that one list of a tile is. -/
def sectPart {α : Type} (a : Lay α) (get : TileImg → List α) (set : TileImg → List α → TileImg) : SectPart :=
  (fun i => ((get i).length, (get i).flatMap a.1),
   fun n ws i => let q := readSome a.2 n ws; (n - q.1.length, q.2, set i q.1))

/-- The fired, unissued entries of a tile by place. -/
def TileImg.unissued (i : TileImg) : List (Nat × Firing) :=
  i.ready.map (fun e => (QId.all.idxOf e.1, e.2)) ++ i.held.map (fun fr => (7, fr)) ++ i.chain.map fun fr => (8, fr)

/-- CPYWAITs by channel; `next` marks those that have still to find a place. -/
def TileImg.cpywaits (i : TileImg) : List (Nat × Bool × (Firing × Fields × Nat × Nat)) :=
  i.chans.flatMap fun x => (x.2.waits.map fun w => (x.1, false, w)) ++ x.2.wq.map fun w => (x.1, true, w)

/-- A CPYWAIT put back at its channel. -/
def TileImg.addWait (i : TileImg) (w : Nat × Bool × (Firing × Fields × Nat × Nat)) : TileImg :=
  let x : Chan := AList.getD i.chans w.1 {}
  { i with chans := AList.set i.chans w.1 (if w.2.1 then { x with wq := x.wq ++ [w.2.2] } else { x with waits := x.waits ++ [w.2.2] }) }

/-- The parts of a section by KIND. -/
def partsOf (r : Region) (kind : Nat) : List SectPart :=
  match kind with
  | 1 => [sectPart (layEntry r) (·.ents) fun i l => { i with ents := l }]
  | 2 => [sectPart (layFrame r) (·.frames) fun i l => { i with frames := l }]
  | 3 => [sectPart (layToken r) (·.toks) fun i l => { i with toks := l }]
  | 4 => [sectPart (layReady r) (·.unissued) fun i l => { i with
      ready := (l.filter fun e => e.1 < 7).map fun e => (QId.all.getD e.1 .lane, e.2)
      held := (l.filter fun e => e.1 == 7).map (·.2), chain := (l.filter fun e => 7 < e.1).map (·.2) }]
  | 5 => [sectPart (layTagged 0 (layAlloc r)) (·.allocs) fun i l => { i with allocs := l },
          sectPart (layTagged 1 (layMop r)) (·.mops) fun i l => { i with mops := l },
          sectPart (layTagged 2 (layBoth layNat (layBoth layBool (layWait r)))) (·.cpywaits) fun i l => l.foldl TileImg.addWait i,
          sectPart (layTagged 3 (layMsg r)) (·.hwait) fun i l => { i with hwait := l },
          sectPart (layTagged 4 (layTalloc r)) (·.tallocs) fun i l => { i with tallocs := l },
          sectPart (layTagged 5 (layFence r)) (·.fences) fun i l => { i with fences := l },
          sectPart (layTagged 6 (layBoth (layFiring r) layFields)) (·.opens) fun i l => { i with opens := l }]
  | 6 => [sectPart (layDesc r) (·.descs) fun i l => { i with descs := l }]
  | 7 => [sectPart (layTag r) (·.tags) fun i l => { i with tags := l }]
  | 8 => [sectPart (layHnd r) (·.hnds) fun i l => { i with hnds := l }]
  | 9 => [sectPart (layChan r) (fun i => i.chans.filter fun x => ({ x.2 with waits := [], wq := [] } : Chan).any) fun i l => l.foldl (fun (i : TileImg) x =>
      let y : Chan := AList.getD i.chans x.1 {}
      { i with chans := AList.set i.chans x.1 { x.2 with waits := y.waits, wq := y.wq } }) i]
  | 10 => [sectPart (layTagged 0 layRec) (·.mxrec) fun i l => { i with mxrec := l },
           sectPart (layTagged 1 (layMx r)) (·.mx) fun i l => { i with mx := l },
           sectPart (layTagged 2 (layBank r)) (·.banks) fun i l => { i with banks := l },
           sectPart (layTagged 3 (layTab r)) (·.tabs) fun i l => { i with tabs := l }]
  | 11 => [sectPart layPerm (·.perms) fun i l => { i with perms := l }]
  | 12 => [sectPart (layNums 4) (fun i => [[i.quota, i.mquota, i.hallot, i.callot]]) fun i l =>
      let w := l.headD []
      { i with quota := w.getD 0 0, mquota := w.getD 1 0, hallot := w.getD 2 0, callot := w.getD 3 0 }]
  | _ => []

/-- A section: KIND, place, how many records, their words. -/
structure Sect where
  kind  : Nat
  v     : Nat
  rx    : Nat
  ry    : Nat
  count : Nat
  words : List Nat
deriving DecidableEq, Repr

/-- The marks of caught tokens that go to links, one bit each, after the records of a section of tokens. -/
def linkMarks (ks : List Token) : List Nat :=
  (List.range (ceilDiv ks.length 64)).map fun w => ((ks.drop (64 * w)).take 64).zipIdx.foldl (fun n k => n + bit k.1.link * 2 ^ k.2) 0

/-- Tokens with their marks. -/
def withMarks (ks : List Token) (ws : List Nat) : List Token :=
  ks.zipIdx.map fun k => { k.1 with link := nbits (ws.getD (k.2 / 64) 0) (k.2 % 64) 1 == 1 }

/-- The section of one kind of one tile. -/
def sectOf (r : Region) (i : TileImg) (kind : Nat) : Sect :=
  let ps := (partsOf r kind).map fun p => p.1 i
  { kind := kind, v := i.v, rx := i.rx, ry := i.ry, count := ps.foldl (fun n p => n + p.1) 0
    words := ps.flatMap (·.2) ++ if kind = 3 then linkMarks i.toks else [] }

/-- The sections of an image: by tile, by KIND, those with a record. -/
def sectionsOf (rs : List Region) (tiles : List TileImg) : List Sect :=
  tiles.flatMap fun i => match rs[i.v]? with
    | none => []
    | some r => ((List.range 12).map fun k => sectOf r i (k + 1)).filter fun x => x.count != 0

/-- The records of a section taken up by a tile's image; none where they are not of its KIND. -/
def readSect (r : Region) (kind count : Nat) (ws : List Nat) (i : TileImg) : Option (List Nat × TileImg) :=
  let q := (partsOf r kind).foldl (fun (a : Nat × List Nat × TileImg) p => p.2 a.1 a.2.1 a.2.2) (count, ws, i)
  if q.1 ≠ 0 then none
  else if kind = 3 then some (q.2.1.drop (ceilDiv count 64), { q.2.2 with toks := withMarks q.2.2.toks q.2.1 })
  else some q.2

/-! ## The bytes of an image (R379) -/

/-- n rounded up to a multiple of k. -/
def roundUp (k n : Nat) : Nat := k * ceilDiv n k

/-- The offset of the section directory: after the region table. -/
def secDir (nreg : Nat) : Nat := roundUp 16 (0x80 + 24 * nreg)

/-- The directory entries of sections that follow one another from an offset. -/
def dirWords : Nat → List Sect → List Nat
  | _, [] => []
  | off, x :: l =>
    (x.kind + x.v * 2 ^ 8 + x.rx * 2 ^ 14 + x.ry * 2 ^ 19 + x.count % 2 ^ 32 * 2 ^ 32) :: off % 2 ^ 40 :: dirWords (off + roundUp 16 (8 * x.words.length)) l

/-- Words with one of zero after them if they are odd in number: a section starts on a multiple of 16. -/
def evenWords (ws : List Nat) : List Nat := if ws.length % 2 = 0 then ws else ws ++ [0]

/-- The words of an image from 0x80 to its end. -/
def tailWords (rs : List Region) (secs : List Sect) : List Nat :=
  let tab := rs.flatMap fun r => [r.rgeo.toNat, r.rpc.toNat, r.isc % 2 ^ 64]
  let dir := secDir rs.length
  let ws := evenWords tab ++ dirWords (dir + 16 * secs.length) secs ++ secs.flatMap fun x => evenWords x.words
  ws ++ List.replicate ((8 - ws.length % 8) % 8) 0

/-- An image: what its header holds, its regions and its tiles. -/
structure Img where
  mapv  : Nat
  gnum  : Nat
  jid   : Nat
  gimg  : Nat
  clk   : Nat
  rs    : List Region
  tiles : List TileImg
deriving DecidableEq, Repr

/-- The bytes of an image. -/
def Img.bytes (x : Img) : List Byte :=
  let secs := sectionsOf x.rs x.tiles
  let tail := unpackBytes (tailWords x.rs secs)
  toBytes 4 0x4E465A31 ++ toBytes 2 1 ++ toBytes 2 x.rs.length ++ toBytes 8 (0x80 + tail.length) ++ toBytes 8 x.mapv
    ++ toBytes 8 (x.gnum + x.jid * 2 ^ 16) ++ toBytes 8 x.gimg ++ toBytes 4 (crc32c tail) ++ toBytes 4 secs.length
    ++ toBytes 8 (secDir x.rs.length) ++ toBytes 8 x.clk ++ List.replicate 64 0 ++ tail

/-- The image of a graph as it stands. -/
def State.image (s : State) (gnum : Nat) (g : Graph) : Img :=
  { mapv := s.version, gnum := gnum, jid := g.jid, gimg := g.img, clk := s.clk, rs := g.regions, tiles := graphImg s g.regions }

/-! ## Reading an image back (step 1 of R380) -/

/-- Whether the first 64 bytes are the header of an image, so far as they tell (R379). -/
def imgHeader (h : List Byte) : Bool :=
  bytesAt h 0 4 == 0x4E465A31 && bytesAt h 4 2 == 1 && bytesAt h 8 8 % 64 == 0 && decide (0x80 ≤ bytesAt h 8 8)

/-- Whether a caught token names a frame of its tile's image, with its lanes inside the frame, and its port and payload legal (R23, R380). -/
def tokenOk (r : Region) (i : TileImg) (k : Token) : Bool :=
  let mine (x : Frame) : Bool := decide (k.lb + k.rl ≤ x.lw)
  k.ctx == r.ctx && k.dst == r.tileAt i.rx i.ry && (AList.get? i.frames k.fi).any mine && k.port != 3 && k.rl != 0 && match k.pay with
    | .handle _ => k.rl == 1
    | _ => true

/-- The tiles of an image before their sections are read. -/
def emptyTiles (rs : List Region) : List TileImg :=
  rs.flatMap fun r => r.places.map fun p => ({ v := r.vreg, rx := p.1, ry := p.2 } : TileImg)

/-- The sections read in the order of the directory; the index of the first that does not hold what its entry says, or a caught token that
names no frame. -/
def readSects (rs : List Region) (body : List Nat) : Nat → List (Nat × Nat) → List TileImg → Except Nat (List TileImg)
  | _, [], tiles => .ok tiles
  | k, (w0, w1) :: rest, tiles =>
    let kind := nbits w0 0 8
    let at_ (i : TileImg) : Bool := i.v == nbits w0 8 6 && i.rx == nbits w0 14 5 && i.ry == nbits w0 19 5
    match rs[nbits w0 8 6]?, tiles.find? at_ with
    | some r, some i => match readSect r kind (nbits w0 32 32) (body.drop (w1 / 8)) i with
      | some (_, j) => if kind = 3 ∧ !(j.toks.all (tokenOk r j)) then .error k
          else readSects rs body (k + 1) rest (tiles.map fun x => if at_ x then j else x)
      | none => .error k
    | _, _ => .error k

/-- The index of the first section that, with its directory entry, is not as the layout has it: a reserved bit, a field (R380). -/
def badSect (rs : List Region) (secs : List Sect) (body : List Nat) : Option Nat :=
  let dir := secDir rs.length
  let ds := dirWords (dir + 16 * secs.length) secs
  (secs.zipIdx.find? fun x =>
    let ws := evenWords x.1.words
    (body.drop (dir / 8 + 2 * x.2)).take 2 != (ds.drop (2 * x.2)).take 2 || (body.drop (ds.getD (2 * x.2 + 1) 0 / 8)).take ws.length != ws).map (·.2)

/-- An image read back: every field and reserved bit is as the layout has it. An error names the section at fault, or none. -/
def readImage (g : Nat → Option Graph) (bs : List Byte) : Except (Option Nat) Img :=
  let n := bytesAt bs 6 2
  let gw := bytesAt bs 0x18 8
  let body := (wordsOf bs (bs.length / 8)).map BitVec.toNat
  let w (off : Nat) : Nat := body.getD (off / 8) 0
  let old := ((g (gw % 65536)).map (·.regions)).getD []
  let rs := (List.range n).map fun v =>
    Region.asHeld ((old[v]?).getD { vreg := v, die := 0, qx := 0, qy := 0, wm1 := 0, hm1 := 0, ctx := 0, nls := 1, cfgs := [] })
      (w (0x80 + 24 * v)) (w (0x88 + 24 * v)) (w (0x90 + 24 * v))
  let dir := (List.range (bytesAt bs 0x2C 4)).map fun k => (w (bytesAt bs 0x30 8 + 16 * k), w (bytesAt bs 0x30 8 + 16 * k + 8))
  if !imgHeader bs || bytesAt bs 8 8 != bs.length || decide (bs.length < 16 * bytesAt bs 0x2C 4) || crc32c (bs.drop 0x80) != bytesAt bs 0x28 4 then .error none
  else match readSects rs body 0 dir (emptyTiles rs) with
    | .error k => .error (some k)
    | .ok tiles =>
      let x : Img := { mapv := bytesAt bs 0x10 8, gnum := gw % 65536, jid := nbits gw 16 12, gimg := bytesAt bs 0x20 8, clk := bytesAt bs 0x38 8,
                       rs := rs, tiles := tiles }
      if x.bytes = bs then .ok x else .error (badSect rs (sectionsOf rs tiles) body)

end Sys2Proof.Machine
end

