-- ==== Sys2Proof/Machine/Freeze.lean ====
section
/-! DEFINITION. Freezing: the wave, read-out, FREEZE; reset of a compute die (R337, R377 to R379, R381, R385, R400). -/

namespace Sys2Proof.Machine

/-! ## Units that end for want of their part (R372, R381, R393) -/

/-- The record of a unit that no instruction ends: w1 names none. -/
def unitWords (s : State) (u : UnitId) (cause : Nat) : List Word :=
  let card := ((s.launchOf u).map (·.cardVA)).getD 0
  [w64 (cause + 2 ^ 14 + s.version % 2 ^ 32 * 2 ^ 32), 0, 0, w64 (u.queue + 2 ^ 15 + u.entry % 2 ^ 32 * 2 ^ 16), w64 (addr card), 0,
   w64 s.clk, 0]

/-- A unit ends under R372 with a cause that no instruction raises. -/
def loseUnit (s : State) (u : UnitId) (cause : Nat) : State :=
  if unitEnding s u then (killUnit s u).suppress
  else
    let l := s.launchOf u
    let jid := (l.map (·.jid)).getD 0
    let fq := (l.map fun l => l.fq s).getD (s.job jid).fq
    let words := unitWords s u cause
    let s := (killUnit s u).onQueue u.queue fun q => q.setState s.clk 2
    let s := s.onLaunch u.queue u.entry fun l => l.halted 5
    s.pendRec { jid := jid, fq := fq, unit := some u, words := words }

/-- Removing repeats. -/
def distinctOf {α : Type} [DecidableEq α] : List α → List α
  | [] => []
  | x :: l => x :: (distinctOf l).filter (· != x)

/-- The units with a frame on the tiles that a test picks out. -/
def unitsOn (s : State) (test : Nat → Bool) : List UnitId :=
  distinctOf ((s.ct.filter fun c => test c.1).flatMap fun c => c.2.frames.map (·.2.unit))

/-- Every such unit ends with cause 0x12 (R381, R393). -/
def loseUnits (s : State) (test : Nat → Bool) : State :=
  (unitsOn s test).foldl (fun (s : State) u => loseUnit s u 0x12) s

/-! ## Withdrawal (R337, R364, R377, R400) -/

/-- REQUEST_WITHDRAWAL: a request that waits in a slice, a MAPRD.WAIT or a held LAUNCH push, by its number. A WAIT of a frame that has
entered ENDING leaves with no outputs (R400); a held push of such a frame stands, having issued (R368). -/
def withdrawAny (s : State) (id : Nat) : State :=
  match s.sw.mwaits.find? fun r => r.id == id with
  | some r =>
    let out := s.onSw fun w => { w with mwaits := w.mwaits.filter fun q => q.id != id }
    match s.opOf r with
    | none => out
    | some o =>
      if s.isEnding o.firing then out.answer { req := r }
      else if s.frozenAt o.firing.tile o.firing.ctx then lend out r o else s
  | none =>
    match s.sw.heldp.find? fun p => p.req.id == id with
    | some p =>
      match s.opOf p.req with
      | none => s
      | some o =>
        if s.frozenAt o.firing.tile o.firing.ctx && !s.isEnding o.firing then
          lend (s.onSw fun w => { w with heldp := w.heldp.filter fun q => q.req.id != id }) p.req o
        else s
    | none => requestWithdraw s id

/-! ## The wave (R377) -/

/-- The tiles of a region with its context slot, by a test on compute tiles. -/
def Graph.slots (g : Graph) : List (Nat × Nat) := g.regions.flatMap fun r => r.computeTiles.map fun t => (t, r.ctx)

/-- Whether a firing belongs to a graph. -/
def Graph.owns (g : Graph) (fr : Firing) : Bool := g.regions.any fun r => r.ctx == fr.ctx && r.covers fr.tile

/-- A freeze wave starts: dealing and firing stop, streaming regions close (R282, R377). -/
def freezeBegin (s : State) (g : Nat) : State :=
  match s.graph? g with
  | none => s
  | some x =>
    if x.st != .bound then s
    else x.slots.foldl (fun (s : State) p => (s.onTile p.1 fun c => c.closeSlots p.2).serveSlots p.1) (s.onGraph g fun x => { x with st := .freezing })

/-- Nothing of a context is in motion at a compute tile. -/
def CTile.still (c : CTile) (ctx : Nat) : Bool :=
  !(c.flight.any fun k => k.ctx == ctx) && !(c.frames.any fun f => f.2.ctx == ctx && f.2.st == .granted) && !(c.laneOut.any fun l => l.any fun k => k.ctx == ctx)
    && !(c.acks.any fun a => a.1.ctx == ctx) && !(c.ksets.any fun k => k.1.ctx == ctx) && !(c.ruOps.any fun o => o.firing.ctx == ctx)
    && !(c.mxIn.any fun g => g.firing.ctx == ctx) && !(c.mxInbox.any fun g => g.firing.ctx == ctx)
    && !(c.mxRun.any fun o => o.msg.firing.ctx == ctx)
    && c.mops.all fun o => o.firing.ctx != ctx || (o.lent && o.out == 0 && o.land.isEmpty)

/-- Nothing of a graph is in motion at a memory tile: no copy has requests without replies, no count word travels. -/
def MTile.still (c : MTile) (mine : Firing → Bool) (ctx : Nat) : Bool :=
  !(c.cin.any fun k => mine k.firing) && !(c.hwords.any fun w => w.ctx == ctx)
    && c.chans.all fun x => x.2.copies.all fun k => !mine k.firing || (k.quiet && !x.2.land.any fun w => w.1 == k.id)

/-- Whether the wave of a graph is complete (R377, step 4). -/
def waveDone (s : State) (g : Graph) : Bool :=
  g.slots.all (fun p => (s.tile p.1).still p.2)
    && g.regions.all (fun r => r.load.isNone && (r.tiles.filter isMemTile).all fun m => (s.mtile m).still g.owns r.ctx)
    && !(s.detected.any fun e => g.regions.any fun r => r.covers e.tile)
    && !(s.sw.recs.any fun r => match r.after with
        | some a => g.owns a.1
        | none => false)

/-! ## Read-out (R378, R379) -/

/-- Writing bytes as a job, one granule at a time; a failure leaves what was written before it. -/
def jobWriteAll : Nat → State → Nat → Nat → List Byte → State × Bool
  | 0, s, _, _, bs => (s, bs.isEmpty)
  | n + 1, s, jid, va, bs =>
    if bs.isEmpty then (s, true)
    else
      let k := 64 - va % 64
      match jobWrite s jid (w64 va) (bs.take k) with
      | .error _ => (s, false)
      | .ok s => jobWriteAll n s jid (va + k) (bs.drop k)

/-- A compute tile without what belongs to a context; its frames become FREE (R106, R378). -/
def CTile.clearCtx (c : CTile) (ctx : Nat) : CTile :=
  let own (fr : Firing) : Bool := fr.ctx == ctx
  let gone := (c.frames.filter fun f => f.2.ctx == ctx).map (·.1)
  let c := QId.all.foldl (fun (c : CTile) q => c.setQueue q { c.queue q with ents := (c.queue q).ents.filter fun e => !own e.2 }) c
  { (c.closeRegions ctx) with
    frames := c.frames.filter fun f => f.2.ctx != ctx
    tags := gone.foldl Fifo.put c.tags
    entries := c.entries.filter fun e => e.2.ctx != ctx
    inputs := c.inputs.filter fun k => k.tok.ctx != ctx
    flight := c.flight.filter fun k => k.ctx != ctx
    held := c.held.filter fun fr => !own fr
    chainHold := c.chainHold.filter fun fr => !own fr
    allocq := AList.erase c.allocq ctx
    mops := c.mops.filter fun o => !own o.firing
    fences := c.fences.filter fun e => !own e.firing
    opens := c.opens.filter fun o => !own o.1
    mxFrozen := c.mxFrozen.filter fun o => !own o.msg.firing
    acc0 := if c.acc0.ownedBy ctx then { c.acc0 with valid := false } else c.acc0
    acc1 := if c.acc1.ownedBy ctx then { c.acc1 with valid := false } else c.acc1
    tab0 := if c.tab0.ctx == ctx then { c.tab0 with valid := false } else c.tab0
    tab1 := if c.tab1.ctx == ctx then { c.tab1 with valid := false } else c.tab1 }

/-- A memory tile without what belongs to a graph: its descriptors are freed, whatever references they had (R378). -/
def MTile.clearCtx (c : MTile) (own : Firing → Bool) (ctx : Nat) : MTile :=
  let ds := (c.descs.filter fun d => d.2.state != 0 && d.2.ctx == ctx).map (·.1)
  let c := ds.foldl MTile.freeDesc c
  { c with
    tags := c.tags.filter fun e => e.2.ctx != ctx
    hnd := c.hnd.map fun h => if h.2.ctx == ctx then (h.1, { h.2 with busy := false, firing := none, bound := [], d1 := none }) else h
    hwait := c.hwait.filter fun g => !own g.firing
    allocq := c.allocq.filter fun a => !own a.firing
    chans := c.chans.map fun x => (x.1, x.2.without own) }

/-- Whether a fault or cancel has ended a unit that has yet to complete. -/
def unitKilled (s : State) (u : UnitId) : Bool := (s.launchOf u).any fun l => l.killed.contains u.no

/-- The regions of a graph are released (R378); units that had been ended complete with their last frames. -/
def releaseRegions (s : State) (gnum : Nat) (g : Graph) : State :=
  let us := distinctOf ((g.slots.flatMap fun p => ((s.tile p.1).frames.filter fun f => f.2.ctx == p.2).map fun f => f.2.unit).filter (unitKilled s))
  let s := g.slots.foldl (fun (s : State) p => s.onTile p.1 fun c => c.clearCtx p.2) s
  let s := g.regions.foldl (fun (s : State) r => (r.tiles.filter isMemTile).foldl (fun (s : State) m =>
    s.onMtile m fun c => c.clearCtx g.owns r.ctx) s) s
  let s := s.onGraph gnum fun x => { x with st := .released }
  us.foldl unitCheck (g.slots.foldl (fun (s : State) p => dropAccount s g.jid p.1) s)

/-- The status of FREEZE (R385). -/
def freezeStatus (code units : Nat) : Word := w64 (code + units % 2 ^ 32 * 2 ^ 32)

/-- Read-out of a frozen graph to a FREEZE's address (R378, R379, R385). -/
def readOut (s : State) (gnum : Nat) (g : Graph) (r : Req) (b c : Word) : State :=
  let bs := (s.image gnum g).bytes
  let status (code : Nat) : LVal := .scal (freezeStatus code (bs.length / 64))
  if c.toNat < bs.length then s.answerLane r (status 2) .dn
  else match jobWriteAll bs.length s.spend r.jid (addr b) bs with
    | (s, false) => s.answerLane r (status 4) .dn
    | (s, true) => (releaseRegions s gnum g).answerLane r (status 0) .dn

/-- The first FREEZE that waits for a graph has been answered. -/
def dropFreeze (s : State) (gnum : Nat) : State := s.onSw fun w => { w with freezes := w.freezes.eraseP fun z => z.g == gnum }

/-- The request and the operands b and c of a FREEZE that waits. -/
def Freezing.words (z : Freezing) : Option (Req × Word × Word) :=
  z.req.bind fun r => match r.piece.acc with
    | .sys _ _ _ b c => some (r, b, c)
    | _ => none

/-- The FREEZEs of a graph go on in the order in which they came, as the graph stands, once the wave is complete and the lines of the image
may be written (R301, R309, R310, R385). -/
def serveFreezes : Nat → State → Nat → State
  | 0, s, _ => s
  | n + 1, s, gnum =>
    match (s.sw.freezes.find? fun z => z.g == gnum).map Freezing.words, s.graph? gnum with
    | none, _ => s
    | some none, _ => serveFreezes n (dropFreeze s gnum) gnum
    | some (some (r, _, _)), none => serveFreezes n ((dropFreeze s gnum).answerLane r (.scal (freezeStatus 1 0)) .dn) gnum
    | some (some (r, b, c)), some g =>
      match g.st with
      | .released => serveFreezes n ((dropFreeze s gnum).answerLane r (.scal (freezeStatus 3 0)) .dn) gnum
      | .frozen =>
        let len := (s.image gnum g).bytes.length
        match s.jobGate r.jid b (if c.toNat < len then 0 else len) .w with
        | (s, false) => s
        | (s, true) => serveFreezes n (readOut (dropFreeze s gnum) gnum g r b c) gnum
      | _ => s

/-- FREEZE at the switch die (R385). -/
def freezeArrive (s : State) (n : Nat) (r : Req) (a : Word) : State :=
  let s := s.taken n
  let gnum := field a 0 16
  if field a 28 36 ≠ 0 then s.answerErr r 0x04 0 a
  else match s.graph? gnum with
    | none => s.answerLane r (.scal (freezeStatus 1 0)) .dn
    | some g =>
      if g.jid ≠ field a 16 12 then s.answerLane r (.scal (freezeStatus 1 0)) .dn
      else if (match s.opOf r with
          | some o => g.owns o.firing
          | none => false) && g.st != .released then s.answerLane r (.scal (freezeStatus 5 0)) .dn
      else if g.st == .released then s.answerLane r (.scal (freezeStatus 3 0)) .dn
      else serveFreezes (s.sw.freezes.length + 1) ((freezeBegin s gnum).onSw fun w => { w with freezes := w.freezes ++ [{ g := gnum, req := some r }] }) gnum

/-- The frames and buffers of a graph are FROZEN (R106, R177). -/
def freezeParts (s : State) (g : Graph) : State :=
  let s := g.slots.foldl (fun (s : State) p => s.onTile p.1 fun c => { c with
    frames := c.frames.map fun f => if f.2.ctx == p.2 then (f.1, { f.2 with st := .frozen, doomed := f.2.st == .ending }) else f }) s
  g.regions.foldl (fun (s : State) r => (r.tiles.filter isMemTile).foldl (fun (s : State) m => s.onMtile m fun c => { c with
    descs := c.descs.map fun d => if d.2.state == 1 && d.2.ctx == r.ctx then (d.1, { d.2 with state := 2 }) else d }) s) s

/-- FREEZE_WAVE_COMPLETE: the wave of a graph is complete: its frames are FROZEN, and the FREEZEs that wait for it read it out in
order, as soon as the lines of their images may be written (R309, R377, R378, R385). -/
def waveComplete (s : State) (gnum : Nat) : State :=
  match s.graph? gnum with
  | none => s
  | some g =>
    let go (s : State) : State := serveFreezes (s.sw.freezes.length + 1) s gnum
    if g.st == .freezing then
      (if waveDone s g then go ((freezeParts s.landRest g).onGraph gnum fun x => { x with st := .frozen }) else s)
    else if g.st == .frozen then go s
    else s

/-! ## Reset of a compute die (R381) -/

/-- Deferred home-slice requests of a die's tiles leave unperformed (R381). -/
def withdrawDie (s : State) (d : Nat) : State :=
  let ofDie (r : Req) : Bool := match r.src with
    | .port t => tileDie t == d
    | _ => false
  let ids := s.md.flatMap fun m => m.2.slices.flatMap fun sl => ((sl.2.idq ++ sl.2.df).filter fun e => ofDie e.2).map fun e => e.2.id
  ids.foldl (fun (s : State) id => match findDeferred s id with
    | some (k, n, r) => withdraw s k n r
    | none => s) s

/-- What stays of a compute tile that is dropped: how many scan tests it has completed, and, unless its die is reset, their last result
(R381, R397, R453). -/
def CTile.dropped (c : CTile) (reset : Bool) : Option CTile :=
  let k : Scan := if reset then { done := c.scan.done } else { last := c.scan.last, sig := c.scan.sig, done := c.scan.done }
  if k = {} then none else some { scan := k }

/-- Tiles that a test picks out return to their reset values, with their scratchpads; a scan test there counts as aborted. -/
def dropTiles (s : State) (test : Nat → Bool) (reset : Bool) : State :=
  let us := unitsOn s test
  let scans : List Scan := (s.ct.filter fun c => test c.1).map fun c => c.2.scan
  let ofTile (r : Req) : Bool := match r.src with
    | .port t | .slot t _ | .chan t _ => test t
    | .outside => false
  let s := { s with
    ct := s.ct.filterMap fun (c : Nat × CTile) => if test c.1 then (CTile.dropped c.2 reset).map fun k => (c.1, k) else some c
    mt := s.mt.filter fun c => !test c.1
    reps := s.reps.filter fun r => !ofTile r.req
    mem := s.mem.filter fun c => !(2 ^ 41 ≤ c.1 && c.1 < 2 ^ 41 + 2 ^ 35 && test ((c.1 - 2 ^ 41) / 2 ^ 21))
    late := s.late.filter fun e => !test ((8 * e.2.1 - 2 ^ 41) / 2 ^ 21) }
  let s := s.onSw fun w => { w with mwaits := w.mwaits.filter fun r => !ofTile r }
  let s := scans.foldl (fun (s : State) c =>
    c.abts.foldl (fun (s : State) r => s.answerLane r (.scal 0) .dn) (match c.go with
      | some r => s.answerLane r (.scal 2) (.scal 0)
      | none => s)) s
  us.foldl unitCheck s

/-- The work of a compute die ends, and the die returns to its reset values (R381). -/
def resetDie (s : State) (d : Nat) : State :=
  let s := loseUnits s fun t => tileDie t == d
  let gs := s.sw.graphs.filter fun g => (g.2.st == .frozen || g.2.st == .freezing) && g.2.regions.any fun r => r.die == d
  let lost := s.sw.launch.filter fun l => gs.any fun g => g.1 == l.gnum
  let s := lost.foldl (fun (s : State) l => s.onLaunch l.queue l.entry fun l => { l with units := [] }.halted 5) s
  let s := dropTiles (withdrawDie s d) (fun t => tileDie t == d) true
  s.onSw fun w => { w with
    boot := AList.erase w.boot d
    graphs := w.graphs.map fun g => (g.1, { g.2 with regions := g.2.regions.map fun r =>
      if r.die = d ∧ g.2.st ≠ .released then { r with cfg := 0, active := false, loading := false, isc := 0, armed := none, load := none } else r }) }

/-- COMPUTE_DIE_RESET, a write of 1 to bit d of CDRST: the reset, and a version with event 11 (R381, R392). -/
def computeReset (s : State) (d : Nat) : State :=
  if 8 ≤ d ∨ s.dieState d = 3 then s
  else
    let s := resetDie s d
    (s.setMapWord (2 + d) (w64 ((s.mapWord (2 + d)).toNat - s.dieState d))).advanceMap 11 false (d * 2 ^ 10) 0

end Sys2Proof.Machine
end

