-- ==== Sys2Proof/Machine/Thaw.lean ====
section
/-! DEFINITION. THAW: placing a frozen graph from its image (R380, R386). -/

namespace Sys2Proof.Machine

/-! ## Renaming (R379, R380) -/

/-- Where a descriptor of the image goes: its old memory tile and number, its new ones, its new first granule, generation and
HOLDER. -/
structure DescTo where
  m   : Nat
  d   : Nat
  m'  : Nat
  d'  : Nat
  g'  : Nat
  gen : Nat
  own : Nat
deriving DecidableEq, Repr

/-- A placement of an image: the graph as it was, as it will be, the frames' new FI as (old tile, old FI, new FI), the descriptors. -/
structure Placing where
  old    : Graph
  new    : Graph
  frames : List (Nat × Nat × Nat) := []
  descs  : List DescTo := []
deriving DecidableEq, Repr

/-- The new tile and context slot of an old tile and slot. -/
def Placing.tile? (p : Placing) (t ctx : Nat) : Option (Nat × Nat) :=
  (p.old.regions.find? fun r => r.ctx == ctx && r.covers t).bind fun r => (p.new.regions[r.vreg]?).map fun q =>
    (q.tileAt (tileX t - 2 * r.qx) (tileY t - 2 * r.qy), q.ctx)

/-- The new FI of an old frame; a number that is no frame of the image stays. -/
def Placing.fi (p : Placing) (t fi : Nat) : Nat := ((p.frames.find? fun f => f.1 == t && f.2.1 == fi).map (·.2.2)).getD fi

/-- A handle renamed: its memory tile, granules, generation, descriptor and HOLDER (R380). -/
def Placing.handle (p : Placing) (die : Nat) (h : Word) : Word :=
  match p.descs.find? fun x => x.m == hTile die h && x.d == hDesc h with
  | some x => w64 (x.m' % 1024 * 2 ^ 54 + x.g' * 2 ^ 45 + field h 37 8 * 2 ^ 37 + x.gen * 2 ^ 29 + x.d' * 2 ^ 20 + x.own % 1024 * 2 ^ 10
      + field h 0 10)
  | none => h

/-- A poison record held at an old tile and context slot, with the place of its origin made absolute at its region's new origin (R380). -/
def Placing.prec (p : Placing) (t ctx : Nat) (x : PRec) : PRec :=
  match (p.old.regions.find? fun r => r.ctx == ctx && r.covers t).bind fun r => (p.new.regions[r.vreg]?).map fun q => (r, q) with
  | some (r, q) => x.moved r.origin q.origin
  | none => x

/-- A lane value held at an old tile and context slot, renamed: handles and poison records change. -/
def Placing.val (p : Placing) (t ctx : Nat) : LVal → LVal
  | .hand h => .hand (p.handle (tileDie t) h)
  | .pois x => .pois (p.prec t ctx x)
  | v => v

/-- A payload renamed. -/
def Placing.pay (p : Placing) (t ctx : Nat) : Payload → Payload
  | .handle h => .handle (p.handle (tileDie t) h)
  | .poison x => .poison (p.prec t ctx x)
  | v => v

/-- A firing renamed. -/
def Placing.firing (p : Placing) (fr : Firing) : Firing :=
  match p.tile? fr.tile fr.ctx with
  | none => fr
  | some (t, c) => { fr with tile := t, ctx := c, fi := p.fi fr.tile fr.fi, ops := fr.ops.map fun o => o.map (p.val fr.tile fr.ctx) }

/-- A token renamed. -/
def Placing.token (p : Placing) (k : Token) : Token :=
  match p.tile? k.dst k.ctx with
  | none => k
  | some (t, c) => { k with dst := t, ctx := c, fi := p.fi k.dst k.fi, pay := p.pay k.dst k.ctx k.pay }

/-- A RET link renamed where it names a tile of the graph (R380). -/
def Placing.ret (p : Placing) (l : Word) : Word :=
  if l = 0 then l
  else match p.tile? (field l 0 14) (field l 14 4) with
    | none => l
    | some (t, c) => w64 (t + c * 2 ^ 14 + p.fi (field l 0 14) (field l 18 12) * 2 ^ 18 + field l 30 34 * 2 ^ 30)

/-- A frame request renamed. -/
def Placing.alloc (p : Placing) (t : Nat) (r : AllocReq) : AllocReq :=
  { r with
    owner := r.owner.map (p.fi t)
    ctx := ((p.tile? t r.ctx).map (·.2)).getD r.ctx
    ret := p.ret r.ret
    toks := r.toks.map fun k => match p.tile? k.dst k.ctx with
      | some (u, c) => { k with dst := u, ctx := c, pay := p.pay k.dst k.ctx k.pay }
      | none => k
    loop := r.loop.map fun l => { l with firing := p.firing l.firing, loops := l.loops.map fun x => (x.1, p.val t r.ctx x.2) } }

/-- A frame renamed, LIVE again; one that was ENDING, or whose unit ended while it was FROZEN, ends then (`endDoomed`). -/
def Placing.frame (p : Placing) (t : Nat) (x : Frame) : Frame :=
  { x with
    st := .live
    doomed := false
    ctx := ((p.tile? t x.ctx).map (·.2)).getD x.ctx
    ret := p.ret x.ret
    parked := x.parked.map fun q => { q with val := p.val t x.ctx q.val } }

/-- A copy renamed. -/
def Placing.copy (p : Placing) (c : Copy) : Copy :=
  { c with firing := p.firing c.firing, handle := p.handle (tileDie c.firing.tile) c.handle }

/-- A channel renamed. -/
def Placing.chan (p : Placing) (x : Chan) : Chan :=
  { x with
    copies := x.copies.map p.copy
    waits := x.waits.map fun w => (p.firing w.1, w.2)
    wq := x.wq.map fun w => (p.firing w.1, w.2)
    mma := x.mma.map p.copy
    cans := x.cans.map fun w => (p.firing w.1, w.2) }

/-- A channel with what the image holds of it. -/
def Chan.join (y x : Chan) : Chan :=
  { y with
    wp := if x.copies.isEmpty then y.wp else x.wp
    stop := if x.copies.isEmpty then y.stop else x.stop
    copies := y.copies ++ x.copies, waits := y.waits ++ x.waits, wq := y.wq ++ x.wq, mma := y.mma ++ x.mma, cans := y.cans ++ x.cans }

/-! ## Allocation on the target tiles (step 4 of R380) -/

/-- A step that may lack resources. -/
abbrev Short := Option (State × Placing)

/-- FIs for the frames of one compute tile. -/
def takeFrames (t t' : Nat) (fs : List (Nat × Frame)) (acc : Short) : Short :=
  fs.foldl (fun acc f => acc.bind fun (s, p) => match (s.tile t').tags.take 4096 with
    | some (fi, tags) =>
      if (s.tile t').freeCells < f.2.cells then none
      else some (s.onTile t' fun c => ({ c with tags := tags } : CTile).setFrame fi { f.2 with st := .frozen },
        { p with frames := p.frames ++ [(t, f.1, fi)] })
    | none => none) acc

/-- Descriptors and granules for the buffers of one memory tile: roots first, so that a view finds its root's granules. -/
def takeDescs (m m' : Nat) (ds : List (Nat × Desc × List Byte)) (acc : Short) : Short :=
  ((ds.filter fun d => !d.2.1.view) ++ ds.filter fun d => d.2.1.view).foldl (fun acc (n, d, _) => acc.bind fun (s, p) =>
    let c := s.mtile m'
    match c.dfifo.take 512 with
    | none => none
    | some (k, fifo) =>
      let own := ((p.tile? (tileDie m * 1024 + d.holder) d.ctx).map (·.1)).getD (tileDie m' * 1024 + d.holder)
      let toD (g : Nat) : DescTo := { m := m, d := n, m' := m', d' := k, g' := g, gen := (c.desc k).gen, own := own % 1024 }
      if d.view then
        match p.descs.find? fun x => x.m == m && x.d == d.root with
        | some r => some (s.setMtile m' { c with dfifo := fifo }, { p with descs := p.descs ++ [toD r.g'] })
        | none => some (s.setMtile m' { c with dfifo := fifo }, { p with descs := p.descs ++ [toD d.gran0] })
      else match c.freeRun (d.ngm1 + 1) with
        | some g => some (s.setMtile m' { c with dfifo := fifo, owned := c.owned ++ (List.range (d.ngm1 + 1)).map (g + ·) },
            { p with descs := p.descs ++ [toD g] })
        | none => none) acc

/-- Whether the rest that a tile of the image needs is free on its target: instruction-store entries, accumulator banks, code tables;
handlers and copy channels of the same numbers. `also` are the tiles of the image that other regions of it bring to the same target. -/
def roomAt (s : State) (also : List TileImg) (i : TileImg) (t' ctx' : Nat) : Bool :=
  let c := s.tile t'
  let m := s.mtile t'
  let busy (x : Nat × Chan) : Bool := !x.2.copies.isEmpty
  decide (c.entries.length + i.ents.length + (also.map fun j => j.ents.length).sum ≤ 16)
    && i.banks.all (fun b => !(c.bank b.1).valid && !also.any fun j => j.banks.any fun x => x.1 == b.1)
    && i.tabs.all (fun b => !(c.tab b.1).valid && !also.any fun j => j.tabs.any fun x => x.1 == b.1)
    && i.hnds.all (fun h => !(m.handler h.1).busy && !also.any fun j => j.hnds.any fun x => x.1 == h.1)
    && i.chans.all (fun x => !busy x || ((m.chan x.1).copies.isEmpty && !also.any fun j => j.chans.any fun y => y.1 == x.1 && busy y))
    && (s.regionAt t' ctx').isNone

/-- The image's tiles with their old and new places. -/
def placedTiles (p : Placing) (tiles : List TileImg) : List (TileImg × Nat × Nat × Nat) :=
  tiles.filterMap fun i => match p.old.regions[i.v]?, p.new.regions[i.v]? with
    | some r, some q => some (i, r.tileAt i.rx i.ry, q.tileAt i.rx i.ry, q.ctx)
    | _, _ => none

/-- Every allocation of step 4. -/
def allocAll (s : State) (p : Placing) (tiles : List TileImg) : Short :=
  let all := placedTiles p tiles
  all.zipIdx.foldl (fun acc e => acc.bind fun (s, p) =>
    let (i, t, t', ctx') := e.1
    if !roomAt s (((all.take e.2).filter fun d => d.2.2.1 == t').map (·.1)) i t' ctx' then none
    else takeDescs t t' i.descs (takeFrames t t' i.frames (some (s, p)))) (some (s, p))

/-! ## Writing the state -/

/-- A descriptor of the image written at its new place, with its contents. -/
def putDesc (p : Placing) (m : Nat) (s : State) (e : Nat × Desc × List Byte) : State :=
  let (n, d, bs) := e
  match p.descs.find? fun x => x.m == m && x.d == n with
  | none => s
  | some x =>
    let num (e : Nat) : Nat := ((p.descs.find? fun y => y.m == m && y.d == e).map (·.d')).getD e
    let ctx := ((p.tile? (tileDie m * 1024 + d.holder) d.ctx).map (·.2)).getD d.ctx
    let s := s.onMtile x.m' fun c => c.setDesc x.d' { d with
      state := 1, prec := p.prec m d.ctx d.prec, gen := x.gen, holder := x.own, ctx := ctx, gran0 := x.g', root := num d.root, sdesc := d.sdesc.map num }
    if d.view then s else s.padWrite x.m' (x.g' * 4096) bs

/-- A memory tile of the image. -/
def putMem (p : Placing) (s : State) (e : TileImg × Nat × Nat × Nat) : State :=
  let (i, m, m', ctx') := e
  let s := i.descs.foldl (putDesc p m) s
  s.onMtile m' fun c =>
    let c := i.hnds.foldl (fun (c : MTile) h => c.setHandler h.1 { h.2 with
      ctx := ctx', bound := h.2.bound.map (p.handle (tileDie m)), firing := h.2.firing.map p.firing
      holder := ((h.2.firing.map p.firing).map fun fr => fr.tile % 1024).getD h.2.holder, since := s.clk }) c
    let c := i.chans.foldl (fun (c : MTile) x => c.setChan x.1 ((c.chan x.1).join (p.chan x.2))) c
    let slots := i.tags.map fun k => k.2
    let free := (List.range 256).filter fun k => (AList.get? c.tags k).isNone
    let c := (slots.zip free).foldl (fun (c : MTile) k => { c with
      tags := AList.set c.tags k.2 { k.1 with ctx := ctx', handle := p.handle (tileDie m) k.1.handle } }) c
    { c with
      hwait := c.hwait ++ i.hwait.map (fun g => { g with firing := p.firing g.firing, bad := g.bad.map (p.prec g.firing.tile g.firing.ctx) })
      allocq := c.allocq ++ i.tallocs.map (fun a => { a with firing := p.firing a.firing, handle := a.handle.map (p.handle (tileDie m)) })
      hallot := AList.set c.hallot ctx' i.hallot
      callot := AList.set c.callot ctx' i.callot
      quota := AList.set c.quota ctx' i.mquota }

/-- An operation reissued: the counter that the wave gave back rises again. -/
def reissue (s : State) (o : MemOp) : State :=
  let s := match o.had with
    | some c => s.count o.firing c
    | none => s
  s.onTile o.firing.tile fun c => { c with
    mops := c.mops ++ [{ o with lent := false, had := none, cnt := o.cnt.orElse fun _ => o.had, jid := o.jid }] }

/-- A compute tile of the image: banks, tables, permutations and allotments, then the ready entries, the tokens and the pending requests
in their order: a ready entry is older by its clk than those after it (R36, R380). Matrix operations that had not begun enter the inbox again, and claim their banks when they are taken (R242).
Code tables go back under their numbers, and CUR stays as the target has it (log entry 141). -/
def putComp (p : Placing) (s : State) (e : TileImg × Nat × Nat × Nat) : State :=
  let (i, t, t', ctx') := e
  let rec0 : MxRec := i.mxrec.headD {}
  let all := i.mx.map fun o => { o with
    msg := { o.msg with firing := p.firing o.msg.firing, bad := o.msg.bad.map (p.prec t o.msg.firing.ctx) }
    psnA := o.psnA.map (p.prec t o.msg.firing.ctx), psnB := o.psnB.map (p.prec t o.msg.firing.ctx), halt := o.halt.map fun h => (s.clk, h.2) }
  let mx := all.filter fun o => o.begun
  let back := all.filter fun o => !o.begun
  let stateOf (o : MxOp) : Nat := if !o.begun then 1 else if o.halt.isSome then 3 else 2
  let s := s.onTile t' fun c =>
    let c := i.banks.foldl (fun (c : CTile) b => c.setBank b.1 { b.2 with ctx := ctx', prec := p.prec t b.2.ctx b.2.prec }) c
    let c := i.tabs.foldl (fun (c : CTile) b => c.setTab b.1 { b.2 with ctx := ctx' }) c
    let c := p.frames.foldl (fun (c : CTile) f =>
      if f.1 = t then match AList.get? i.frames f.2.1 with
        | some x => c.setFrame f.2.2 (p.frame t x)
        | none => c
      else c) c
    { c with
      perm := i.perms.foldl (fun l b => if b.2 = c.permOf ctx' b.1 then l else AList.set l (2 * ctx' + b.1) b.2) c.perm
      quota := AList.set c.quota ctx' i.quota
      mxop := AList.set c.mxop ctx' { rec0 with
        state := ((all.find? fun o => o.msg.id == rec0.id).map stateOf).getD rec0.state }
      mxRun := c.mxRun ++ mx
      mxFrozen := c.mxFrozen ++ back
      mxseq := all.foldl (fun n o => max n o.msg.id) (max c.mxseq rec0.id)
      held := c.held ++ i.held.map p.firing
      chainHold := c.chainHold ++ i.chain.map p.firing
      allocq := AList.set c.allocq ctx' ((i.allocs.map (p.alloc t)).zipIdx.map fun r => { r.1 with seq := c.seq + r.2 })
      seq := c.seq + i.allocs.length
      fences := c.fences ++ i.fences.map (fun f => { f with firing := p.firing f.firing })
      opens := c.opens ++ i.opens.map (fun o => (p.firing o.1, o.2))
      inputs := c.inputs ++ i.toks.map fun k => { via := .engine, clk := s.clk, tok := p.token k } }
  let n := i.ready.length
  let s := s.onTile t' fun c => i.ready.zipIdx.foldl (fun (c : CTile) r =>
    c.setQueue r.1.1 { c.queue r.1.1 with ents := (c.queue r.1.1).ents ++ [(s.clk + r.2 - n, p.firing r.1.2)] }) c
  let val (o : MemOp) (v : LVal) : LVal := p.val t o.firing.ctx v
  i.mops.foldl (fun (s : State) o => reissue s { o with
    firing := p.firing o.firing, vals := o.vals.map fun v => (v.1, val o v.2.1, val o v.2.2) }) s

/-- The frames of a tile that were ENDING when the wave reached them, or whose unit ended while they were FROZEN, are ENDING again
(R104, R106). -/
def endDoomed (p : Placing) (s : State) (e : TileImg × Nat × Nat × Nat) : State :=
  (e.1.frames.filter fun f => f.2.doomed).foldl (fun (s : State) f => s.endFrame e.2.2.1 (p.fi e.2.1 f.1)) s

/-- The blocks of the image, fetched again and compared (step 5 of R380); the entries of one tile. -/
def fetchEntries (s : State) (g : Graph) (i : TileImg) (ctx' : Nat) : Option (List Entry) :=
  allSome (i.ents.map fun e =>
    match fetchBlock s g.jid (addr (w64 g.img) + g.dir.getD e.2.block.gbn 0) e.2.block.gbn with
    | .ok b => if b.digest = e.2.block.digest then some { e.2 with ctx := ctx', block := { b with consts := e.2.block.consts } } else none
    | .error _ => none)

/-- Whether the blocks of an image may be read now (R301, R309, R320). -/
def blocksGate (s : State) (g : Graph) (img : Img) : State × Bool :=
  let gbns := distinctOf (img.tiles.flatMap fun i => i.ents.map fun e => e.2.block.gbn)
  gbns.foldl (fun (a : State × Bool) gbn =>
    let va := addr (w64 img.gimg) + g.dir.getD gbn 0
    if a.2 then a.1.jobGate g.jid (w64 va) (blockSpan a.1 g.jid va gbn) .x else a) (s, true)

/-- Writing fetched entries into the lowest free ones. -/
def putEntries (s : State) (t : Nat) (es : List Entry) : State :=
  es.foldl (fun (s : State) e => match (List.range 16).find? fun k => (AList.get? (s.tile t).entries k).isNone with
    | some k => s.onTile t fun c => { c with entries := AList.set c.entries k e }
    | none => s) s

/-- The status of THAW (R380). -/
def thawFail (s : State) (r : Req) (code vreg extra : Nat) : State := s.answerLane r (.scal (relocStatus code vreg extra)) .dn

/-- Steps 3 to 5 and the writing of the state (R380): the graph, the image and the regions that it goes to. -/
def thawPlace (s : State) (r : Req) (g : Graph) (img : Img) (rs : List Region) : State :=
  match placeFaults s rs with
  | some (v, c) => thawFail s r (c + 1) v 0
  | none =>
    let old : Graph := { g with img := img.gimg, regions := img.rs }
    let new : Graph := { g with regions := rs, st := .bound }
    match allocAll s { old := old, new := new } img.tiles with
    | none => thawFail s r 8 0 0
    | some (s', p) =>
      let tiles := placedTiles p img.tiles
      match allSome (tiles.map fun e => fetchEntries s old e.1 e.2.2.2) with
      | none => thawFail s r 9 0 0
      | some ents =>
        let s := s'.onSw fun w => { w with graphs := AList.set w.graphs img.gnum new }
        let s := (tiles.zip ents).foldl (fun (s : State) e => putEntries s e.1.2.2.1 e.2) s
        let s := tiles.foldl (putMem p) s
        let s := (tiles.filter fun e => isCompute e.2.2.1).foldl (putComp p) s
        let s := tiles.foldl (endDoomed p) s
        let s := (tiles.filter fun e => isCompute e.2.2.1).foldl (fun (s : State) e => s.serveSlots e.2.2.1) s
        let s := new.slots.foldl (fun (s : State) q => s.onTile q.1 (addAccount s.clk new.jid)) s
        s.answerLane r (.scal (relocStatus 0 0 img.gnum)) .dn

/-- Reading bytes as a job, one granule at a time. -/
def jobReadAll (s : State) (jid : Nat) : Nat → Nat → Nat → Except (Nat × Nat) (List Byte)
  | 0, _, _ => .ok []
  | fuel + 1, va, n =>
    if n = 0 then .ok []
    else
      let k := min n (64 - va % 64)
      match jobRead s jid (w64 va) k with
      | .error c => .error (c, va)
      | .ok bs => (jobReadAll s jid fuel (va + k) (n - k)).map (bs ++ ·)

/-- The image at an address (step 1 of R380): its header tells its length. -/
def findImage (s : State) (jid va : Nat) : Except (Nat × Nat) (Except (Option Nat) Img) :=
  match jobReadAll s jid 64 va 64 with
  | .error e => .error e
  | .ok head =>
    if !imgHeader head then .ok (.error none)
    else (jobReadAll s jid (bytesAt head 8 8) va (bytesAt head 8 8)).map (readImage s.graph?)

/-- Whether what a THAW reads may be read now: the image, the table, the blocks (R301, R309, R310, R320, R390). -/
def thawGate (s : State) (r : Req) (a b : Word) : State × Bool :=
  match s.jobGate r.jid a 64 .r with
  | (s, false) => (s, false)
  | (s, true) => match jobReadAll s r.jid 64 (addr a) 64 with
    | .error _ => (s, true)
    | .ok head => match s.jobGate r.jid a (if imgHeader head then bytesAt head 8 8 else 64) .r with
      | (s, false) => (s, false)
      | (s, true) => match findImage s r.jid (addr a) with
        | .ok (.ok img) => match s.tlbGate r.jid (addr b) (8 * (1 + img.rs.length)) .r with
          | (s, false) => (s, false)
          | (s, true) => match s.graph? img.gnum with
            | some g => blocksGate s g img
            | none => (s, true)
        | _ => (s, true)

/-- THAW at the switch die (R380): the image is read through the requester's leases, the table as RELOC reads it. Where no section is at
fault the section index is a free value. -/
def thawArrive (s : State) (n : Nat) (r : Req) (a b : Word) : State :=
  match thawGate s r a b with
  | (s, false) => s
  | (s, true) =>
  let s := (s.taken n).spend
  match findImage s r.jid (addr a) with
  | .error e => (countAt s r.jid (w64 e.2) e.1).answerVa r e.1 (w64 e.2)
  | .ok (.error none) => thawFail (s.useFree 1) r 1 0 (field (Config.freeWord s.free) 0 16)
  | .ok (.error (some k)) => thawFail s r 1 0 k
  | .ok (.ok img) =>
    match tlbWords s r.jid (addr b) (1 + img.rs.length) with
    | (.error e, s) => (countAt s r.jid (w64 e.2) e.1).answerVa r e.1 (w64 e.2) 1
    | (.ok tb, s) =>
      let ws := wordNats tb (1 + img.rs.length)
      let h := ws.headD 0
      match relocBad ws, s.graph? img.gnum with
      | some w, _ => s.answerErr r 0x04 1 (w64 w)
      | none, none => thawFail s r 2 0 0
      | none, some g =>
        if g.st != .released || g.dead || g.jid != nbits h 0 12 || g.jid != img.jid then thawFail s r 2 0 0
        else if nbits h 16 6 ≠ img.rs.length % 64 ∨ img.rs.length ≠ g.regions.length then thawFail s r 7 0 0
        else thawPlace s r g img ((img.rs.zip (ws.drop 1)).map fun p => placeRegion p.1 p.2)

end Sys2Proof.Machine
end

