-- ==== Sys2Proof/Machine/ResMap.lean ====
section
/-! DEFINITION. The resource map: its events, degradations, acknowledgement and suspension, scan tests (R255, R387 to R403, R417, R441). -/

namespace Sys2Proof.Machine

/-! ## Entries (R389, R390) -/

/-- A map word with a field replaced. -/
def putField (w : Word) (lo n v : Nat) : Word := w64 (w.toNat - field w lo n * 2 ^ lo + v % 2 ^ n * 2 ^ lo)

/-- Setting a field of a map word. -/
def State.putMap (s : State) (mix lo n v : Nat) : State := s.setMapWord mix (putField (s.mapWord mix) lo n v)

/-- Full lanes and rate of link l (R417, R422, R428). -/
def linkFull (l : Nat) : Nat × Nat := if l < 160 then (64, 64) else if l < 192 then (4, 224) else (16, 128)

/-- A link entry (R389). -/
def linkWord (state lanes rate : Nat) : Word := w64 (state + lanes % 256 * 2 ^ 2 + rate % 256 * 2 ^ 10)

/-- READY at full width and rate. -/
def linkGood (s : State) (l : Nat) : Bool := s.mapWord (linkMix l) == linkWord 1 (linkFull l).1 (linkFull l).2

/-- The die of a UCIe module. -/
def linkDie (l : Nat) : Nat := if l < 80 then l / 10 else 8 + (l - 80) / 20

/-- The stacks of a die. -/
def dieStacks (d : Nat) : List Nat := if 8 ≤ d ∧ d < 12 then (List.range 4).map (4 * (d - 8) + ·) else []

/-- Whether a die in service has a part that is not whole (R390). -/
def dieDegraded (s : State) (d : Nat) : Bool :=
  (decide (d < 8) && (field (s.mapWord (2 + d)) 16 9 != 320 || field (s.mapWord (2 + d)) 25 9 != 320))
    || (dieStacks d).any (fun k => field (s.mapWord (296 + k)) 2 32 != 2 ^ 32 - 1)
    || (dieLinks d).any fun l => !linkGood s l

/-- Whether nothing of a die is left in service: no tile of a compute die, no stack of a memory die (R390). -/
def dieGone (s : State) (d : Nat) : Bool :=
  (decide (d < 8) && field (s.mapWord (2 + d)) 16 9 == 0 && field (s.mapWord (2 + d)) 25 9 == 0)
    || (memDies.contains d && (dieStacks d).all fun k => field (s.mapWord (296 + k)) 0 2 == 3)

/-- STATE of a die in service follows R390. -/
def recalcDie (s : State) (d : Nat) : State :=
  if s.dieUp d then s.putMap (2 + d) 0 2 (if dieGone s d then 3 else if dieDegraded s d then 2 else 1) else s

/-! ## The home table (R255) -/

/-- Setting entry i of the home table. -/
def State.setHt (s : State) (i d : Nat) : State := s.putMap (312 + i / 16) (4 * (i % 16)) 4 d

/-- Memory dies in service, ascending. -/
def liveMem (s : State) : List Nat := memDies.filter s.dieUp

/-- Whether the home table has been written. -/
def htWritten (s : State) : Bool := s.ht 0 != 0

/-- The home table is first written in the version that leaves no memory die NOTREADY, and what waits for it at the switch die goes on
(R255, R390). -/
def firstHt (s : State) : State :=
  if htWritten s || memDies.any (fun d => s.dieState d == 0) || (liveMem s).isEmpty then s
  else sendWaiting ((List.range 64).foldl (fun (s : State) i => s.setHt i ((liveMem s).getD (i % (liveMem s).length) 0)) s)

/-- The entries of a lost die go to the survivors in ascending rotation (R255). -/
def reassignHt (s : State) (d : Nat) : State :=
  let live := liveMem s
  if live.isEmpty then s
  else (((List.range 64).filter fun i => s.ht i == d).zipIdx).foldl (fun (s : State) p => s.setHt p.1 (live.getD (p.2 % live.length) 0)) s

/-- The home table once a memory die is DEAD (R255). -/
def htWithout (s : State) (d : Nat) : State := if htWritten s then reassignHt s d else firstHt s

/-! ## Degradations (R393 to R395) -/

/-- Whether a job uses a part that the map records as DEAD (R393): a page lies in every channel of its die (R405). -/
def usesLost (s : State) (jid : Nat) : Bool :=
  (s.sw.graphs.any fun g => g.2.jid == jid && g.2.st != .released && g.2.regions.any fun r => r.tiles.any fun t => s.tileDead t)
    || memDies.any fun d =>
      (s.dieState d == 3 || (dieStacks d).any fun k => field (s.mapWord (296 + k)) 0 2 == 3 || (field (s.mapWord (296 + k)) 0 2 != 0
          && field (s.mapWord (296 + k)) 2 32 != 2 ^ 32 - 1))
        && (s.mdie d).lt.any fun e => e.2.jid == jid && decide (0 < e.2.lcnt + e.2.ecnt)

/-- The record of a suspension (R395). -/
def suspendWords (s : State) (v : Nat) : List Word :=
  [w64 (0x12 + 4 * 2 ^ 8 + s.version % 2 ^ 32 * 2 ^ 32), 0, 0, 0, 0, w64 v, w64 s.clk, 0]

/-- A job is suspended (R395). -/
def suspend (s : State) (jid cause v : Nat) : State :=
  let s := s.onJob jid fun j => { j with susp := true, cause := cause, dls := [] }
  let s := s.onSw fun w => { w with queues := w.queues.map fun q =>
    if q.2.kind = 0 ∧ q.2.jid = jid then (q.1, q.2.setState s.clk 2) else q }
  let gs := (s.sw.graphs.filter fun g => g.2.jid == jid).map (·.1)
  (gs.foldl freezeBegin s).pendRec { jid := jid, fq := (s.job jid).fq, words := suspendWords s v }

/-- Whether a job is running: it has launches outstanding or a bound graph (R393). -/
def jobRuns (s : State) (jid : Nat) : Bool := decide (0 < s.lout jid) || s.sw.graphs.any fun g => g.2.jid == jid

/-- MAPWIN; 0 acts as 1 (R389). -/
def State.mapWin (s : State) : Nat := max 1 (field (s.mapWord 1) 0 32)

/-- What a degradation does to one job (R393, R394); `lost` says that it used a lost part. A running job that is suspended already arms no
deadline (log entry 65). -/
def classJob (lost : List Nat) (v : Nat) (s : State) (jid : Nat) : State :=
  let j := s.job jid
  if !j.valid then s
  else if lost.contains jid then suspend s jid 2 v
  else if jobRuns s jid then if j.susp then s else s.onJob jid fun j => { j with dls := j.dls ++ [(v, s.clk + s.mapWin)] }
  else s.onJob jid fun j => { j with ackv := v, dls := [] }

/-- A degradation is published: units on DEAD parts end, their tiles are out of service, and every job is classed (R381, R393). -/
def publishDeg (s : State) (event item ikind : Nat) : State :=
  let s := s.advanceMap event true item ikind
  let jobs := s.sw.jobs.map (·.1)
  let lost := jobs.filter (usesLost s)
  let s := dropTiles (loseUnits s s.tileDead) s.tileDead false
  jobs.foldl (classJob lost s.version) s

/-- ACK_DEADLINE_EXPIRY: the clk after a job's deadline has begun and its ACKV is still below (R394). -/
def deadlineExpiry (s : State) (jid : Nat) : State :=
  let j := s.job jid
  match j.dls with
  | [] => s
  | (v, t) :: _ => if j.susp || !j.valid || s.clk ≤ t then s else suspend s jid 1 v

/-- ACKV rises to a version; the deadlines of versions up to it are disarmed (R394, R401). -/
def acknowledge (s : State) (jid v : Nat) : State :=
  s.onJob jid fun j => { j with ackv := v, dls := j.dls.filter fun d => decide (v < d.1) }

/-- MAPJ_SUSP_CLEAR: a write of 0 to MAPJ.SUSP (R395, R396). -/
def suspClear (s : State) (jid : Nat) : State := s.onJob jid fun j => { j with susp := false, ackv := s.version, dls := [] }

/-- MAPACK (R401). -/
def mapack (s : State) (n : Nat) (r : Req) (a : Word) : State :=
  let s := s.taken n
  let j := s.job r.jid
  let late := match j.dls with
    | (_, t) :: _ => decide (t < s.clk)
    | [] => false
  if j.susp || late then s.answerLane r (.scal 3) .dn
  else if s.version < a.toNat then s.answerLane r (.scal 2) .dn
  else if a.toNat ≤ j.ackv then s.answerLane r (.scal 1) .dn
  else (acknowledge s r.jid a.toNat).answerLane r (.scal 0) .dn

/-! ## Events (R390, R392) -/

/-- Live tiles of a kind in LIVE words. -/
def liveCount (ws : List Word) (comp : Bool) : Nat :=
  ((List.range 640).filter fun i => ((i % 32 + i / 32) % 2 == 0) == comp && field (ws.getD (i / 64) 0) (i % 64) 1 == 1).length

/-- SCANEXP of a tile (R397, R437; log entry 5). -/
def scanExpOf (s : State) (t : Nat) : Word :=
  let b := AList.getD s.sw.boot (tileDie t) {}
  if b.state = 2 then Config.scanExp b.wdig t else 0

/-- Whether a compute tile passes the pattern set of the power-on test (R435; log entry 129). -/
def bootPass (s : State) (t : Nat) : Bool := Config.bootSig t s.clk == scanExpOf s t

/-- The LIVE words that a compute die reports: its compute tiles that pass the power-on test, and its memory tiles as it says; a tile
recorded as DEAD stays out of service across a reset (R20, R390, R435). -/
def liveWords (s : State) (d : Nat) (live : List Word) : List Word :=
  let old := (List.range 10).map fun i => s.mapWord (16 + 10 * d + i)
  let test (i : Nat) : Bool := let t := 1024 * d + 32 * (i % 32) + i / 32; !isCompute t || bootPass s t
  (List.range 10).map fun i =>
    let w := (List.range 64).foldl (fun (w : Word) b => if test (64 * i + b) then w else setBit w b false) (live.getD i 0)
    if old.all (· == 0) then w else w &&& old.getD i 0

/-- A compute die's entries as it reports READY. -/
def dieEntries (s : State) (d grade : Nat) (live : List Word) : State :=
  let ws := liveWords s d live
  let s := ws.zipIdx.foldl (fun (s : State) w => s.setMapWord (16 + 10 * d + w.2) w.1) s
  s.setMapWord (2 + d) (w64 (1 + grade % 4 * 2 ^ 2 + liveCount ws true * 2 ^ 16 + liveCount ws false * 2 ^ 25))

/-- DIE_READY: a die whose firmware runs, a link or a stack reports READY: event 1 (R392, R435); CAP is the same in every stack of a die
(R389). From then on a memory die's refreshes
fall due (R407) and a link's audits (R420). -/
def dieReady (s : State) : Part → State
  | .die d grade live =>
    if 12 ≤ d ∨ s.dieState d ≠ 0 ∨ (AList.getD s.sw.boot d {}).state ≠ 2 ∨ (AList.getD s.sw.therm d {}).off ∨ !s.switchRuns then s
    else
      let s := if d < 8 then dieEntries s d grade live
        else (s.setMapWord (2 + d) (w64 (1 + grade % 4 * 2 ^ 2))).onMdie d fun c => { c with rbase := s.clk }
      (firstHt (recalcDie s d)).advanceMap 1 false (d * 2 ^ 10) 0
  | .link l lanes rate =>
    if 192 < l ∨ field (s.mapWord (linkMix l)) 0 2 ≠ 0 ∨ !s.switchRuns then s
    else
      let s := s.setMapWord (linkMix l) (linkWord 1 (min lanes (linkFull l).1) rate)
      let s := s.onSw fun w => { w with links := AList.set w.links l { AList.getD w.links l {} with last := s.clk / 4096 } }
      (if l < 160 then recalcDie s (linkDie l) else s).advanceMap 1 false l 1
  | .stack k live =>
    if 16 ≤ k ∨ field (s.mapWord (296 + k)) 0 2 ≠ 0 ∨ !s.switchRuns then s
    else
      let s := s.putMap (296 + k) 0 34 ((if live % 2 ^ 32 = 2 ^ 32 - 1 then 1 else 2) + live % 2 ^ 32 * 4)
      let s := (s.catchAll (8 + k / 4)).setCap (8 + k / 4) (2 ^ 20 - tagPages (s.mdie (8 + k / 4)).npg)
      (recalcDie s (8 + k / 4)).advanceMap 1 false (k * 2 ^ 10) 2

/-- The map records a tile as failed: its LIVE bit, the count of its kind and the die's STATE (R392). -/
def killTile (s : State) (t : Nat) : State :=
  let d := tileDie t
  let i := 32 * tileY t + tileX t
  let s := s.putMap (16 + 10 * d + i / 64) (i % 64) 1 0
  let lo := if isCompute t then 16 else 25
  recalcDie (s.putMap (2 + d) lo 9 (field (s.mapWord (2 + d)) lo 9 - 1)) d

/-- TILE_FAILURE: a tile in service fails: event 2 (R392). With the last tile its die is DEAD (R390). -/
def tileFailure (s : State) (t : Nat) : State :=
  if !isTile t || !s.dieUp (tileDie t) || !s.tileLive t then s
  else
    let s := killTile s t
    publishDeg (if s.dieUp (tileDie t) then s else withdrawDie s (tileDie t)) 2 t 0

/-- Everything that waits at a lost memory die is answered, and what it held is gone (R255). -/
def dropMemDie (s : State) (d : Nat) : State :=
  let c := s.mdie d
  let s := { s with md := AList.erase s.md d }
  let waiting := (c.slices.flatMap fun sl => (sl.2.idq ++ sl.2.df).map (·.2)) ++ c.flips |>.filter fun r => !(r.piece.acc matches .line ..)
  let s := waiting.foldl (fun (s : State) r => s.answerErr r 0x12) s
  let s := s.onSw fun w => { w with
    launch := w.launch.map fun l => { l with need := l.need.filter (· != d), ents := l.ents.filter fun e => e.1 != d }
    acqs := w.acqs.map fun a => { a with
      need := a.need.filter (· != d), ents := a.ents.filter (fun e => e.1 != d), lack := a.lack.filter fun e => e.1 != d }
    binds := w.binds.map fun b => { b with
      need := b.need.filter (· != d), ents := b.ents.filter (fun e => e.1 != d), lack := b.lack.filter fun e => e.1 != d }
    graphs := w.graphs.map fun g => (g.1, { g.2 with ents := g.2.ents.filter fun e => e.1 != d }) }
  let s := (s.sw.acqs.map fun a => a.req.id).foldl acqSettle s
  let s := (s.sw.binds.map fun b => b.req.id).foldl bindSettle s
  let done := c.inv.filterMap fun i => if s.md.any fun m => m.2.inv.any fun j => j.1 == i.1 then none else s.sw.waits.find? fun r => r.id == i.1
  done.foldl (fun (s : State) r => (s.onSw fun w => { w with waits := w.waits.filter fun x => x.id != r.id }).answerLane r .dn .dn) s

/-- DIE_LOST: event 3 (R255, R392). -/
def dieLost (s : State) (d : Nat) : State :=
  if 12 ≤ d ∨ s.dieState d = 3 then s
  else
    let s := s.putMap (2 + d) 0 2 3
    let s := (dieStacks d).foldl (fun (s : State) k => s.putMap (296 + k) 0 2 3) s
    let s := if memDies.contains d then htWithout s d else withdrawDie s d
    let s := publishDeg s 3 (d * 2 ^ 10) 0
    if memDies.contains d then dropMemDie s d else s

/-- MEMORY_DIE_BOOT_TIMEOUT: a memory die not READY 2 s after the switch die left reset is recorded DEAD (R390). -/
def bootTimeout (s : State) (d : Nat) : State :=
  if memDies.contains d && s.dieState d == 0 && decide (4800000000 ≤ s.clk) then dieLost s d else s

/-- A link is narrowed or slowed: event 6 (R392). -/
def linkNarrow (s : State) (l lanes rate : Nat) : State :=
  if 192 < l ∨ field (s.mapWord (linkMix l)) 0 2 = 3 then s
  else
    let s := s.setMapWord (linkMix l) (linkWord 2 lanes rate)
    publishDeg (if l < 160 then recalcDie s (linkDie l) else s) 6 l 1

/-- The spoke that a link is a module of: a die's, or 13 for the scale-up links; the Deuri link is none. -/
def linkSpoke (l : Nat) : Option Nat := if l < 160 then some (linkDie l) else if l < 192 then some 13 else none

/-- A module leaves its spoke's set: what is sent from now on waits until what has been sent before is delivered (R388). -/
def drainSpoke (s : State) (l : Nat) : State :=
  match linkSpoke l with
  | none => s
  | some d => s.onSw fun w => { w with drains := (w.drains.filter fun e => s.net.any fun q => decide (q.id < e.2) && s.crosses e.1 q) ++ [(d, s.reqno)] }

/-- A link is lost: event 7 (R388, R392). -/
def linkLost (s : State) (l : Nat) : State :=
  if 192 < l ∨ field (s.mapWord (linkMix l)) 0 2 = 3 then s
  else
    let s := (drainSpoke s l).setMapWord (linkMix l) (linkWord 3 0 0)
    publishDeg (if l < 160 then recalcDie s (linkDie l) else s) 7 l 1

/-- UCIE_LANE_LOST: a UCIe module retrains at 32 lanes, or is lost (R417). -/
def ucieLane (s : State) (l : Nat) (ok : Bool) : State :=
  if 160 ≤ l ∨ field (s.mapWord (linkMix l)) 0 2 = 0 then s
  else if ok then linkNarrow s l 32 (field (s.mapWord (linkMix l)) 10 8) else linkLost s l

/-- LINK_RESTORE: event 8 (R390, R392). -/
def linkRestore (s : State) (l lanes rate : Nat) : State :=
  if 192 < l ∨ field (s.mapWord (linkMix l)) 0 2 = 3 ∨ field (s.mapWord (linkMix l)) 0 2 = 0 then s
  else
    let lanes := min lanes (linkFull l).1
    let s := s.setMapWord (linkMix l) (linkWord (if (lanes, rate) = linkFull l then 1 else 2) lanes rate)
    (if l < 160 then recalcDie s (linkDie l) else s).advanceMap 8 false l 1

/-- CHANNEL_LOST: event 9 (R390, R392). -/
def channelLost (s : State) (k c : Nat) : State :=
  let w := s.mapWord (296 + k)
  if 16 ≤ k ∨ 32 ≤ c ∨ field w 0 2 = 3 ∨ field w 0 2 = 0 ∨ field w (2 + c) 1 = 0 then s
  else
    let s := s.putMap (296 + k) (2 + c) 1 0
    let s := s.putMap (296 + k) 0 2 (if field (s.mapWord (296 + k)) 2 32 = 0 then 3 else 2)
    let d := 8 + k / 4
    let s := if dieGone s d then s.putMap (2 + d) 0 2 3 else recalcDie s d
    if dieGone s d then dropMemDie (publishDeg (htWithout s d) 9 (k * 2 ^ 10 + c) 2) d else publishDeg s 9 (k * 2 ^ 10 + c) 2

/-! ## Clock grades (R392, R441) -/

/-- A grade is lowered one step: event 4; grade 3 is the floor. -/
def lowerGrade (s : State) (d : Nat) : State :=
  if 3 ≤ s.gradeOf d ∨ !s.dieUp d then s else publishDeg (s.putMap (2 + d) 2 3 (s.gradeOf d + 1)) 4 (d * 2 ^ 10) 0

/-- A grade is raised one step: event 5. -/
def raiseGrade (s : State) (d : Nat) : State :=
  if s.gradeOf d = 0 ∨ !s.dieUp d then s else (s.putMap (2 + d) 2 3 (s.gradeOf d - 1)).advanceMap 5 false (d * 2 ^ 10) 0

/-! ## Scan tests (R397, R398, R402, R403) -/

/-- Whether a compute tile is drained (R398). -/
def tileDrained (s : State) (t : Nat) : Bool :=
  let c := s.tile t
  c.frames.isEmpty && QId.all.all (fun q => (c.queue q).ents.isEmpty) && c.held.isEmpty && c.allocq.all (fun q => q.2.isEmpty)
    && c.fences.isEmpty && c.chainHold.isEmpty && c.mxIn.isEmpty && c.mxInbox.isEmpty && c.mxRun.isEmpty && c.ruOps.isEmpty
    && c.mops.isEmpty && s.outstanding t == 0

/-- WANT and WPRI of a tile that is testing: the highest PRI of the launches that hold a sheaf or frame request for a region over it
(R397). -/
def wantOf (s : State) (t : Nat) : Option Nat :=
  let ls := s.sw.launch.filter fun l => l.stage == .running && !l.stop && (match s.graph? l.gnum with
    | some g => g.st == .bound && g.regions.any fun r => l.serves r.vreg && r.covers t && r.active && r.cfg == l.cfg && s.dieUp r.die
        && (decide (l.dealt < l.rcount) || l.sheaf.any fun p => p.1 == r.vreg)
    | none => false)
  if ls.isEmpty || (s.tile t).scan.state == 0 then none else some (ls.foldl (fun n l => max n l.pri) 0)

/-- SCANGO (R402). -/
def scango (s : State) (n : Nat) (r : Req) (a : Word) : State :=
  let s := s.taken n
  let t := field a 0 14
  if field a 17 47 ≠ 0 ∨ field a 14 2 ≠ 0 ∨ !isCompute t then s.answerErr r 0x04 0 a
  else if !s.dieUp (tileDie t) || !s.tileLive t then s.answerLane r (.scal 4) (.scal 0)
  else if !tileDrained s t || (s.tile t).scan.state != 0 then s.answerLane r (.scal 5) (.scal 0)
  else s.onTile t fun c => { c with scan := { c.scan with state := 1, auto := field a 16 1 == 1, go := some r, ended := false, abtAt := 0 } }

/-- SCANABT (R403): it comes too late once the pattern set has ended. -/
def scanabt (s : State) (n : Nat) (r : Req) (a : Word) : State :=
  let s := s.taken n
  let t := field a 0 14
  if field a 14 50 ≠ 0 ∨ !isCompute t then s.answerErr r 0x04 0 a
  else if (s.tile t).scan.state = 0 then s.answerLane r (.scal 1) .dn
  else if (s.tile t).scan.ended then s.answerLane r (.scal 2) .dn
  else s.onTile t fun c => { c with scan := { c.scan with
    state := 2, abts := c.scan.abts ++ [r], abtAt := if c.scan.state = 1 then s.clk + 1 else c.scan.abtAt } }

/-- SCAN_AUTO_ABORT: a test with AUTO = 1 aborts itself when WANT becomes 1 (R402). -/
def scanAuto (s : State) (t : Nat) : State :=
  if (s.tile t).scan.state = 1 ∧ !(s.tile t).scan.ended ∧ (s.tile t).scan.auto ∧ (wantOf s t).isSome then
    s.onTile t fun c => { c with scan := { c.scan with state := 2 } }
  else s

/-- The tests that abort themselves in this clk (R402). -/
def scanAutos (s : State) : State := ((s.ct.filter fun c => c.2.scan.auto).map (·.1)).foldl scanAuto s

/-- SCAN_ABORT_RESTORE: an aborted test has restored its tile: its SCANGO emits CODE 2, each SCANABT CODE 0 (R403). -/
def scanRestore (s : State) (t : Nat) : State :=
  let c := (s.tile t).scan
  if c.state ≠ 2 then s
  else
    let s := s.onTile t fun x => { x with scan := { x.scan with state := 0, last := 3, auto := false, go := none, abts := [], abtAt := 0 } }
    let s := match c.go with
      | some r => s.answerLane r (.scal 2) (.scal 0)
      | none => s
    c.abts.foldl (fun (s : State) r => s.answerLane r (.scal 0) .dn) s

/-- The pattern set of a test ends; aborts that have arrived in the same clk come too late (R403). -/
def scanDone (s : State) (t : Nat) : State :=
  let c := (s.tile t).scan
  let s := s.onTile t fun x => { x with scan := { x.scan with state := 1, ended := true, abts := [], abtAt := 0 } }
  c.abts.foldl (fun (s : State) r => s.answerLane r (.scal 2) .dn) s

/-- SCAN_PATTERN_END: the pattern set of a test ends; at the next one the compare and restore end: the tile is back in service, or
recorded as failed (R402, R403). -/
def scanEnd (s : State) (t : Nat) : State :=
  let c := (s.tile t).scan
  if !c.ended then (if c.state = 1 ∨ (c.state = 2 ∧ c.abtAt = s.clk + 1) then scanDone s t else s)
  else
    let sig := Config.scanSig t c.done
    let pass := sig == scanExpOf s t
    let s := s.onTile t fun x => { x with scan := { x.scan with
      state := 0, last := if pass then 1 else 2, sig := sig, done := c.done + 1, auto := false, go := none, ended := false } }
    let s := match c.go with
      | some r => s.answerLane r (.scal (if pass then 0 else 1)) (.scal sig)
      | none => s
    if pass then s else tileFailure s t

end Sys2Proof.Machine
end

