-- ==== Sys2Proof/Machine/Regs.lean ====
section
/-! DEFINITION. The register map: the register that a system register address names, what a read gives, and what a plain write stores
under the access codes (R7, R29, R33, R107, R109, R141, R177 to R187, R207, R224, R244, R266, R299, R317, R340 to R342, R369, R375, R376,
R389, R396, R397, R413, R414, R434, R443). -/

namespace Sys2Proof.Machine

/-! ## Windows (R375) -/

/-- The four windows, with the tile or die. -/
inductive RegWin where
  | comp (t : Nat)
  | mtile (m : Nat)
  | mdie (d : Nat)
  | sw
deriving DecidableEq, Repr

/-- A register system address: its window and byte offset, or none where R375 is broken. -/
def sraOf (a : Word) : Option (RegWin × Nat) :=
  let d := field a 34 4
  let t := field a 24 10
  if field a 0 3 ≠ 0 ∨ field a 38 26 ≠ 0 ∨ 12 < d then none
  else if d < 8 then
    let k := d * 1024 + t
    if !isTile k then none else some (if isCompute k then .comp k else .mtile k, field a 0 24)
  else if t ≠ 0 then none
  else some (if d = 12 then .sw else .mdie d, field a 0 24)

/-- The index of an array register and the offset within its element. -/
def regIx (off base stride count : Nat) : Option (Nat × Nat) :=
  if base ≤ off ∧ off < base + stride * count then some ((off - base) / stride, (off - base) % stride) else none

/-- The registers of a scan test (R397, R453). -/
def isScanReg (off : Nat) : Bool := off == 0x8000 || off == 0x8008 || off == 0x8010

/-- Whether an access is refused with cause 0x12: a die or tile that the map records as DEAD, or a tile under test, but for the scan
registers of a tile whose die is not DEAD (R384, R453). -/
def regDead (s : State) (w : RegWin) (off : Nat) : Bool :=
  match w with
  | .comp t => if s.dieState (tileDie t) == 3 then true else !isScanReg off && (s.tileDead t || (s.tile t).testing)
  | .mtile m => s.tileDead m
  | .mdie d => s.dieState d == 3
  | .sw => false

/-! ## Words of registers -/

/-- FSSTAT (R107). -/
def CTile.fsstat (c : CTile) : Word :=
  w64 (c.freeCells + c.frames.length * 2 ^ 16 + c.allocq.foldl (fun n q => n + q.2.length) 0 * 2 ^ 32)

/-- FSCTXc (R107). -/
def CTile.fsctx (c : CTile) (n : Nat) : Word :=
  w64 (AList.getD c.quota n 8192 + c.usedOf n * 2 ^ 16 + (c.allocOf n).length * 2 ^ 32)

/-- ISTAT (R109). -/
def CTile.istat (c : CTile) : Word := w64 (16 - c.entries.length + c.loadWait.length * 2 ^ 5)

/-- ISENTn (R109). -/
def CTile.isent (c : CTile) (n : Nat) : Word :=
  match AList.get? c.entries n with
  | none => 0
  | some e => w64 (1 + e.ctx * 2 + e.blk * 2 ^ 5 + e.block.gbn * 2 ^ 9 + bit (!e.staged.isEmpty) * 2 ^ 25)

/-- LUSTAT at a clk (R141). -/
def CTile.lustat (c : CTile) (clk : Nat) : Word := w64 (c.qlane.ents.length + bit (decide (clk < c.lubusy)) * 2 ^ 7 + c.qlane.g * 2 ^ 8)

/-- RUSTAT (R207). -/
def CTile.rustat (c : CTile) : Word := w64 (c.qrow.ents.length + bit (c.ruOps.any (·.started)) * 2 ^ 6 + c.qrow.g * 2 ^ 7)

/-- Whether an operation feeds or drains: one that is halted does neither, and none begins behind it (R240, R244). -/
def CTile.mxBusy (c : CTile) : Bool := c.mxRun.any fun o => o.halt.isNone

/-- MXSTAT (R244). -/
def CTile.mxstat (c : CTile) : Word :=
  w64 (c.mxInbox.length + bit c.mxBusy * 2 ^ 2 + bit c.mxHalted * 2 ^ 3
    + ((c.halted.map fun o => o.2.msg.firing.ctx).getD 0) * 2 ^ 4)

/-- MXCB (R244). -/
def CTile.mxcb (c : CTile) : Word :=
  let a := c.tab c.cur
  let b := c.tab (1 - c.cur)
  w64 (c.cur + a.ctx * 2 + bit a.valid * 2 ^ 5 + b.ctx * 2 ^ 6 + bit b.valid * 2 ^ 10)

/-- MPSTAT (R299). -/
def mpstat (s : State) (t : Nat) : Word :=
  let c := s.tile t
  w64 (c.qport.ents.length + s.outstanding t * 2 ^ 7 + c.chainHold.length * 2 ^ 16
    + ((List.range 8).filter fun k => !(c.slot k).valid).length * 2 ^ 23)

/-- SSLOTn.Ww (R299). -/
def Slot.word (x : Slot) (w : Nat) : Word :=
  if w = 0 then w64 (bit x.valid + x.ctx * 2 + x.ch * 2 ^ 5 + (x.win - 1) * 2 ^ 7 + x.nextj * 2 ^ 32) else w64 (x.hits + x.misses * 2 ^ 32)

/-- RPC, ISC and RGEO of the region that uses a slot, at its origin compute tile (R33); elsewhere they read as zero. -/
def regionReg (s : State) (t ctx w : Nat) : Word :=
  match s.regionAt t ctx with
  | none => 0
  | some (_, _, r) =>
    if r.tileAt 0 0 ≠ t then 0
    else match w with
      | 0 => r.rpc
      | 1 => w64 r.isc
      | _ => r.rgeo

/-- SCANST (R397). -/
def scanst (s : State) (t : Nat) : Word :=
  let c := (s.tile t).scan
  w64 (c.state + bit (wantOf s t).isSome * 2 ^ 2 + (wantOf s t).getD 0 * 2 ^ 3 + c.last * 2 ^ 6 + bit c.auto * 2 ^ 8)

/-- Whether a request of a job is queued at the port of a tile (R411): in its queue or issue list, for read-ahead, or for a copy that
the tile issued and charges (R412). -/
def jobQueued (s : State) (t jid : Nat) : Bool :=
  let c := s.tile t
  let sends (fr : Firing) : Bool := (s.fieldsOf fr).any (fun p => sendsRequest p.1) && s.jobOf fr == some jid
  (c.qport.ents.any fun e => sends e.2) || (c.mops.any fun o => o.jid == jid && !o.pieces.isEmpty)
    || (c.slots.any fun p => p.2.valid && decide (p.2.nextj < p.2.count) && decide (p.2.lines.length < p.2.win) && s.jobAt t p.2.ctx == some jid)
    || ([memTileOf t 0, memTileOf t 1].any fun m => (s.mtile m).chans.any fun ch => ch.2.copies.any fun x =>
          x.firing.tile == t && x.jid == jid && decide (x.sent < x.pieces.length) && !x.cancel)

/-- BWACCTa.Ww (R414). -/
def acctWord (s : State) (t a w : Nat) : Word :=
  let n := AList.getD (s.tile t).acctw a (0, 0)
  if w ≠ 0 then w64 (n.1 + n.2 * 2 ^ 32)
  else match AList.get? (s.tile t).accts a with
    | none => 0
    | some x => w64 (x.jid + 2 ^ 12 + bit (x.active || jobQueued s t x.jid) * 2 ^ 13 + x.credit * 2 ^ 16)

/-- A register of the compute-tile window (R375). -/
def compRead (s : State) (t off : Nat) : Word :=
  let c := s.tile t
  let arr (base stride count : Nat) (g : Nat → Nat → Word) : Option Word := (regIx off base stride count).map fun p => g p.1 (p.2 / 8)
  match off with
  | 0x0000 => c.fsstat
  | 0x0008 => c.fsdisc
  | 0x0090 => c.istat
  | 0x0118 => c.lustat s.clk
  | 0x0120 => c.lufire
  | 0x0128 => c.luocc
  | 0x0130 => c.rustat
  | 0x0138 => c.ruops
  | 0x0140 => c.ruocc
  | 0x0148 => c.mxstat
  | 0x0158 => w64 c.mxhto
  | 0x0160 => c.mxcb
  | 0x0168 => c.mxops
  | 0x0170 => c.mxocc
  | 0x0280 => mpstat s t
  | 0x0288 => c.mpreq
  | 0x8000 => scanst s t
  | 0x8008 => scanExpOf s t
  | 0x8010 => c.scan.sig
  | 0x9000 => w64 (bit c.bwen)
  | _ =>
    ([arr 0x0010 8 16 (fun n _ => c.fsctx n), arr 0x0098 8 16 (fun n _ => c.isent n), arr 0x0180 0x18 2 (fun n w => (c.bank n).word w),
      arr 0x01B0 0x10 2 (fun n w => w64 (nbits (c.tab n).bits (64 * w) 64)), arr 0x0200 8 16 (fun n _ => (c.opRec n).word),
      arr 0x0290 0x10 8 (fun n w => (c.slot n).word w), arr 0x0400 0x18 16 (fun n w => regionReg s t n w),
      arr 0x0800 0x30 32 (fun n w => w64 (nbits (c.permOf (n / 2) (n % 2)) (64 * w) 64)),
      arr 0x9008 0x10 16 (fun n w => acctWord s t n w),
      arr 0x40000 64 4096 (fun n w => ((s.frame? t n).map fun x => x.header w).getD 0)].findSome? id).getD 0

/-- TTENTn.Ww (R187). -/
def tagWord (c : MTile) (n w : Nat) : Word :=
  match AList.get? c.tags n with
  | none => 0
  | some e => match w with
    | 0 => e.key
    | 1 => e.handle
    | _ => w64 (1 + e.ctx * 2 + e.stamp % 2 ^ 32 * 2 ^ 5)

/-- A 16-bit mask of the handlers that a test picks out. -/
def hndMask (c : MTile) (test : Hnd → Bool) : Nat := (List.range 16).foldl (fun n h => n + bit (test (c.handler h)) * 2 ^ h) 0

/-- CCSTn (R299): the copies accepted and not complete; the oldest is in progress. -/
def Chan.word (x : Chan) : Word :=
  w64 (x.wp + x.copies.length * 2 ^ 32 + bit (!x.copies.isEmpty) * 2 ^ 36 + x.waits.length * 2 ^ 37
    + ((x.copies.head?.map fun c => c.firing.ctx).getD 0) * 2 ^ 42)

/-- A register of the memory-tile window (R375). -/
def mtRead (s : State) (m off : Nat) : Word :=
  let c := s.mtile m
  let arr (base stride count : Nat) (g : Nat → Nat → Word) : Option Word := (regIx off base stride count).map fun p => g p.1 (p.2 / 8)
  match off with
  | 0x0000 => w64 (512 - c.owned.length + c.zpend.length * 2 ^ 10 + c.dfifo.count 512 * 2 ^ 20 + c.allocq.length * 2 ^ 30)
  | 0x0088 => w64 (hndMask c Hnd.runnable + hndMask c (·.busy) * 2 ^ 16 + c.hwait.length * 2 ^ 32 + c.hdisc * 2 ^ 37)
  | _ =>
    ([arr 0x0008 8 16 (fun n _ => w64 (AList.getD c.quota n 512 + c.usedOf n * 2 ^ 16)),
      arr 0x0090 8 16 (fun n _ => w64 (AList.getD c.hallot n 0xFFFF)), arr 0x0110 8 16 (fun n _ => w64 (AList.getD c.callot n 0xF)),
      arr 0x0190 8 4 (fun n _ => (c.chan n).word), arr 0x01B0 8 4 (fun n _ => (c.chan n).bytes),
      arr 0x0200 8 16 (fun n _ => (c.handler n).cfg), arr 0x0280 8 16 (fun n _ => (c.handler n).cnt),
      arr 0x0300 0x10 16 (fun n w => if w = 0 then (c.handler n).w0 else (c.handler n).w1),
      arr 0x10000 0x28 512 (fun n w => (c.desc n).word w), arr 0x20000 0x18 256 (fun n w => tagWord c n w)].findSome? id).getD 0

/-- LTSTAT (R266). -/
def MDie.ltstat (c : MDie) : Word :=
  w64 (c.lt.length + c.pinned * 2 ^ 17 + min c.lreq.length 1023 * 2 ^ 34 + c.pglost * 2 ^ 44)

/-- LTENTn.Ww (R266). -/
def LEnt.word (e : LEnt) (w : Nat) : Word :=
  match w with
  | 0 => w64 (1 + e.size * 2 + e.jid * 2 ^ 3 + bit e.drain * 2 ^ 15 + e.ecnt * 2 ^ 16 + e.lcnt * 2 ^ 24)
  | 1 => w64 (e.perm + e.vpage * 2 ^ 18)
  | 2 => e.w2
  | _ => e.w3

/-- BFSTAT (R317): the flips in progress, and the BIASREQs that wait, behind a flip of their page or for one of the 8 places. -/
def bfstat (s : State) (d : Nat) : Word :=
  let n := (activeFlips s d).length
  w64 (n + min ((s.mdie d).flips.length - n) 1023 * 2 ^ 4)

/-- ISCFG (R340). -/
def MDie.iscfg (c : MDie) : Word := w64 (c.npg + bit c.isbusy * 2 ^ 20 + bit c.isrej * 2 ^ 21)

/-- The registers of a home slice (R340). -/
def Slice.word (x : Slice) (w : Nat) : Word :=
  match w with
  | 0 => w64 (x.sh.length + x.df.length * 2 ^ 7 + x.idq.length * 2 ^ 13 + x.ab.length * 2 ^ 22 + bit (x.stall.isSome || x.wait.isSome) * 2 ^ 29)
  | 1 => x.atoms
  | 2 => x.busy
  | 3 => x.conts
  | 4 => x.cflts
  | _ => x.wdrs

/-- PCCNTp.Ww (R413). -/
def PChan.word (x : PChan) (w : Nat) : Word :=
  match w with
  | 0 => x.act
  | 1 => x.hit
  | 2 => x.conf
  | 3 => x.ref
  | 4 => x.rfm
  | 5 => x.boc
  | 6 => w64 (x.debt % 32).toNat
  | _ => x.alrt

/-- A register of the memory-die window (R375). -/
def mdRead (s : State) (d off : Nat) : Word :=
  let c := s.mdie d
  let arr (base stride count : Nat) (g : Nat → Nat → Word) : Option Word := (regIx off base stride count).map fun p => g p.1 (p.2 / 8)
  match off with
  | 0x0000 => c.ltstat
  | 0x0008 => c.jtbase
  | 0x0010 => w64 (c.pgq + bit c.pgen * 2 ^ 15)
  | 0x0018 => c.ltflt
  | 0x0020 => c.stwalk
  | 0x0028 => bfstat s d
  | 0x0030 => c.bfcnt
  | 0x0038 => c.bfbinv
  | 0x0040 => c.iscfg
  | 0xC000 => w64 c.rhth
  | 0xC008 => w64 c.glintv
  | 0xC010 => w64 (c.glce + c.glue * 2 ^ 32)
  | 0xC018 => w64 c.gllog
  | _ =>
    ([arr 0x1000 0x30 128 (fun n w => (c.slice n).word w), arr 0x8000 0x40 256 (fun n w => (s.pcNow d n).word w),
      arr 0x100000 32 65536 (fun n w => ((AList.get? c.lt n).map fun e => e.word w).getD 0)].findSome? id).getD 0

/-- CPSTAT (R369). -/
def cpstat (s : State) : Word :=
  let n (st : LStage) : Nat := (s.sw.launch.filter fun l => l.stage == st).length
  w64 (s.sw.launch.length + n .edges * 2 ^ 15 + n .leasing * 2 ^ 30 + min s.sw.heldp.length 511 * 2 ^ 45 + s.sw.flost * 2 ^ 54
    + s.sw.badw * 2 ^ 59)

/-- JOBn.Ww (R341). -/
def jobWord (s : State) (j w : Nat) : Word :=
  let x := s.job j
  if w = 0 then w64 (bit x.valid + bit x.sys * 2 + x.phase * 2 ^ 2 + x.fq * 2 ^ 10) else w64 (s.lout j)

/-- QCFGq.Ww (R342). -/
def Queue.word (x : Queue) (w : Nat) : Word :=
  match w with
  | 0 => w64 (x.state + x.kind * 2 ^ 2 + x.pri * 2 ^ 3 + x.dlog * 2 ^ 6 + x.jid * 2 ^ 11)
  | 1 => w64 (x.base * 2 ^ 6)
  | 2 => w64 (x.head + x.tail * 2 ^ 32)
  | 3 => w64 (bit x.dv + x.def6 * 2 ^ 6)
  | _ => w64 x.drop

/-- MAPJ.Ww of the selected job (R396). -/
def mapjWord (s : State) (w : Nat) : Word :=
  let j := s.job s.sw.jsel
  match w with
  | 0 => w64 j.ackv
  | 1 => w64 (bit j.susp + j.cause * 2 + bit (!j.dls.isEmpty) * 2 ^ 3 + (s.sw.mwaits.filter fun r => r.jid == s.sw.jsel).length * 2 ^ 4)
  | _ => w64 ((j.dls.head?.map (·.2)).getD 0)

/-- A reduction window. -/
def State.rwin (s : State) (n : Nat) : RWin := AList.getD s.sw.rwin n {}

/-- RWINn.Ww (R434). -/
def RWin.word (x : RWin) (w : Nat) : Word :=
  if w = 0 then w64 (bit x.v + bit x.act * 2 + x.jid * 2 ^ 2 + x.dev * 2 ^ 14 + x.hold * 2 ^ 24 + x.len * 2 ^ 32) else w64 x.base

/-- An edge-adder group. -/
def State.group (s : State) (g : Nat) : Xrg := AList.getD s.sw.xrg g {}

/-- XRGg (R434). -/
def Xrg.word (x : Xrg) : Word :=
  w64 (bit x.armed + x.jid * 2 ^ 2 + (distinct (x.conts.map (·.1))).foldl (fun n d => n + 2 ^ d) 0 * 2 ^ 14 + x.round * 2 ^ 22)

/-- The clk in a second, over which RFAIL counts (R421, R434). -/
def secondClk : Nat := 2400000000

/-- LKSTATn (R434). -/
def linkStat (s : State) (l : Nat) : Word :=
  let x := s.link l
  w64 (x.rsync + min ((x.fails.filter fun t => decide (s.clk < t + secondClk)).length) 255 * 2 ^ 16 + x.audit * 2 ^ 24)

/-- BOOTSTd (R443). -/
def Boot.word (x : Boot) : Word := w64 (x.state + x.reason * 2 ^ 2 + x.svn * 2 ^ 16)

/-- The temperature of a die. -/
def State.heat (s : State) (d : Nat) : Therm := AList.getD s.sw.therm d {}

/-- OVER: PWRNOW exceeds PWRCAP with every compute die in service at grade 3 (R441, R443). -/
def State.over (s : State) : Bool := decide (s.sw.pwrcap < s.sw.pwrnow) && (compUp s).all fun d => s.gradeOf d == 3

/-- Whether some scale-up link is in service (R434). -/
def scaleUp (s : State) : Bool := (List.range 32).any fun j => let st := field (s.mapWord (256 + j)) 0 2; st == 1 || st == 2

/-- A register of the switch-die window (R375). -/
def swRead (s : State) (off : Nat) : Word :=
  let w := s.sw
  let arr (base stride count : Nat) (g : Nat → Nat → Word) : Option Word := (regIx off base stride count).map fun p => g p.1 (p.2 / 8)
  match off with
  | 0x0000 => cpstat s
  | 0x0008 => w64 s.clk
  | 0x0010 => w.fltsup
  | 0x9900 => w64 w.pwrcap
  | 0x9908 => w64 (w.pwrnow + bit s.over * 2 ^ 16)
  | 0x9910 => w64 (bit w.attrep.isSome * 2 + w.attcode * 2 ^ 2 + w.attjid * 2 ^ 4)
  | 0x9918 => w64 w.attdst
  | 0xA000 => w64 w.jsel
  | 0xF000 => w64 (w.adpjid + w.adperr * 2 ^ 12)
  | 0xF028 => w64 w.hwbase
  | 0xF030 => w64 w.hwsize
  | 0xF038 => if scaleUp s then w64 w.fabid else 0
  | _ =>
    ([arr 0x8000 8 576 (fun n _ => s.mapRead n), arr 0x9800 8 13 (fun n _ => (s.fw n).word),
      arr 0x9880 8 13 (fun n _ => w64 ((s.heat n).temp + (s.heat n).max * 2 ^ 8)), arr 0x9920 8 6 (fun n _ => AList.getD w.attn n 0),
      arr 0xA008 8 3 (fun n _ => mapjWord s n), arr 0xB000 8 1024 (fun n _ => AList.getD w.share n 0),
      arr 0xD000 8 64 (fun n _ => AList.getD w.faben n 0), arr 0xD200 8 64 (fun n _ => AList.getD w.adphj n 0),
      arr 0xD400 0x10 64 (fun n k => (s.rwin n).word k), arr 0xD800 8 64 (fun n _ => (s.group n).word),
      arr 0xE000 8 193 (fun n _ => linkStat s n), arr 0xF008 8 4 (fun n _ => AList.getD w.adpap n 0),
      arr 0x10000 0x10 4096 (fun n k => jobWord s n k),
      arr 0x20000 8 4096 (fun n _ => w64 ((AList.getD w.fltj n (0, 0)).1 + (AList.getD w.fltj n (0, 0)).2 * 2 ^ 32)),
      arr 0x100000 40 32768 (fun n k => (s.queue n).word k)].findSome? id).getD 0

/-- What a read of a register gives at one instant (R7, R375); a write-only register and an unassigned offset read as zero. -/
def regRead (s : State) (w : RegWin) (off : Nat) : Word :=
  match w with
  | .comp t => compRead s t off
  | .mtile m => mtRead s m off
  | .mdie d => mdRead s d off
  | .sw => swRead s off

/-! ## Plain writes (R7) -/

/-- A write of 1 to a bit clears it (RW1C). -/
def clear1 (old v : Nat) : Nat := old - (old &&& v)

/-- A plain write in the compute-tile window. -/
def compWrite (c : CTile) (off : Nat) (v : Word) : CTile :=
  match off with
  | 0x0008 => { c with fsdisc := v }
  | 0x0120 => { c with lufire := v }
  | 0x0128 => { c with luocc := v }
  | 0x0138 => { c with ruops := v }
  | 0x0140 => { c with ruocc := v }
  | 0x0158 => { c with mxhto := field v 0 32 }
  | 0x0168 => { c with mxops := v }
  | 0x0170 => { c with mxocc := v }
  | 0x0288 => { c with mpreq := v }
  | 0x9000 => { c with bwen := field v 0 1 == 1 }
  | _ =>
    match regIx off 0x0010 8 16, regIx off 0x0290 0x10 8, regIx off 0x9008 0x10 16 with
    | some (n, _), _, _ => { c with quota := AList.set c.quota n (field v 0 14) }
    | _, some (n, 8), _ => { c with slots := AList.set c.slots n { c.slot n with hits := field v 0 32, misses := field v 32 32 } }
    | _, _, some (n, 8) => { c with acctw := AList.set c.acctw n (field v 0 32, field v 32 32) }
    | _, _, _ => c

/-- A plain write in the memory-tile window. -/
def mtWrite (c : MTile) (off : Nat) (v : Word) : MTile :=
  if off = 0x0088 then { c with hdisc := clear1 c.hdisc (field v 37 27) }
  else match regIx off 0x0008 8 16, regIx off 0x0090 8 16, regIx off 0x0110 8 16, regIx off 0x01B0 8 4 with
    | some (n, _), _, _, _ => { c with quota := AList.set c.quota n (field v 0 10) }
    | _, some (n, _), _, _ => { c with hallot := AList.set c.hallot n (field v 0 16) }
    | _, _, some (n, _), _ => { c with callot := AList.set c.callot n (field v 0 4) }
    | _, _, _, some (n, _) => c.setChan n { c.chan n with bytes := v }
    | _, _, _, _ => c

/-- A write to word w of PCCNTp. -/
def PChan.put (x : PChan) (w : Nat) (v : Word) : PChan :=
  match w with
  | 0 => { x with act := v }
  | 1 => { x with hit := v }
  | 2 => { x with conf := v }
  | 3 => { x with ref := v }
  | 4 => { x with rfm := v }
  | 5 => { x with boc := v }
  | 7 => { x with alrt := v }
  | _ => x

/-- A write to a counter of a home slice. -/
def Slice.put (x : Slice) (w : Nat) (v : Word) : Slice :=
  match w with
  | 1 => { x with atoms := v }
  | 2 => { x with busy := v }
  | 3 => { x with conts := v }
  | 4 => { x with cflts := v }
  | 5 => { x with wdrs := v }
  | _ => x

/-- A plain write in the memory-die window; RHCFG clamps its threshold (R413). -/
def mdWrite (c : MDie) (off : Nat) (v : Word) : MDie :=
  match off with
  | 0x0000 => { c with pglost := clear1 c.pglost (field v 44 8) }
  | 0x0008 => { c with jtbase := w64 (field v 15 33 * 2 ^ 15) }
  | 0x0010 => { c with pgq := field v 0 15, pgen := field v 15 1 == 1 }
  | 0x0018 => { c with ltflt := v }
  | 0x0020 => { c with stwalk := v }
  | 0x0030 => { c with bfcnt := v }
  | 0x0038 => { c with bfbinv := v }
  | 0xC000 => { c with rhth := min (max (field v 0 13) 256) 4096 }
  | 0xC008 => { c with glintv := field v 0 32 }
  | 0xC010 => { c with glce := field v 0 32, glue := field v 32 32 }
  | _ =>
    match regIx off 0x1000 0x30 128, regIx off 0x8000 0x40 256 with
    | some (n, o), _ => { c with slices := AList.set c.slices n ((c.slice n).put (o / 8) v) }
    | _, some (n, o) => { c with pcs := AList.set c.pcs n ((c.pc n).put (o / 8) v) }
    | _, _ => c

/-- The nine writable bits of each job's SHARE in a word (R414). -/
def shareMask (v : Word) : Word := w64 ((List.range 4).foldl (fun n i => n + field v (16 * i) 9 * 2 ^ (16 * i)) 0)

/-- A write to a queue's configuration but for STATE (R342): KIND, DLOG, JID and BASE only while it is CLOSED. -/
def Queue.put (x : Queue) (w : Nat) (v : Word) : Queue :=
  match w with
  | 0 =>
    let x := { x with pri := field v 3 3 }
    if x.state = 0 then { x with kind := field v 2 1, dlog := field v 6 5, jid := field v 11 12 } else x
  | 1 => if x.state = 0 then { x with base := field v 6 51 } else x
  | 3 => { x with dv := field v 0 1 == 1, def6 := field v 6 51 }
  | 4 => { x with drop := field v 0 32 }
  | _ => x

/-- A plain write to a one-word register of the switch die. -/
def swWrite1 (w : Switch) (off : Nat) (v : Word) : Switch :=
  match off with
  | 0x0000 => { w with flost := clear1 w.flost (field v 54 5), badw := clear1 w.badw (field v 59 5) }
  | 0x0010 => { w with fltsup := v }
  | 0x9900 => { w with pwrcap := min (max (field v 0 16) 3000) 8000 }
  | 0x9910 => { w with attjid := field v 4 12 }
  | 0x9918 => { w with attdst := field v 0 57 }
  | 0xA000 => { w with jsel := field v 0 12 }
  | 0xF000 => { w with adpjid := field v 0 12, adperr := field v 12 52 }
  | 0xF028 => { w with hwbase := field v 0 52 }
  | 0xF030 => { w with hwsize := field v 0 51 }
  | _ => w

/-- A plain write in the switch-die window. -/
def swWrite (s : State) (off : Nat) (v : Word) : State :=
  let arr (base stride count : Nat) (g : Nat → Nat → State) : Option State := (regIx off base stride count).map fun p => g p.1 (p.2 / 8)
  let tab (base count : Nat) (g : Nat → Switch → Switch) : Option State := arr base 8 count fun n _ => s.onSw (g n)
  if off = 0x8008 then s.putMap 1 0 32 (field v 0 32)
  else
    ([tab 0x9880 13 (fun n w => { w with therm := AList.set w.therm n { s.heat n with max := field v 8 8 } }),
      tab 0x9920 6 (fun n w => { w with attn := AList.set w.attn n v }),
      tab 0xB000 1024 (fun n w => { w with share := AList.set w.share n (shareMask v) }),
      tab 0xD000 64 (fun n w => { w with faben := AList.set w.faben n v }),
      tab 0xD200 64 (fun n w => { w with adphj := AList.set w.adphj n v }),
      tab 0xE000 193 (fun n w => { w with links := AList.set w.links n { s.link n with rsync := field v 0 16, audit := field v 24 40 } }),
      tab 0xF008 4 (fun n w => { w with adpap := AList.set w.adpap n (w64 (field v 0 1 + field v 40 17 * 2 ^ 40)) }),
      tab 0x20000 4096 (fun n w => { w with fltj := AList.set w.fltj n (field v 0 32, field v 32 32) }),
      arr 0x10000 0x10 4096 (fun n k => if k = 0 then
        s.onJob n fun j => { j with valid := field v 0 1 == 1, sys := field v 1 1 == 1, fq := field v 10 15 } else s),
      arr 0x100000 40 32768 (fun n k => s.onQueue n fun q => q.put k v)].findSome? id).getD (s.onSw fun w => swWrite1 w off v)

/-- A write that stores its value under the access codes, and does nothing more (R7, R375). -/
def plainWrite (s : State) (w : RegWin) (off : Nat) (v : Word) : State :=
  match w with
  | .comp t => s.onTile t fun c => compWrite c off v
  | .mtile m => s.onMtile m fun c => mtWrite c off v
  | .mdie d => (if off = 0xC008 then s.catchAll d else match regIx off 0x8000 0x40 256 with
      | some (n, _) => s.catchPc d n
      | none => s).onMdie d fun c => mdWrite c off v
  | .sw => swWrite s off v

end Sys2Proof.Machine
end

