-- ==== Sys2Proof/Machine/Dram.lean ====
section
/-! DEFINITION. The pseudo-channel controllers, the gleaner, bandwidth shares, PERFRD (R404 to R415). -/

namespace Sys2Proof.Machine

/-! ## Row policy, refresh and activations (R406 to R409) -/

/-- CONTROLLER_COMMAND_SELECT: pseudo-channel p of a die issues its next command, if the bus that it needs has not been granted in this
clk and is granted to it (R407 to R409). -/
def controllerSelect (s : State) (d p : Nat) : State :=
  if !(memDies.contains d && decide (p < 256) && s.dieUp d) then s
  else
    let x := s.pcNow d p
    let y := s.pcNow d (twin p)
    match x.wants s.clk with
    | none => s
    | some c =>
      let rival := (y.wants s.clk).any fun e => e.onColumn == c.onColumn
      if x.took s.clk c.onColumn || y.took s.clk c.onColumn || (rival && !grants x y (p % 2 == 0) c.onColumn) then s
      else
        let s := s.onPc d (twin p) fun y => y.passed c.onColumn rival
        s.onPc d p fun x => (x.granted s.clk c.onColumn).perform s.clk (s.mdie d).rhth c

/-- REFRESH_TICK: REFDEBT rises by one every tREFI (R407): the registers of the channel take up what has fallen due. -/
def refreshTick (s : State) (d p : Nat) : State :=
  if memDies.contains d && decide (p < 256) then s.catchPc d p else s

/-- Each bus of each channel grants one command in every clk in which one is requested (R408): the pseudo-channels with a command that
waits take their turns. -/
def busGrants (s : State) : State :=
  let ps := s.md.flatMap fun m => (m.2.pcs.filter fun p => p.2.presses).map fun p => (m.1, p.1)
  ps.foldl (fun (s : State) p => controllerSelect (controllerSelect s p.1 p.2) p.1 (twin p.2)) s

/-- Whether some bus has a command to grant in the clk to come. -/
def busBusy (s : State) : Bool := s.md.any fun m => s.dieUp m.1 && m.2.pcs.any fun p => p.2.presses

/-! ## The gleaner (R410) -/

/-- Whether the gleaner of a pseudo-channel gets a command through in a clk: none issues during a refresh or an RFM, and it loses every tie
on a bus (R407, R409, R410). -/
def gleanerTurn (s : State) (d p : Nat) : Bool :=
  let x := s.pcNow d p
  let y := s.pcNow d (twin p)
  decide (x.next ≤ s.clk) && (x.wants s.clk).isNone && (y.wants s.clk).isNone
    && !(x.took s.clk false || x.took s.clk true || y.took s.clk false || y.took s.clk true)

/-- GLEANER_READ: the gleaner of pseudo-channel p reads its next granule, which is due every INTV clk from the die's coming into service: a
correctable error is written back corrected, an uncorrectable one is logged (R410). -/
def gleanerRead (s : State) (d p : Nat) : State :=
  let c := s.mdie d
  let x := s.pcNow d p
  let cap := s.pcCap d
  let due := max x.gldue c.rbase
  if !(memDies.contains d && decide (p < 256) && s.dieUp d) || c.glintv == 0 || cap == 0 || decide (s.clk < due) || !gleanerTurn s d p then s
  else
    let n := x.glnext % cap
    let g := pcGranule p n
    let s := s.onPc d p fun x => { x with glnext := (n + 1) % cap, gldue := due + c.glintv, busR := s.clk + 1, busC := s.clk + 1 }
    if c.ue.contains g then s.onMdie d fun c => { c with glue := (c.glue + 1) % 2 ^ 32, gllog := g }
    else if c.ce.contains g then s.onMdie d fun c => { c with glce := (c.glce + 1) % 2 ^ 32, ce := c.ce.filter (· != g) }
    else s

/-- The pseudo-channels of a die with a granule in error, by whose gleaner it is read. -/
def MDie.gleanPcs (c : MDie) : List Nat := distinct ((c.ue ++ c.ce).map pcOf)

/-- The clk in which a gleaner next reads a granule with an error, or in which it may try again (R410). -/
def gleanTime (s : State) (d p : Nat) : Option Nat :=
  let c := s.mdie d
  let x := s.pcNow d p
  let due := max x.gldue c.rbase
  if c.glintv = 0 then none
  else (c.glAhead p x.glnext (s.pcCap d)).map fun n => if n = 0 then max (s.clk + 1) (max due x.next) else due + n * c.glintv

/-- The clks in which gleaners next read granules with errors. -/
def gleanTimes (s : State) : List Nat :=
  (s.md.filter fun m => s.dieUp m.1).flatMap fun m => m.2.gleanPcs.filterMap fun p => gleanTime s m.1 p

/-- The reads of granules with errors that are due in this clk, after the grants of the buses, which a gleaner loses (R410). -/
def gleanersRead (s : State) : State :=
  (s.md.flatMap fun m => m.2.gleanPcs.map fun p => (m.1, p)).foldl (fun (s : State) e =>
    if (s.mdie e.1).glAhead e.2 (s.pcNow e.1 e.2).glnext (s.pcCap e.1) = some 0 then gleanerRead s e.1 e.2 else s) s

/-! ## Bandwidth shares (R411) -/

/-- SHARE of a job; above 256 it acts as 256 (R414). -/
def State.shareOf (s : State) (jid : Nat) : Nat := min (field (AList.getD s.sw.share (jid / 4) 0) (16 * (jid % 4)) 9) 256

/-- The gain of an active account (R411). -/
def shareGain (share total n : Nat) : Nat := if 0 < total then 16384 * share / total else 16384 / n

/-- n updates of a tile's accounts, no request having come or gone between them (R411): the accounts active in the period that ends first
gain once, those with a request that waits gain in each. -/
def bandwidthGain (s : State) (t n : Nat) : State :=
  let c := s.tile t
  let act := c.accts.filter fun a => a.2.active || jobQueued s t a.2.jid
  let still := c.accts.filter fun a => jobQueued s t a.2.jid
  let gain (l : List (Nat × Acct)) (a : Nat × Acct) : Nat :=
    if l.any fun b => b.1 == a.1 then shareGain (s.shareOf a.2.jid) (l.foldl (fun n b => n + s.shareOf b.2.jid) 0) l.length else 0
  s.onTile t fun c => { c with
    bwlast := s.clk / 1024 * 1024
    accts := c.accts.map fun a => (a.1, { a.2 with
      active := still.any fun b => b.1 == a.1
      credit := if act.any fun b => b.1 == a.1 then min 32768 (a.2.credit + gain act a + (n - 1) * gain still a) else a.2.credit }) }

/-- BANDWIDTH_UPDATE: with CLKNOW a multiple of 1024 a tile adds credit to its active accounts, and a new period begins; periods that have
begun without an update are taken up with it (R411). -/
def bandwidthUpdate (s : State) (t : Nat) : State :=
  let c := s.tile t
  let n := s.clk / 1024 - c.bwlast / 1024
  if c.accts.isEmpty || n == 0 then s else bandwidthGain s t n

/-- The updates of every tile as a period begins: they come before any issue of its first clk (R412). -/
def bandwidthAll (s : State) : State :=
  ((s.ct.filter fun c => !c.2.accts.isEmpty).map (·.1)).foldl bandwidthUpdate s

/-! ## PERFRD (R415) -/

/-- What PERFRD.TILE reads: REQ, WAIT or CREDIT of the job's account, or CLKNOW. -/
def perfTile (s : State) (fr : Firing) (ev : Nat) : Word :=
  if ev = 3 then w64 s.clk
  else match s.jobOf fr with
    | none => 0
    | some j => match (s.tile fr.tile).accts.find? fun a => a.2.jid == j with
      | none => 0
      | some a =>
        let n := AList.getD (s.tile fr.tile).acctw a.1 (0, 0)
        w64 (if ev = 0 then n.1 else if ev = 1 then n.2 else a.2.credit)

/-- PERFRD.TILE (R415): read in the clk in which it issues, for the lowest lane; a poisoned lane emits its own record, every other one the
lowest lane's result, be it poison. -/
def runPerfTile (f : Fields) (s : State) : State :=
  withFiring s fun fr s =>
    let low := match poisonAt fr.ops 0 with
      | some r => LVal.pois r
      | none => .scal (perfTile s fr (xbits f.x 0 4))
    let outs := (lanesOf fr).map fun i => some (match poisonAt fr.ops i with
      | some r => LVal.pois r
      | none => low)
    (s.releaseOps fr).emit fr f.d0 fr.lb outs

/-- What PERFRD.PC reads of a pseudo-channel. -/
def PChan.perf (x : PChan) (ev : Nat) : Word :=
  if ev = 6 then BitVec.ofInt 64 x.debt else x.word ev

/-- PERFRD.PC (R415): one request, of the lowest lane; with that lane poisoned none, and each lane's result is settled when it ends. -/
def runPerfPc (f : Fields) (s : State) : State :=
  withFiring s fun fr s =>
    let va := laneWord s fr f 0 0
    let low := poisonAt fr.ops 0
    memStart (s.releaseOps fr)
      { id := 0, firing := fr, f := f, op := 0xD3, jid := 0, cnt := some .old
        pieces := if low.isSome then [] else [{ va := 0, acc := .sys 0xD3 1 va (w64 (xbits f.x 0 4)) 0 }]
        vals := match low with
          | some r => (lanesOf fr).map fun i => (i, .pois ((poisonAt fr.ops i).getD r), .dn)
          | none => (lanesOf fr).filterMap fun i => (poisonAt fr.ops i).map fun r => (i, .pois r, .dn) }

/-- The reply of PERFRD.PC gives its value to every lane that is not poisoned. -/
def perfLanes (s : State) (r : Req) (v : Word) : List (Nat × LVal × LVal) :=
  match s.opOf r with
  | none => []
  | some o => ((lanesOf o.firing).filter fun i => (poisonAt o.firing.ops i).isNone).map fun i => (i, .scal v, .dn)

/-- PERFRD.PC at the owning die. -/
def perfArrive (s : State) (n : Nat) (r : Req) (a : Word) (ev : Nat) : State :=
  let out := s.taken n
  let fail (s : State) (c : Nat) : State := s.answerVa r c a
  if vaG a then fail out 0x02
  else match ownerOf s a with
    | .error c => fail out c
    | .ok none => s
    | .ok (some d) =>
      match leaseCheck s d r.jid a .r with
      | .error c => fail (countFault out d c) c
      | .ok (pa, _) => out.answer { req := r, vals := perfLanes out r ((s.pcNow d (pcOf pa)).perf ev) }

end Sys2Proof.Machine
end

