-- ==== Sys2Proof/Machine/Fabric.lean ====
section
/-! DEFINITION. Links, the scale-up fabric, reduction windows, and the host's accesses (R309, R310, R338, R339, R417, R420 to R429, R434). -/

namespace Sys2Proof.Machine

/-! ## Free-slot counters and resyncs (R420, R421) -/

/-- The flits that a virtual channel of a link holds; a number above those of LKSTATn names a mesh link (R420). -/
def vcCap (l : Nat) : Nat := if l ≤ 192 then 32 else 16

/-- A virtual channel of a link. -/
def Link.vc (x : Link) (l v : Nat) : LinkVc := AList.getD x.vcs v { fsc := vcCap l, fr := vcCap l }

/-- Changing a link. -/
def State.onLink (s : State) (l : Nat) (g : Link → Link) : State := s.onSw fun w => { w with links := AList.set w.links l (g (s.link l)) }

/-- The check of an audit: FSC + (S_s - S_r) + (C_r - C_s) = F_r, mod 2^16 (R420). -/
def LinkVc.agrees (v : LinkVc) : Bool :=
  ((v.fsc : Int) + ((v.ss : Int) - v.sr) + ((v.cr : Int) - v.cs) - v.fr) % 2 ^ 16 == 0

/-- What a channel has carried: credits that the sender has taken, flits that it has had to send, of which each goes against a free slot and
the rest wait, flits that the receiver has taken from the link, slots that it has freed and credited. `err` is what an error of the
hardware adds to FSC. The channel stands still from now, or as it stood, while flits wait at FSC = 0 and no credit comes (R420, R421). -/
def LinkVc.carry (v : LinkVc) (cap clk cred sent got freed err : Nat) : LinkVc :=
  let cred := min cred ((v.cr + 2 ^ 16 - v.cs) % 2 ^ 16)
  let want := sent
  let sent := min want (v.fsc + cred)
  let got := min got ((v.ss + sent + 2 ^ 16 - v.sr) % 2 ^ 16)
  let freed := min freed (cap - (v.fr - got))
  let fsc := (v.fsc + cred - sent + err) % 2 ^ 16
  { fsc := fsc, ss := (v.ss + sent) % 2 ^ 16, cs := (v.cs + cred) % 2 ^ 16, sr := (v.sr + got) % 2 ^ 16, cr := (v.cr + freed) % 2 ^ 16,
    fr := v.fr - got + freed
    dry := if fsc ≠ 0 ∨ want ≤ sent then none else if cred = 0 then v.dry.orElse fun _ => some clk else some clk }

/-- A link that carries flits: not NOTREADY and not lost. Mesh links have no entry in the map. -/
def linkUp (s : State) (l : Nat) : Bool :=
  decide (192 < l) || (let st := field (s.mapWord (linkMix l)) 0 2; st == 1 || st == 2)

/-- A resync of a whole link starts (R421): it ends with every flit delivered once, in order, and every counter as at the start. -/
def startResync (s : State) (l : Nat) : State :=
  s.onLink l fun x => { x with rsync := (x.rsync + 1) % 2 ^ 16, vcs := [], sync := some s.clk, fresh := true }

/-- A resync has failed (R421): the third within 2.4 * 10^9 clk marks the link DEGRADED, which retrains at half width, or is lost if
that fails; before that the resync starts again. -/
def resyncFailed (s : State) (l : Nat) (ok : Bool) : State :=
  let recent (ts : List Nat) : List Nat := s.clk :: ts.filter fun t => decide (s.clk < t + secondClk)
  let s := s.onLink l fun x => { x with fails := recent x.fails, since := recent x.since }
  if (s.link l).since.length < 3 then startResync s l
  else
    let s := s.onLink l fun x => { x with vcs := [], sync := none, fresh := false, since := [] }
    let s := linkNarrow s l (field (s.mapWord (linkMix l)) 2 8 / 2) (field (s.mapWord (linkMix l)) 10 8)
    if ok then s else linkLost s l

/-- What the channels of a link have carried, as five numbers for each in turn. -/
def carryAll (cap clk : Nat) (vc : Nat → LinkVc) : Nat → List Word → AList LinkVc → AList LinkVc
  | v, a :: b :: c :: d :: e :: l, t =>
    carryAll cap clk vc (v + 1) l (AList.set t v
      ((vc v).carry cap clk (field a 0 16) (field b 0 16) (field c 0 16) (field d 0 16) (field e 0 16)))
  | _, _, t => t

/-- LINK_AUDIT: the audit flit of a link arrives, one in each period of 4096 clk; `flits` says what the link's channels have carried since
the last one. Any inequality is a mismatch, and starts a resync, or fails the one before it; a resync that has not finished in its
65,536 clk fails (R420, R421). `ok` tells whether a narrowed
link retrains. -/
def linkAudit (s : State) (l : Nat) (flits : List Word) (ok : Bool) : State :=
  let x := s.link l
  if !linkUp s l || decide (s.clk / 4096 ≤ x.last) then s
  else if x.sync.any fun c => decide (c + 65536 ≤ s.clk) then resyncFailed s l ok
  else
    let s := s.onLink l fun x => { x with
      audit := (x.audit + 1) % 2 ^ 40, sync := none, fresh := false, last := s.clk / 4096
      vcs := carryAll (vcCap l) s.clk (fun v => x.vc l v) 0 flits x.vcs }
    if (s.link l).vcs.all fun v => v.2.agrees then s
    else if x.fresh then resyncFailed s l ok
    else startResync s l

/-- The links of LKSTATn that are in service. -/
def upLinks (s : State) : List Nat := (List.range 193).filter (linkUp s)

/-- The audits of the periods before the present one that no LINK_AUDIT has brought: nothing has been found amiss in them (R420). A link
that resyncs sends none (R421). -/
def auditsPassed (s : State) : State :=
  let k := s.clk / 4096
  (upLinks s).foldl (fun (s : State) l =>
    let x := s.link l
    if k ≤ x.last + 1 then s
    else s.onLink l fun x => if x.sync.isSome then { x with last := k - 1 } else
      { x with audit := (x.audit + (k - 1 - x.last)) % 2 ^ 40, fresh := false, last := k - 1 }) s

/-- LINK_STALL_TIMEOUT: a channel has had flits waiting and FSC = 0 for 65,536 clk (R421). -/
def linkStall (s : State) (l : Nat) : State :=
  let x := s.link l
  if linkUp s l && x.sync.isNone && x.vcs.any fun v => v.2.dry.any fun t => decide (t + 65536 ≤ s.clk) then startResync s l else s

/-- RESYNC_TIMEOUT: a resync has not finished within 65,536 clk (R421). -/
def resyncTimeout (s : State) (l : Nat) (ok : Bool) : State :=
  match (s.link l).sync with
  | some c => if c + 65536 ≤ s.clk && linkUp s l then resyncFailed s l ok else s
  | none => s

/-! ## Reduction windows (R429, R434) -/

/-- Changing a window. -/
def State.onRwin (s : State) (n : Nat) (g : RWin → RWin) : State := s.onSw fun w => { w with rwin := AList.set w.rwin n (g (s.rwin n)) }

/-- RWIN_WRITE: a write to word w of RWINn stores its fields, clears ACT and registers the window anew (R434). -/
def rwinWrite (s : State) (n w : Nat) (v : Word) : State :=
  if 64 ≤ n then s
  else s.onRwin n fun x =>
    let x := if w = 0 then
        { x with v := field v 0 1 == 1, jid := field v 2 12, dev := field v 14 10, hold := field v 24 8, len := field v 32 32 }
      else { x with base := field v 0 40 }
    { x with act := false, pend := x.v }

/-- REDUCTION_WINDOW_ACK: every switch reached has acknowledged the registration (R429). -/
def rwinAck (s : State) (n : Nat) : State :=
  if (s.rwin n).pend && (s.rwin n).v then s.onRwin n fun x => { x with act := true, pend := false } else s

/-- Whether an address lies in an active reduction window of a job (R429). -/
def inWindow (s : State) (jid : Nat) (va : Word) : Bool :=
  s.sw.rwin.any fun x => x.2.v && x.2.act && x.2.jid == jid && x.2.dev == vaDev va
    && decide (x.2.base ≤ field va 0 40) && decide (field va 0 40 < x.2.base + 64 * x.2.len)

/-! ## Accesses to other modules (R253, R324, R428) -/

/-- What the home module answers, as the event that brings it says: the cause, or the lanes' values, a row's bytes and OUT. -/
def remoteReply (r : Req) (g : Args) : Rep :=
  let w (i : Nat) : Word := g.words.getD i 0
  let one (v0 v1 : LVal) : Rep := { req := r, vals := [(r.piece.lane, v0, v1)] }
  if [1, 2, 3, 0x0D, 0x12].contains g.v then { req := r, cause := g.v }
  else match r.piece.acc with
    | .loads l => { req := r, vals := l.zipIdx.map fun e => (e.1.1, .runv (w64 ((w e.2).toNat % 2 ^ (8 * e.1.2.2))), .dn) }
    | .stores l => { req := r, vals := l.map fun e => (e.1, .dn, .dn) }
    | .readRow n => { req := r, bytes := (g.data.getD [] ++ List.replicate n 0).take n }
    | .atom _ ty _ _ => one (.runv (atomOut ty (w 0))) .dn
    | .itake | .iread => if g.k = 2 then one (.runv 0) (outStat 2) else one (.runv (w 0)) (outStat 1)
    | .iput _ => one .dn (outStat (if g.k = 2 then 2 else 1))
    | .arrive => one (.runv (w 0)) .dn
    | .bwait _ => one (.runv (w 0)) (outStat (if g.k = 2 then 2 else 1))
    | _ => one .dn .dn

/-- What keeps a G = 1 request for this module from it (R253, R428): the cause, or none. -/
def fabricBars (s : State) (r : Req) : Option Nat :=
  if !jobBit s.sw.faben r.jid then some 0x03 else if !(s.job r.jid).valid then some 0x01 else none

/-- A G = 1 request n of the net (R253, R338, R428): it faults without FABEN; an ARED in an active window is accepted by the first
switch; one for this module comes back to it, where one with HOME 0x20 is left to HOST_WINDOW_ACCESS; any other is answered by its home
module. It waits while no scale-up link is live and while its own resyncs. -/
def fabricServe (s : State) (n : Nat) (r : Req) : State :=
  let out := s.taken n
  if !jobBit s.sw.faben r.jid then out.answerErr r 0x03
  else match r.piece.acc with
    | .ared .. =>
      if !inWindow s r.jid r.piece.va then out.answerErr r 0x03
      else if !s.fabricTakes r then s
      else (out.onSw fun w => { w with areds := w.areds ++ [r], aredAt := w.aredAt ++ [(r.id, s.clk)] }).answer { req := r }
    | _ =>
      if !s.fabricTakes r then s
      else if vaDev r.piece.va = s.sw.fabid then
        match fabricBars s r with
        | some c => out.answerErr r c
        | none => if vaHome (homeVa r.piece.va) = 0x20 then s else atOwner s n r
      else out.answer (remoteReply r s.arg)

/-- Two contributions that a switch may merge: one word, one operation, one type, one job (R339). -/
def mergeable (a b : Req) : Bool :=
  match a.piece.acc, b.piece.acc with
  | .ared k ty _, .ared k' ty' _ => k == k' && ty == ty' && a.piece.va == b.piece.va && a.jid == b.jid && !b.held
  | _, _ => false

/-- The values of a contribution. -/
def aredVals (r : Req) : List Word := match r.piece.acc with
  | .ared _ _ vs => vs
  | _ => []

/-- ARED_MERGE_FORWARD: a switch forwards contribution n merged with those of `others` that it may be merged with (R339, R429), and they
stay until they have performed: for this module the merged request sets out to its home slice; for another module the next such event
that names one of them is the home module's acknowledgement (R307; log entry 108). -/
def aredForward (s : State) (n : Nat) (others : List Nat) : State :=
  match s.sw.areds[n]? with
  | none => s
  | some r =>
    let home := vaDev r.piece.va == s.sw.fabid
    match r.piece.acc, r.held with
    | .ared k ty _, false =>
      let ix := n :: (others.eraseDups.filter fun i => i != n && ((s.sw.areds[i]?).map fun x => mergeable r x) == some true)
      let vs := ix.flatMap fun i => ((s.sw.areds[i]?).map aredVals).getD []
      let s' := ({ s with reqno := s.reqno + 1 } : State).onSw fun w => { w with
        areds := w.areds.zipIdx.map fun e => if ix.contains e.2 then { e.1 with held := true, own := s.reqno } else e.1 }
      if home then
        { s' with net := s'.net ++ [{ id := s.reqno, src := .outside, own := 0, jid := r.jid, piece := { r.piece with acc := .ared k ty vs }, place := r.place }] }
      else s'
    | _, true => if home then s else s.onSw fun w => { w with areds := w.areds.filter fun x => !(x.held && x.own == r.own) }
    | _, false => s

/-- HOLD of the window that an address lies in; 0 where none is left (R429, R434). -/
def holdOf (s : State) (r : Req) : Nat :=
  ((s.sw.rwin.find? fun x => x.2.v && x.2.jid == r.jid && x.2.dev == vaDev r.piece.va && decide (x.2.base ≤ field r.piece.va 0 40)
    && decide (field r.piece.va 0 40 < x.2.base + 64 * x.2.len)).map fun x => x.2.hold).getD 0

/-- The contributions that a switch holds, each with its place and the clk up to which it may; those ahead of a drain marker go now (R429). -/
def aredTimes (s : State) : List (Nat × Nat) :=
  s.sw.areds.zipIdx.filterMap fun r =>
    if r.1.held then none
    else if s.sw.aredGo.contains r.1.id then some (r.2, s.clk)
    else (s.sw.aredAt.find? fun e => e.1 == r.1.id).map fun e => (r.2, e.2 + holdOf s r.1)

/-- The contributions held for HOLD clk, and those that a drain marker drives out, are forwarded, merged with what they may be merged with
(R429). -/
def aredsDue (s : State) : State :=
  let s := (aredTimes s).foldl (fun (s : State) e =>
    if e.2 ≤ s.clk ∧ ((s.sw.areds[e.1]?).any fun r => !r.held) then aredForward s e.1 (List.range s.sw.areds.length) else s) s
  if s.sw.aredAt.isEmpty then s
  else s.onSw fun w => { w with aredAt := w.aredAt.filter (fun e => w.areds.any fun r => r.id == e.1 && !r.held), aredGo := [] }

/-- FABRIC_ACCESS: a G = 1 access of another module arrives; it acts in the job with its JID if that is valid and has FABEN, and is
refused to its sender otherwise (R428). -/
def fabricAccess (s : State) (f : FabReq) : State :=
  let ok := match f.acc with
    | .sys .. | .cask .. | .caddk .. => false
    | _ => true
  if !ok || vaG f.va || !(s.job f.jid).valid || !jobBit s.sw.faben f.jid then s
  else s.send .outside 0 f.jid { va := f.va, acc := f.acc } 0

/-! ## The host window (R425) -/

/-- Whether an offset of the host window lies in it (R425). -/
def inHost (s : State) (va : Word) : Bool := decide (addr (homeVa va) % 2 ^ 50 < s.sw.hwsize)

/-- Where an access to an address of the host window lands. -/
def hostAt (s : State) (va : Word) : Nat := hostAddr s.sw.hwbase + addr (homeVa va) % 2 ^ 50

/-- A plain access performs in host memory, lane by lane (R300); lanes with OFFSET at or beyond HWSIZE fail (R425). -/
def hostPerform (s : State) (r : Req) : State :=
  let p := r.piece
  let rowIn (n : Nat) : Bool := (wordCuts n (addr p.va % 8) (List.replicate n 0)).all fun c => inHost s (w64 (addr p.va / 8 * 8 + c.1))
  match p.acc with
  | .loads l =>
    let ok := l.filter fun e => inHost s e.2.1
    s.answer { req := r, cause := if ok.length = l.length then 0 else 0x03
               vals := ok.map fun e => (e.1, LVal.runv (w64 (s.readN (hostAt s e.2.1) e.2.2)), .dn) }
  | .stores l =>
    let ok := l.filter fun e => inHost s e.2.1
    (ok.foldl (fun (s : State) e => s.writeBytes (hostAt s e.2.1) e.2.2) s).answer
      { req := r, cause := if ok.length = l.length then 0 else 0x03, vals := ok.map fun e => (e.1, .dn, .dn) }
  | .readRow n => if rowIn n then s.answer { req := r, bytes := s.readBytes (hostAt s p.va) n } else s.answerErr r 0x03
  | .writeRow bs => if rowIn bs.length then (s.writeBytes (hostAt s p.va) bs).answer { req := r } else s.answerErr r 0x03
  | _ => s.answerErr r 0x03

/-- A row's piece in the host window becomes one request for each word (R300). -/
def hostSplit (s : State) (n : Nat) (r : Req) : State :=
  let ps := r.piece.split (addr r.piece.va)
  let rs := ps.zipIdx.map fun p => { r with id := s.reqno + p.2, piece := p.1, part := some r.id }
  { s with
    net := s.net.take n ++ rs ++ s.net.drop (n + 1), reqno := s.reqno + ps.length
    asm := AList.set s.asm r.id { req := r, die := 0, pa := 0, left := ps.length } }

/-- HOST_WINDOW_ACCESS: request n, with HOME 0x20 at this module, is checked and performs in host memory; `line` is what the host has
written to the access's granule since (R253, R425). -/
def hostWindow (s : State) (n : Nat) (line : Option (List Byte)) : State :=
  match s.net[n]? with
  | none => s
  | some r =>
    let g := vaG r.piece.va
    if r.isSys || vaHome (homeVa r.piece.va) != 0x20 || (g && (vaDev r.piece.va != s.sw.fabid || !s.fabricTakes r)) || earlierSame s n r || relWaits s r then s
    else if r.part.isNone && r.piece.isRow && decide (1 < (r.piece.split (addr r.piece.va)).length) then hostSplit s n r
    else
      let out := s.taken n
      match if g then fabricBars s r else none with
      | some c => out.answerErr r c
      | none =>
        if !jobBit s.sw.adphj r.jid then out.answerErr r 0x03
        else hostPerform (match line with
          | some bs => if bs.length = 64 then out.writeBytes (hostAddr s.sw.hwbase + granule (addr (homeVa r.piece.va)) % 2 ^ 50) bs else out
          | none => out) r

/-! ## The host's accesses to device memory (R423, R424) -/

/-- What a read returns to the host, and whether it is marked poisoned. -/
def State.hostReply (s : State) (bs : List Byte) (bad : Bool) : State := s.onSw fun w => { w with toHost := w.toHost ++ [(bs, bad)] }

/-- A failed host access counts in ADPERR; a read returns data marked poisoned (R424). -/
def adpError (s : State) (write : Bool) : State :=
  let s := s.onSw fun w => { w with adperr := (w.adperr + 1) % 2 ^ 52 }
  if write then s else s.hostReply [] true

/-- An access of the host through the HDM range, inside one line, at its home slice: the state after it, or none while it is held there or
at the switch die (R300, R309, R310, R329, R390, R424). -/
def hdmAccess (s : State) (a : Nat × Nat × Option (List Byte)) : Option State :=
  let (off, n, write) := a
  let ap := AList.getD s.sw.adpap (nbits off 40 2) 0
  let va := w64 (field ap 40 17 * 2 ^ 40 + off % 2 ^ 40)
  let len := min ((write.map (·.length)).getD n) (64 - off % 64)
  if field ap 0 1 = 0 then some (adpError s write.isSome)
  else if ownerWaits s s.sw.adpjid va then none
  else match tlbLocate s s.sw.adpjid va (if write.isSome then .w else .r) with
    | (.ok (.dram d pa), s) =>
      if s.lineHeld d pa len then none
      else match s.lineTake 2 d pa len, write with
        | s, some bs => some ((s.dramWrite d pa (bs.take len)).demand d pa)
        | s, none => some ((if s.abBad d pa then adpError s false else s.hostReply (s.readBytes (hbmAddr (d - 8) pa) len) false).demand d pa)
    | (.ok p, s) => some (match write with
        | some bs => p.write s (bs.take len)
        | none => match p.read s len with
          | .ok bs => s.hostReply bs false
          | .error _ => adpError s false)
    | (.error _, s) => some (adpError s write.isSome)

/-- A host access that finds its word held takes its place at the slice (R329). -/
def hdmArrive (s : State) (a : Nat × Nat × Option (List Byte)) : State :=
  let (off, n, write) := a
  let ap := AList.getD s.sw.adpap (nbits off 40 2) 0
  let va := w64 (field ap 40 17 * 2 ^ 40 + off % 2 ^ 40)
  let len := min ((write.map (·.length)).getD n) (64 - off % 64)
  match (tlbLocate s s.sw.adpjid va (if write.isSome then .w else .r)).1 with
  | .ok (.dram d pa) => if field ap 0 1 = 0 ∨ ownerWaits s s.sw.adpjid va then s else s.lineArrive d pa len false
  | _ => s

/-- The host's accesses that wait are tried in order; one waits behind an earlier one of its line. -/
def hdmServe (s : State) : State :=
  s.sw.hdm.foldl (fun (s : State) a =>
    if s.sw.hdm.any fun b => b.1 / 64 == a.1 / 64 then s.onSw fun w => { w with hdm := w.hdm ++ [a] }
    else (hdmAccess s a).getD ((hdmArrive s a).onSw fun w => { w with hdm := w.hdm ++ [a] })) (s.onSw fun w => { w with hdm := [] })

/-- HOST_HDM_ACCESS: a read of n bytes, or a write of the bytes given, at an offset of the HDM range, inside one line; it performs, or is
held with those before it (R310, R423, R424). -/
def hostHdm (s : State) (off n : Nat) (write : Option (List Byte)) : State :=
  hdmServe (s.onSw fun w => { w with hdm := w.hdm ++ [(off, n, write)] })

end Sys2Proof.Machine
end

