-- ==== Sys2Proof/Machine/Adders.lean ====
section
/-! DEFINITION. The edge adders that XRED drives (R430 to R433). -/

namespace Sys2Proof.Machine

/-- The group that X names (R431). -/
def xredGroup (f : Fields) : Nat := xbits f.x 0 6

/-- Changing a group. -/
def State.onGroup (s : State) (g : Nat) (h : Xrg → Xrg) : State := s.onSw fun w => { w with xrg := AList.set w.xrg g (h (s.group g)) }

/-- XRED.CFG sets out, one request for each lane, with its group (R431, R432); poison raises (R118). -/
def runXredCfg (f : Fields) (s : State) : State :=
  withFiring s fun fr s =>
    match firstPoison fr with
    | some (l, p, r) => (s.releaseOps fr).raisePoison fr p l r
    | none =>
      memStart (s.releaseOps fr)
        { id := 0, firing := fr, f := f, op := 0xD4, jid := 0, cnt := some .ost
          pieces := (lanesOf fr).map fun i =>
            { va := 0, lane := i, acc := .sys 0xD4 0 (laneWord s fr f 0 i) (w64 (xredGroup f)) 0 } }

/-- XRED.ADD sets out with its buffer checked (R184, R433); poison raises (R118). -/
def runXredAdd (f : Fields) (s : State) : State :=
  withFiring s fun fr s =>
    match firstPoison fr with
    | some (l, p, r) => (s.releaseOps fr).raisePoison fr p l r
    | none =>
      withHandle s fr 0 0 true false fun h =>
        memStart s
          { id := 0, firing := fr, f := f, op := 0xD4, jid := 0, cnt := some .ost
            pieces := [{ va := 0, acc := .sys 0xD4 1 h (w64 (xredGroup f)) 0 }] }

/-! ## Contributions (R433) -/

/-- The firing of a contribution. -/
def contFiring (s : State) (r : Req) : Option MemOp := s.opOf r

/-- The handle of a contribution. -/
def contHandle (r : Req) : Word := match r.piece.acc with
  | .sys _ _ h _ _ => h
  | _ => 0

/-- The elements of a buffer, row-major. -/
def bufElems (s : State) (b : Buf) : List Nat := (List.range b.rows).flatMap fun i => s.rowVals b.m b.x i

/-- A contribution streams: its elements are read row-major, and D0 leaves (R433). One whose frame is no longer LIVE stays unsent. -/
def streamCont (s : State) (c : Nat × List Nat × Req) : State × (Nat × List Nat × Req) :=
  match contFiring s c.2.2 with
  | none => (s, c)
  | some o =>
    if !c.2.1.isEmpty || !s.isLive o.firing then (s, c)
    else
      let h := contHandle c.2.2
      let b := bufOf s (tileDie o.firing.tile) h
      let s := touchAll s b
      let es := bufElems s b
      (s.emit1 o.firing o.f.d0 0 (.hand (rehandle s (tileDie o.firing.tile) h)), (c.1, es, c.2.2))

/-- The waiting contributions of dies that have none in the current round join it, the oldest of each die, and stream (R433). -/
def joinRound (s : State) (g : Nat) : State :=
  (List.range 8).foldl (fun (s : State) d =>
    let x := s.group g
    if x.conts.any fun c => c.1 == d then s
    else match x.later.zipIdx.find? fun c => c.1.1 == d with
      | none => s
      | some (c, i) =>
        let (s, c) := streamCont s c
        s.onGroup g fun x => { x with conts := x.conts ++ [c], later := dropNth x.later i }) s

/-- XRED.ADD reaches the switch die (R433): the checks in their order, then the contribution queues for its die, which holds at most 4
waiting; `stay` leaves it unsent in its round for want of adder-slot credits. -/
def xredAdd (s : State) (n : Nat) (r : Req) (h : Word) (g : Nat) (stay : Bool) : State :=
  if (contFiring s r).any fun o => decide (4 ≤ ((s.group g).later.filter fun c => c.1 == tileDie o.firing.tile).length) then s
  else
  let s := s.taken n
  match contFiring s r with
  | none => s
  | some o =>
    let d := tileDie o.firing.tile
    let x := s.group g
    let b := bufOf s d h
    let s := touchAll s b
    let fail (c : Nat) (e : Word) : State := (s.release d h).answerErr r c 0 e
    if !x.armed || x.jid != r.jid || !x.chain.contains d then fail 0x03 0
    else if tScl b.x.shape || b.fmt != (if x.int then 25 else 0) || b.rows * b.cols != x.elems then fail 0x04 0
    else match (s.mtile b.m).poison? b.d with
      | some p => fail 0x07 p.w0
      | none =>
        if stay && !(x.conts.any fun c => c.1 == d) && !(x.later.any fun c => c.1 == d) then
          s.onGroup g fun x => { x with conts := x.conts ++ [(d, [], r)] }
        else joinRound (s.onGroup g fun x => { x with later := x.later ++ [(d, [], r)] }) g

/-! ## Rounds (R433) -/

/-- Two partial sums added: RNE in FP32, or mod 2^32 (R94, R433). -/
def edgeAdd (int : Bool) (a b : Nat) : Nat :=
  if int then (a + b) % 2 ^ 32 else (writeF .f32 .rn (exSum .rn [Fmt.f32.decode a, Fmt.f32.decode b])).toNat % 2 ^ 32

/-- The sum along a chain: the first die's elements, each later die's added in flight. -/
def chainSum (int : Bool) : List (List Nat) → List Nat
  | [] => []
  | x :: l => l.foldl (fun acc y => List.zipWith (edgeAdd int) acc y) x

/-- The contributions of the current round in chain order, if every chain die has one. -/
def Xrg.inOrder (x : Xrg) : Option (List (Nat × List Nat × Req)) := x.chain.mapM fun d => x.conts.find? fun c => c.1 == d

/-- Whether a die of the chain is recorded DEAD. -/
def chainDead (s : State) (x : Xrg) : Bool := x.chain.any fun d => s.dieState d == 3

/-- Whether a contributor's frame entered ENDING before its stream was sent. -/
def contEnding (s : State) (x : Xrg) : Bool :=
  x.conts.any fun c => c.2.1.isEmpty && (match contFiring s c.2.2 with
    | some o => s.isEnding o.firing
    | none => true)

/-- Writing elements from an address up, 4 bytes each, 64 bytes at a time. -/
def writeElems : Nat → State → Nat → Nat → List Nat → Except (Nat × Nat) State
  | 0, s, _, _, _ => .ok s
  | k + 1, s, jid, va, es =>
    if es.isEmpty then .ok s
    else match jobWrite s jid (w64 va) ((es.take 16).flatMap fun e => toBytes 4 e) with
      | .error c => .error (c, va)
      | .ok s => writeElems k s jid (va + 64) (es.drop 16)

/-- Whether the words of DEST may be written now (R309, R310, R320). -/
def destGate (s : State) (x : Xrg) : State × Bool :=
  (List.range (x.elems / 16 + 1)).foldl (fun (a : State × Bool) i =>
    let n := min 64 (4 * x.elems - 64 * i)
    if a.2 && n != 0 then a.1.jobGate x.jid (w64 (addr x.dest + 64 * i)) n .w else a) (s, true)

/-- A round ends: each of its contributions is answered, ROUND advances, and waiting contributions join the next (R433). -/
def endRound (s : State) (g : Nat) (reply : State → Req → State) : State :=
  let x := s.group g
  let s := x.conts.foldl (fun (s : State) c =>
    if c.2.1.isEmpty then
      match contFiring s c.2.2 with
      | some o => reply (s.emit1 o.firing o.f.d0 0 (.hand (rehandle s (tileDie o.firing.tile) (contHandle c.2.2)))) c.2.2
      | none => s
    else reply s c.2.2) s
  joinRound (s.onGroup g fun x => { x with round := (x.round + 1) % 2 ^ 42, conts := [] }) g

/-- The status of XRED.ADD on D1. -/
def roundStatus (n : Nat) (s : State) (r : Req) : State := s.answerLane r .dn (.scal (w64 n))

/-- XRED_ROUND_COMPLETE: every chain die has contributed: what is unsent streams, the sum is written to DEST, and status 0 goes to
every contribution (R433). A write that fails gives its cause to all of them. -/
def xredComplete (s : State) (g : Nat) : State :=
  let x := s.group g
  if !x.armed || x.inOrder.isNone || chainDead s x || contEnding s x then s
  else
    let s := x.conts.zipIdx.foldl (fun (s : State) c =>
      let (s, c') := streamCont s c.1
      s.onGroup g fun x => { x with conts := setNth x.conts c.2 c' }) s
    let x := s.group g
    if contEnding s x || x.conts.any (fun c => c.2.1.isEmpty) then s
    else match x.inOrder with
      | none => s
      | some l =>
        match destGate s x with
        | (s, false) => s
        | (s, true) =>
        match writeElems (x.elems / 16 + 1) s.spend x.jid (addr x.dest) (chainSum x.int (l.map fun c => c.2.1)) with
        | .ok s => endRound s g (roundStatus 0)
        | .error (c, va) => endRound (countAt s x.jid (w64 va) c) g fun s r => s.answerVa r c (w64 va) 3

/-- The elements of a contribution: those that it has sent, or those of the buffer from which it still sends them. -/
def contElems (s : State) (c : Nat × List Nat × Req) : List Nat :=
  if !c.2.1.isEmpty then c.2.1
  else match contFiring s c.2.2 with
    | some o => bufElems s (bufOf s (tileDie o.firing.tile) (contHandle c.2.2))
    | none => []

/-- What an aborted round leaves of its sum: with a contribution of every die, sent whole or in part, each element is written or not, as a
free value says (R433). -/
def abortedSum (s : State) (x : Xrg) : State :=
  match x.inOrder with
  | none => s
  | some l =>
    let sums := chainSum x.int (l.map (contElems s))
    let pick := s.freeWords (x.elems / 64 + 1)
    sums.zipIdx.foldl (fun (s : State) e =>
      if field (pick.getD (e.2 / 64) 0) (e.2 % 64) 1 = 0 then s
      else match jobWrite s x.jid (w64 (addr x.dest + 4 * e.2)) (toBytes 4 e.1) with
        | .ok s => s
        | .error _ => s) (s.useFree (x.elems / 64 + 1))

/-- XRED_ROUND_ABORT: a contributor's frame ended before its stream was sent, or a chain die is DEAD: status 1 goes to every
contribution of the round (R433). -/
def xredAbort (s : State) (g : Nat) : State :=
  let x := s.group g
  if x.conts.isEmpty || !(chainDead s x || contEnding s x) then s
  else match destGate s x with
    | (s, false) => s
    | (s, true) => endRound (abortedSum s.spend x) g (roundStatus 1)

/-! ## XRED.CFG (R430, R432) -/

/-- The chain that a descriptor names. -/
def descChain (w0 : Word) : List Nat := (List.range (field w0 0 3 + 1)).map fun i => field w0 (32 + 4 * i) 4

/-- The conditions of R430 on a descriptor's words. -/
def descOk (s : State) (w : Nat → Word) : Bool :=
  let ch := descChain (w 0)
  let e := field (w 1) 0 19
  field (w 0) 4 28 == 0 && field (w 0) 32 32 / 2 ^ (4 * ch.length) == 0 && decide ch.Nodup && (ch.all fun d => decide (d < 8) && s.dieUp d)
    && decide (1 ≤ e) && decide (e ≤ 262144) && field (w 1) 19 45 == 0 && field (w 2) 57 7 == 0 && field (w 2) 0 6 == 0 && w 3 == 0

/-- Whether the result of a descriptor is leased with W, in every line (R430). -/
def destLeased (s : State) (jid : Nat) (dest : Word) (elems : Nat) : Bool :=
  (List.range (ceilDiv elems 16)).all fun i => locate s jid (w64 (addr dest + 64 * i)) .w matches .ok _

/-- n bytes at any address, as a job. -/
def readAny (s : State) (jid : Nat) (a : Word) (n : Nat) : Except Nat (List Byte) :=
  ((List.range n).mapM fun i => jobRead s jid (w64 (addr a + i)) 1).map List.flatten

/-- XRED.CFG acts at the switch die (R432): a descriptor off its 32-byte boundary breaks R430 as one with a bad field does. -/
def xredCfg (s : State) (n : Nat) (r : Req) (a : Word) (g : Nat) : State :=
  let s0 := s
  let s := s.taken n
  let x := s.group g
  let code (s : State) (c : Nat) : State := s.answerSys r (w64 c)
  if x.armed && x.jid != r.jid then code s 3
  else if !x.conts.isEmpty then code s 2
  else if addr a = 0 then code (s.onGroup g fun _ => {}) 0
  else match s0.jobGate r.jid a (if addr a % 32 = 0 then 32 else 8) .r with
  | (s0, false) => s0
  | (s0, true) =>
    let s := (s0.taken n).spend
    match if addr a % 32 = 0 then jobRead s r.jid a 32 else readAny s r.jid a 8 with
    | .error c => (countAt s r.jid a c).answerVa r c a
    | .ok bs =>
      let w (i : Nat) : Word := w64 (ofBytes ((bs.drop (8 * i)).take 8))
      if addr a % 32 ≠ 0 ∨ !descOk s w ∨ !destLeased s r.jid (w 2) (field (w 1) 0 19) then s.answerErr r 0x04 0 (w 0)
      else code (s.onGroup g fun _ => {
        armed := true, jid := r.jid, chain := descChain (w 0), int := field (w 0) 3 1 == 1, elems := field (w 1) 0 19, dest := w 2 }) 0

end Sys2Proof.Machine
end

