-- ==== Sys2Proof/Machine/Security.lean ====
section
/-! DEFINITION. Bring-up, firmware verification, attestation, power and heat (R21, R435 to R443). -/

namespace Sys2Proof.Machine

/-! ## Firmware (R435 to R437) -/

/-- The class of a die: 0 compute, 1 memory, 2 switch (R437). -/
def dieClass (d : Nat) : Nat := if d < 8 then 0 else if d < 12 then 1 else 2

/-- WCLASS, SVN, WDIG and body of a firmware image, by the offsets of R437. -/
def fwSvn (i : List Byte) : Nat := bytesAt i 6 2
/-- WDIG. -/
def fwDig (i : List Byte) : List Byte := (i.drop 0x10).take 48
/-- The body, WLEN bytes long. -/
def fwBody (i : List Byte) : List Byte := (i.drop 0xB10).take (bytesAt i 8 8)

/-- The REASON of the first check of R437 that an image fails; 0 when it passes all. Both signatures are over bytes 0x000 to 0x03F. -/
def imageReason (d : Nat) (i : List Byte) : Nat :=
  if bytesAt i 0 4 ≠ 0x4E574631 ∨ bytesAt i 4 2 ≠ dieClass d ∨ bytesAt i 0xB0C 4 ≠ 0 then 1
  else if !Config.ecdsaVerifies (i.take 64) ((i.drop 0x40).take 96) then 2
  else if !Config.lmsVerifies (i.take 64) ((i.drop 0xA0).take 2668) then 3
  else if fwSvn i < Config.minSvn (dieClass d) then 4
  else if fwDig i != Config.sha384 (fwBody i) then 5
  else 0

/-- What a die's verification of an image comes to: it runs it, or is refused (R436, R437). -/
def bootOf (d : Nat) (i : List Byte) : Boot :=
  match imageReason d i with
  | 0 => { state := 2, svn := fwSvn i, wdig := fwDig i }
  | n => { state := 3, reason := n }

/-- Setting the firmware of a die. -/
def State.setBoot (s : State) (d : Nat) (b : Boot) : State := s.onSw fun w => { w with boot := AList.set w.boot d b }

/-- The image of a class in the adapter's flash (R435). -/
def State.flash (s : State) (c : Nat) : List Byte := AList.getD s.sw.flash c []

/-- The adapter's flash as the input has programmed it since, for the class of a die (log entry 10). -/
def State.program (s : State) (d : Nat) (i : Option (List Byte)) : State :=
  match i with
  | some bs => s.onSw fun w => { w with flash := AList.set w.flash (dieClass d) bs }
  | none => s

/-- FIRMWARE_VERIFY: the switch die, which runs, sends a memory or compute die that has loaded none, and is not held for heat, the image
of its class, and the die verifies it; the next such event is the end of that (R435 to R437, R442, R443). -/
def firmwareVerify (s : State) (d : Nat) (i : Option (List Byte)) : State :=
  let b := s.fw d
  if 12 ≤ d ∨ s.dieState d ≠ 0 ∨ (s.heat d).off ∨ !s.switchRuns then s
  else if b.state = 0 then (s.program d i).setBoot d { state := 1, img := (s.program d i).flash (dieClass d) }
  else if b.state = 1 then s.setBoot d (bootOf d b.img)
  else s

/-! ## The Deuri link and power (R21, R435, R438, R439, R442) -/

/-- The first n bytes of a list, with zeros where it is shorter. -/
def fit (n : Nat) (bs : List Byte) : List Byte := (bs ++ List.replicate n 0).take n

/-- An LMS public key: the types LMS_SHA256_M32_H15 and LMOTS_SHA256_N32_W4, then I and root; the standard writes them with the highest
byte first (R437, R439; log entry 10). -/
def lmsKey (ir : List Byte) : List Byte := [0, 0, 0, 7, 0, 0, 0, 3] ++ fit 48 ir

/-- The part of an attestation certificate that the identity keys sign: the keys of the k-th reset, and the leaf (R439). -/
def certBody (k leaf : Nat) : List Byte :=
  toBytes 4 0x4E414331 ++ toBytes 4 leaf ++ toBytes 8 0 ++ fit 96 (Config.attestE k) ++ lmsKey (Config.attestL k) ++ toBytes 8 0

/-- The attestation certificate of the k-th reset, with a leaf of the identity tree (R438, R439). -/
def makeCert (k leaf : Nat) : List Byte :=
  let b := certBody k leaf
  b ++ fit 96 (Config.ecdsaSign Config.identityE b) ++ fit 2668 (Config.lmsSign Config.identityL leaf b) ++ toBytes 4 0

/-- The module without its volatile state, as power-off leaves it: nothing runs, and no version stands; the scratchpads read zero (R180), and
the other bytes of memory stay as they were (log entry 26). -/
def powerDown (s : State) : State :=
  { s with
    clk := 0, issuing := none, detected := [], ct := [], mt := [], md := [], net := [], asm := [], reps := [], early := [], late := []
    mem := s.mem.filter fun c => !(2 ^ 41 ≤ c.1 && c.1 < 2 ^ 41 + 2 ^ 35)
    sw := { map := [(1, 0x00075300)], flash := s.sw.flash, idleaf := s.sw.idleaf, resets := s.sw.resets, powered := false } }

/-- DEURI_LINK_TRAIN: the switch die leaves reset and verifies its own image; if it runs it, it publishes VERSION 1, with vector 0, and makes
an attestation certificate with the next leaf of the identity tree, if one is left; refused, it stays NOTREADY (R387, R427, R435, R436,
R438). -/
def deuriTrain (s : State) (i : Option (List Byte)) : State :=
  if s.sw.trained then s
  else
    let s := (powerDown s).program 12 i
    let s := (s.setBoot 12 (bootOf 12 (s.flash 2))).onSw fun w => { w with
      trained := true, powered := true, resets := w.resets + 1, map := AList.set w.map 288 0x20041 }
    if !s.switchRuns then s
    else s.onSw fun w =>
      let left := decide (w.idleaf < 2 ^ 15)
      { w with
        map := ({} : Switch).map, msi0 := 1, idleaf := w.idleaf + bit left
        cert := if left then makeCert w.resets w.idleaf else [] }

/-- DEURI_LINK_DOWN: nothing any longer keeps the switch die and the memory dies powered, nor DEAD final (R21, R390). -/
def deuriDown (s : State) : State := s.onSw fun w => { w with trained := false }

/-! ## Attestation (R440) -/

/-- The bytes of a report that its signatures cover; a die recorded DEAD runs none (R440). -/
def reportBody (s : State) : List Byte :=
  let fw := (List.range 13).map s.fw
  let dig (d : Nat) : List Byte := if (s.fw d).state = 2 ∧ s.dieState d ≠ 3 then fit 48 (s.fw d).wdig else List.replicate 48 0
  ((List.range 6).flatMap fun i => toBytes 8 (AList.getD s.sw.attn i 0).toNat) ++ toBytes 8 s.version ++ toBytes 8 s.clk
    ++ (List.range 13).flatMap dig ++ (fw.flatMap fun b => toBytes 2 b.svn) ++ toBytes 6 0

/-- A whole report. -/
def report (s : State) : List Byte :=
  let b := reportBody s
  b ++ fit 96 (Config.ecdsaSign (Config.attestE s.sw.resets) b) ++ fit 2668 (Config.lmsSign (Config.attestL s.sw.resets) s.sw.attleaf b) ++ toBytes 4 0 ++ fit 0xB80 s.sw.cert

/-- A report ends with a CODE (R440). -/
def attCode (s : State) (n : Nat) : State := s.onSw fun w => { w with attcode := n, attrep := none }

/-- The report in progress is written line by line through the system TLB, as far as its lines may be written now (R309, R310, R440). -/
def attServe : Nat → State → State
  | 0, s => s
  | k + 1, s =>
    match s.sw.attrep with
    | none => s
    | some (jid, va, bs) =>
      if bs.isEmpty then attCode s 0
      else match s.tlbGate jid va (min 64 bs.length) .w with
        | (s, false) => s
        | (s, true) => match tlbLocate s jid (w64 va) .w with
          | (.error _, s) => attCode s 1
          | (.ok p, s) =>
            attServe k ((p.write s.spend (bs.take 64)).onSw fun w => { w with attrep := some (jid, va + 64, bs.drop 64) })

/-- The lines of a report, and one step more. -/
def attFuel : Nat := 102

/-- ATTCTL_GO: a write of ATTCTL with GO = 1 sets JID, and a report is begun or refused; while one is in progress GO is ignored (R440). -/
def attctlGo (s : State) (v : Word) : State :=
  let s := s.onSw fun w => { w with attjid := field v 4 12 }
  if field v 0 1 = 0 ∨ s.sw.attrep.isSome then s
  else
    if s.sw.cert.isEmpty then attCode s 3
    else if 32768 ≤ s.sw.attleaf then attCode s 2
    else
      let bs := report s
      let s := s.onSw fun w => { w with attleaf := w.attleaf + 1 }
      if s.sw.attdst % 64 ≠ 0 then attCode s 1
      else attServe attFuel (s.onSw fun w => { w with attrep := some (w.attjid, w.attdst, bs) })

/-! ## Heat and power (R441, R442) -/

/-- Changing the temperature record of a die. -/
def State.onTherm (s : State) (d : Nat) (g : Therm → Therm) : State := s.onSw fun w => { w with therm := AList.set w.therm d (g (s.heat d)) }

/-- 10 ms and 100 ms in clk. -/
def heatStepClk : Nat := 24000000
/-- The clk of 100 ms. -/
def coolClk : Nat := 240000000
/-- The clk of 1 ms. -/
def powerClk : Nat := 2400000

/-- A die's sensor reading: TEMP and MAX (R441, R443), and since when it is hot or cool. -/
def sense (s : State) (d temp : Nat) : State :=
  let temp := min temp 255
  s.onTherm d fun h => { h with
    temp := temp, max := max h.max temp
    hot := if temp < 100 then none else h.hot
    cool := if temp < 90 ∧ s.sw.pwrnow < s.sw.pwrcap then (if h.cool.isSome then h.cool else some s.clk) else none }

/-- A compute die's grade falls one step for heat or power; in one clk it falls once (R441). -/
def stepDown (s : State) (d : Nat) : State :=
  if (s.heat d).low = some s.clk then s else (lowerGrade s d).onTherm d fun h => { h with low := some s.clk }

/-- OVERHEAT_DIE_RESET: a compute die at 110 °C is reset, and held (R442). -/
def overheatReset (s : State) (d temp : Nat) : State :=
  if 8 ≤ d ∨ temp < 110 ∨ (s.heat d).off then s
  else computeReset ((sense s d temp).onTherm d fun h => { h with off := true, hot := none }) d

/-- OVERHEAT_POWER_OFF: a memory die or the switch die at 110 °C drops the Deuri link and powers the module off (R442). -/
def overheatOff (s : State) (d temp : Nat) : State := if d < 8 ∨ 13 ≤ d ∨ temp < 110 then s else powerDown s

/-- THERMAL_THRESHOLD: a die's TEMP changes; a compute die that reaches 100 °C falls one step (R441), and any die that reaches 110 °C does
what R442 says. -/
def thermalThreshold (s : State) (d temp : Nat) : State :=
  if 13 ≤ d then s
  else if 110 ≤ temp ∧ (8 ≤ d ∨ !(s.heat d).off) then if d < 8 then overheatReset s d temp else overheatOff s d temp
  else
    let s := sense s d temp
    if d < 8 && decide (100 ≤ temp) && (s.heat d).hot.isNone then stepDown (s.onTherm d fun h => { h with hot := some s.clk }) d else s

/-- HEAT_STEP_TIMER: a further 10 ms at or above 100 °C (R441). -/
def heatStep (s : State) (d : Nat) : State :=
  match (s.heat d).hot with
  | some c => if d < 8 ∧ c + heatStepClk ≤ s.clk then stepDown (s.onTherm d fun h => { h with hot := some s.clk }) d else s
  | none => s

/-- The hottest compute die in service above grade 3, the lower number first (R441). -/
def hottest (s : State) : Option Nat :=
  leastBy (fun a b => decide ((s.heat b).temp < (s.heat a).temp)) ((compUp s).filter fun d => decide (s.gradeOf d < 3))

/-- POWER_CAP_TIMER: PWRNOW over the last 1 ms: above the cap the hottest die falls one step (R441). -/
def powerCap (s : State) (w : Nat) : State :=
  if (s.sw.pwrhot.map fun c => decide (s.clk < c + powerClk)) = some true then s
  else
    let w := w % 2 ^ 16
    let s := s.onSw fun x => { x with pwrnow := w, pwrhot := some s.clk }
    let s := (List.range 8).foldl (fun (s : State) d => sense s d (s.heat d).temp) s
    if w ≤ s.sw.pwrcap then s else (hottest s).elim s (stepDown s)

/-- Whether a grade has been lowered in this clk. -/
def State.lowered (s : State) : Bool := (List.range 8).any fun d => (s.heat d).low == some s.clk

/-- A raise of grade that is due: 100 ms below 90 °C with the module below its cap. In a clk with a lowering only that is published, and
the time begins anew (R441; log entry 130). -/
def gradeDue (s : State) (d : Nat) : State :=
  match (s.heat d).cool with
  | some c =>
    if d < 8 ∧ c + coolClk ≤ s.clk then
      let t := s.onTherm d fun h => { h with cool := some s.clk }
      if s.lowered then t else raiseGrade t d
    else s
  | none => s

/-- GRADE_RAISE_TIMER: a raise of grade, as the last thing of its clk (R441). -/
def gradeRaise (s : State) (d : Nat) : State := if s.agenda.head?.any fun h => h.dt == 0 then s else gradeDue s d

/-- COMPUTE_DIE_COOLED: a die so held falls below 90 °C and may leave reset (R442). -/
def dieCooled (s : State) (d temp : Nat) : State :=
  if !(s.heat d).off || decide (90 ≤ temp) then s else (sense s d temp).onTherm d fun h => { h with off := false }

end Sys2Proof.Machine
end

