-- ==== Sys2Proof/Machine/SysReg.lean ====
section
/-! DEFINITION. Writes that do more than store, SYSRD, SYSWR and the host's register accesses (R7, R240, R334, R342, R376, R384, R396, R423,
R434, R443). -/

namespace Sys2Proof.Machine

/-- A write to CDRST resets every die that a bit of it names, the lowest first (R376). -/
def cdrstWrite (s : State) (v : Word) : State :=
  (List.range 8).foldl (fun (s : State) d => if field v d 1 = 1 then computeReset s d else s) s

/-- A write to MXCTL: ABORT wins over RESUME (R240). -/
def mxctlWrite (s : State) (t : Nat) (v : Word) : State :=
  if field v 1 1 = 1 then mxAbort s t true else if field v 0 1 = 1 then mxResume s t (field v 2 1 == 1) else s

/-- A write to word 0 of a queue's configuration: its fields, then STATE (R342). -/
def qcfgWrite (s : State) (q : Nat) (v : Word) : State := stateWrite (s.onQueue q fun x => x.put 0 v) q (field v 0 2)

/-- A write to PWRCAP: the cap, and with it whether the module is below it (R441, R443). -/
def capWrite (s : State) (v : Word) : State :=
  let s := swWrite s 0x9900 v
  (List.range 8).foldl (fun (s : State) d => sense s d (s.heat d).temp) s

/-- A write to a register in the switch-die window (R376, R396, R434, R443). -/
def swPut (s : State) (off : Nat) (v : Word) : State :=
  match off with
  | 0x0018 => cdrstWrite s v
  | 0x9900 => capWrite s v
  | 0x9910 => attctlGo s v
  | 0xA010 => if field v 0 1 = 0 then suspClear s s.sw.jsel else s
  | _ =>
    match regIx off 0xD400 0x10 64, regIx off 0x100000 40 32768 with
    | some (n, o), _ => rwinWrite s n (o / 8) v
    | _, some (q, 0) => qcfgWrite s q v
    | _, _ => swWrite s off v

/-- A write of a register, with all that it does (R7). -/
def regWrite (s : State) (w : RegWin) (off : Nat) (v : Word) : State :=
  match w with
  | .comp t => if off = 0x0150 then mxctlWrite s t v else plainWrite s w off v
  | .mdie d => if off = 0x0040 then iscfgWrite s d v else plainWrite s w off v
  | .sw => swPut s off v
  | .mtile _ => plainWrite s w off v

/-- SYSRD and SYSWR reach their register (R384, R453). -/
def sysArrive (s : State) (n : Nat) (r : Req) (write : Bool) (a v : Word) : State :=
  let s := s.taken n
  match sraOf a with
  | none => s.answerErr r 0x04 0 a
  | some (w, off) =>
    if regDead s w off then s.answerErr r 0x12
    else if write then (regWrite s w off v).answerLane r .dn .dn
    else s.answerLane r (.scal (regRead s w off)) .dn

/-- REGISTER_WRITE: a write that only stores (R7); that of PWRCAP moves what is measured against it (R441). -/
def registerWrite (s : State) (a v : Word) : State :=
  match sraOf a with
  | none => s
  | some (w, off) => if regDead s w off then s else if w = .sw ∧ off = 0x9900 then capWrite s v else plainWrite s w off v

/-- HOST_BAR0_ACCESS: a read or a write of 8 bytes by the host, as SYSRD or SYSWR; where they would be refused a write is discarded and a
read returns all ones (R423). -/
def hostBar0 (s : State) (a : Word) (v : Option Word) : State :=
  match (sraOf a).filter fun p => !regDead s p.1 p.2, v with
  | some (w, off), some v => regWrite s w off v
  | some (w, off), none => s.hostReply (toBytes 8 (regRead s w off).toNat) false
  | none, some _ => s
  | none, none => s.hostReply (List.replicate 8 255) false

end Sys2Proof.Machine
end

