-- ==== Sys2Proof/Machine/Service.lean ====
section
/-! DEFINITION. A request reaches the place where it performs: a home slice, the switch die, a memory die, another module (R253, R259,
R300, R320, R359, R384, R425, R428). -/

namespace Sys2Proof.Machine

/-- A request of groups 0xC, 0xD and 0xE at the unit that serves it, by opcode and SUB. -/
def sysServe (s : State) (n : Nat) (r : Req) (op sub : Nat) (a b c : Word) : State :=
  match op with
  | 0xC0 => pushArrive s n r false a b c
  | 0xC1 => qpop s n r a b
  | 0xC2 => qcnt s n r a
  | 0xC3 => pushArrive s n r true a b c
  | 0xC7 => cntrd s n r sub a
  | 0xC8 => cancel s n r sub a
  | 0xCA => qctl s n r sub a
  | 0xD2 => biasArrive s n r sub a
  | 0xD3 => perfArrive s n r a b.toNat
  | 0xD4 => if sub = 0 then xredCfg s n r a b.toNat else xredAdd s n r a b.toNat s.arg.flag
  | 0xE1 => sysArrive s n r false a 0
  | 0xE2 => sysArrive s n r true a b
  | 0xE3 => freezeArrive s n r a
  | 0xE4 => thawArrive s n r a b
  | 0xE6 => maprd s n r sub a
  | 0xE7 => mapack s n r a
  | 0xE8 => scango s n r a
  | 0xE9 => scanabt s n r a
  | 0xEA => lease s n r (sub == 1) a b
  | 0xEB => if sub = 0 then bindArrive s n r a b else unbindArrive s n r a
  | 0xEC => tlbinv s n r sub a b
  | _ => s.taken n

/-- HOME_SLICE_PERFORM: request n of the net performs where it belongs, unless an earlier one of its port to its granule has yet to
perform, its release set has, or a snoop holds it (R275, R305, R320, R426). A release at .HOST or .FABRIC scope first sends its flush to
the adapter; the next such event is its return (R307; log entry 99). One with HOME 0x20 is left to HOST_WINDOW_ACCESS. -/
def homePerform (s : State) (n : Nat) : State :=
  match s.net[n]? with
  | none => s
  | some r =>
    if r.held || earlierSame s n r || relWaits s r then s
    else match relFlush s r with
      | some (t, id) => s.onTile t fun c => c.onMop id fun o => { o with flush := true }
      | none => match r.piece.acc with
        | .sys op sub a b c => sysServe s n r op sub a b c
        | _ =>
          if vaG r.piece.va && r.src != .outside then fabricServe s n r
          else if vaHome (homeVa r.piece.va) = 0x20 then s
          else atOwner s n r

end Sys2Proof.Machine
end

