-- ==== Sys2Proof/Machine/Issue.lean ====
section
/-! DEFINITION. Issue: which entry a ready queue issues, the chain-hold buffer, results leaving the lane unit (R30, R34, R36, R100, R139,
R179, R226, R273, R278, R280, R291, R297, R313, R433). -/

namespace Sys2Proof.Machine

/-! ## Eligibility (R30, R36) -/

/-- The counter in which an instruction counts from its issue (R30). DUP counts only the increment that it sends, for a handle with more
than one destination (R122). PERFRD counts in OLD, .TILE too, which is done where it executes (R415). -/
def issueCnt (fr : Firing) (op : Nat) (f : Fields) : Option Cnt :=
  if op == 0x01 then (if fr.handles.isEmpty || decide ((dupDests f).length < 2) then none else some .oto)
  else if [0x0D, 0x90, 0x92, 0x94, 0xBA, 0xBC, 0xC2, 0xC6, 0xC7, 0xD3, 0xE1, 0xE6].contains op then some .old
  else if 0x50 ≤ op && op < 0x90 then some .oto
  else if 0xA0 ≤ op && op < 0xA5 then some .ocp
  else if op < 0x90 || op == 0x96 || op == 0x97 || op == 0xC9 || op == 0xD0 || op == 0xD1 || op == 0xE0 || op == 0xE5 then none
  else some .ost

/-- How many operations a firing counts: one for each lane in the groups of R458. -/
def countOf (fr : Firing) (op : Nat) : Nat := if (0x50 ≤ op && op < 0x90) || (0xA0 ≤ op && op < 0xB0) then fr.rl else 1

/-- The memory tile at the far end of a neighbour queue (R171). -/
def linkTile (t : Nat) (q : QId) : Nat := memTileOf t (if q = .nbv then 1 else 0)

/-- The entries of the port's issue list: the operations with requests left (R273). -/
def CTile.issueList (c : CTile) : Nat := (c.mops.filter fun o => !o.pieces.isEmpty).length

/-- The contributions of one die to a group that wait, those on their way and those that its ports have still to send among them (R433). -/
def addsWaiting (s : State) (die g : Nat) : Nat :=
  let mine (a : AccOp) : Bool := match a with
    | .sys op sub _ b _ => op == 0xD4 && sub == 1 && b.toNat == g
    | _ => false
  (((s.group g).later.filter fun c => c.1 == die).length)
    + (s.net.filter fun r => r.src.die == some die && mine r.piece.acc).length
    + ((s.ct.filter fun c => tileDie c.1 == die).flatMap fun c => c.2.mops.flatMap fun o => o.pieces.filter fun p => mine p.acc).length

/-- Whether the list or queue that an instruction takes a place in has room (R36); TALLOC and TVIEW ask for a place for each lane (log
entry 137). -/
def issueRoom (s : State) (fr : Firing) (q : QId) (op : Nat) (f : Fields) : Bool :=
  let c := s.tile fr.tile
  let m := s.mtile (linkTile fr.tile q)
  match op with
  | 0x07 | 0x09 | 0x0A => decide ((c.allocOf fr.ctx).length < 16)
  | 0x50 | 0x54 => decide (m.allocq.length + fr.rl ≤ 32)
  | 0x70 => decide (m.hwait.length < 16)
  | 0xA0 | 0xA1 => decide ((m.chan (ccOf f)).copies.length + (m.cin.filter fun x => ccOf x.f == ccOf f).length < 8)
  | 0xA3 => decide ((m.chan (ccOf f)).waits.length < 16) && (m.chan (ccOf f)).wq.isEmpty
  | 0xD0 | 0xD1 => decide (c.fences.length < 16)
  | 0xD4 => f.sub != 1 || decide (addsWaiting s (tileDie fr.tile) (xredGroup f) < 4)
  | _ => true

/-- Whether a fired entry of a queue is eligible (R36, R377). -/
def eligible (s : State) (q : QId) (fr : Firing) (op : Nat) (f : Fields) : Bool :=
  let c := s.tile fr.tile
  s.isLive fr && !s.frozenAt fr.tile fr.ctx
    && (match s.frameOf fr, if q == .mat then some .oto else issueCnt fr op f with
        | some x, some k => decide (x.cnt k + countOf fr op ≤ 255)
        | _, _ => true)
    && (q == .mat || issueRoom s fr q op f)
    && (!isChained op f || s.isNext fr f)
    && (q != .port || op == 0xD0 || op == 0xD1 || decide (c.issueList < 64))
    && (q != .mat || (c.mxIn.isEmpty && !c.mxHalted))

/-! ## Occupancy of the lane unit (R139) -/

/-- The operation width: that of TY, and for a conversion the larger of the source and target widths (R139, R162). -/
def opWidth (op : Nat) (f : Fields) : Nat :=
  let x := f.x.toNat
  let target := if x ≥ 0x20 then (Ty.ofCode (x % 16)).width else if x = 0x19 then 64 else if x < 2 then 32 else 16
  if 0x40 ≤ op ∧ op ≤ 0x45 then max f.ty.width target else f.ty.width

/-- The clk for which a firing occupies the lane unit: its passes times the occupancy of its class (R139). An operation width
above 32, va among them, takes the passes of 64 bits (log entry 136). -/
def laneOccupancy (op : Nat) (f : Fields) (rl : Nat) : Nat :=
  let w := opWidth op f
  let p := if w ≤ 32 then ceilDiv rl 32 else ceilDiv rl 16
  let wide (n m : Nat) : Nat := if w ≤ 32 then n else m
  if op < 0x10 ∨ 0x4A < op then p
  else if op == 0x12 || op == 0x13 || op == 0x14 then p * wide 1 2
  else if op == 0x15 || op == 0x16 then p * (w / 4)
  else if (0x30 ≤ op && op ≤ 0x35) || op == 0x2B || (0x41 ≤ op && op ≤ 0x45) then p * wide 1 2
  else if op == 0x38 || op == 0x39 || op == 0x3C || op == 0x3D then p * 2
  else if op == 0x3A || op == 0x3B then p * wide 2 4
  else if op == 0x3E || op == 0x3F then p * (if w ≤ 16 then 8 else wide 12 28)
  else if op == 0x46 || op == 0x47 then p + 1
  else p

/-! ## Issue (R36) -/

/-- An entry of a ready queue as a candidate: its block's priority, its age, BLK, IX, LB. -/
def candidate (s : State) (q : QId) (e : Nat × Firing) : Option (Firing × Nat × List Nat) :=
  match s.blockOf e.2, s.fieldsOf e.2 with
  | some b, some (op, f) => if eligible s q e.2 op f then some (e.2, b.pri, [e.1, e.2.blk, e.2.ix, e.2.lb]) else none
  | _, _ => none

/-- The priority of an entry that waits in a ready queue, whether or not a rule holds it. -/
def waitingPri (s : State) (e : Nat × Firing) : Option Nat := (s.blockOf e.2).map (·.pri)

/-- The clk for which a firing of the lane queue occupies the lane unit. -/
def laneClk (s : State) (fr : Firing) : Nat := ((s.fieldsOf fr).map fun p => laneOccupancy p.1 p.2 fr.rl).getD 0

/-- A firing issues: it takes the next serial, and is what the next step executes. -/
def issueFiring (s : State) (fr : Firing) : State := { s with issuing := some { fr with ser := s.opno }, opno := s.opno + 1 }

/-- The first entry of a list with a firing is removed. -/
def dropFiring (fr : Firing) : List (Nat × Firing) → List (Nat × Firing)
  | [] => []
  | e :: l => if e.2 = fr then l else e :: dropFiring fr l

/-- READY_QUEUE_ISSUE: a queue of a tile issues the entry that R36 selects. The multiplication that follows a CPYM goes to the array's
inbox at once (R296). The lane queue issues only in a clk in which the lane unit is not occupied, and its firing then occupies the unit
(R139). -/
def queueIssue (s : State) (t : Nat) (q : QId) : State :=
  let r := (s.tile t).queue q
  match select36 r.g (r.ents.filterMap (waitingPri s)) (r.ents.filterMap (candidate s q)) with
  | none => s
  | some (fr, g) =>
    if q = .lane ∧ s.clk < (s.tile t).lubusy then s
    else
    let s := s.onTile t fun c =>
      (if q = .lane then { c with lufire := c.lufire + 1, lubusy := s.clk + laneClk s fr } else c).setQueue q
        { ents := dropFiring fr r.ents, g := g }
    match s.fieldsOf fr with
    | some (0xA1, f) =>
      if q = .mat then
        s.onTile t fun c => { c with mxIn := c.mxIn ++ [{ firing := fr, f := { f with sub := 0, x := 0, kc := false }, lane := 0, bad := poisonAt fr.ops 0 }] }
      else issueFiring s fr
    | _ => issueFiring s fr

/-- CHAIN_HOLD_RELEASE: the oldest entry of the chain-hold buffer that is next issues (R278, R280). -/
def chainRelease (s : State) (t : Nat) : State :=
  match (s.tile t).chainHold.zipIdx.find? fun e => match s.fieldsOf e.1 with
    | some (op, f) => eligible s .port e.1 op f
    | none => false with
  | none => s
  | some (fr, i) => issueFiring (s.onTile t fun c => { c with chainHold := dropNth c.chainHold i }) fr

/-! ## Results of the lane unit (R139, R140) -/

/-- LANE_RESULT_EMIT: the n-th result leaves the lane unit; tokens of a frame that is no longer LIVE are discarded and counted (R105,
R140). -/
def laneResultEmit (s : State) (t n : Nat) : State :=
  match (s.tile t).laneOut[n]? with
  | none => s
  | some ks =>
    let s := s.onTile t fun c => { c with laneOut := dropNth c.laneOut n }
    ks.foldl State.deliverOwn s

/-! ## Events of several parts -/

/-- What an instruction or event comes to. -/
abbrev Result := Host.Outcome State Fault Refusal

/-- LEASE_REQUEST_SERVE, and the RELOC.BINDs that have then got every lease (R262, R270). -/
def leaseRequestServe (s : State) (d : Nat) : State :=
  let s := leaseServe s d
  (s.sw.binds.filter fun b => b.need.isEmpty).foldl (fun (s : State) b => bindSettle s b.req.id) s

/-- DIE_READY; with a scale-up link the FS-1024 writes the module's number (R392, R428). -/
def partReady (s : State) : State :=
  let t := dieReady s s.arg.part
  match s.arg.part with
  | .link l _ _ => if 160 ≤ l ∧ l < 192 ∧ t != s then t.onSw fun w => { w with fabid := s.arg.n % 1024 } else t
  | _ => t

/-- The lines that the host writes back at a flip to device bias: each offset in the page with its 64 bytes (R316). -/
def flipLines (g : Args) : List (Nat × List Byte) :=
  g.words.zipIdx.map fun w => (w.1.toNat, ((g.data.getD []).drop (64 * w.2)).take 64)

end Sys2Proof.Machine
end

