-- ==== Sys2Proof/Machine/LaneOps.lean ====
section
/-! DEFINITION. The meanings of groups 0x1 to 0x4: the lane unit (R139 to R170), each over the shared operations. -/

namespace Sys2Proof.Machine

/-- ADD (R146). -/
def execAdd (f : Fields) (s : State) : Result := .next (runLanes f (addV f) s)

/-- SUB (R146). -/
def execSub (f : Fields) (s : State) : Result := .next (runLanes f (subV f) s)

/-- MUL (R146). -/
def execMul (f : Fields) (s : State) : Result := .next (runLanes f (mulV f) s)

/-- MULH (R146). -/
def execMulh (f : Fields) (s : State) : Result := .next (runLanes f (mulhV f) s)

/-- MAD (R146). -/
def execMad (f : Fields) (s : State) : Result := .next (runLanes f (madV f) s)

/-- DIV (R147). -/
def execDiv (f : Fields) (s : State) : Result := .next (runLanes f (divV f) s)

/-- REM (R147). -/
def execRem (f : Fields) (s : State) : Result := .next (runLanes f (remV f) s)

/-- MIN (R148). -/
def execMin (f : Fields) (s : State) : Result := .next (runLanes f (minV f) s)

/-- MAX (R148). -/
def execMax (f : Fields) (s : State) : Result := .next (runLanes f (maxV f) s)

/-- ABS (R148). -/
def execAbs (f : Fields) (s : State) : Result := .next (runLanes f (absV f) s)

/-- NEG (R148). -/
def execNeg (f : Fields) (s : State) : Result := .next (runLanes f (negV f) s)

/-- ADDX (R149). -/
def execAddx (f : Fields) (s : State) : Result := .next (runLanes f (addxV f) s)

/-- LEA (R150). -/
def execLea (f : Fields) (s : State) : Result := .next (runLanes f (leaV f) s)

/-- CLZ (R151). -/
def execClz (f : Fields) (s : State) : Result := .next (runLanes f (clzV f) s)

/-- POPC (R151). -/
def execPopc (f : Fields) (s : State) : Result := .next (runLanes f (popcV f) s)

/-- BREV (R151). -/
def execBrev (f : Fields) (s : State) : Result := .next (runLanes f (brevV f) s)

/-- AND (R152). -/
def execAnd (f : Fields) (s : State) : Result := .next (runLanes f (andV f) s)

/-- OR (R152). -/
def execOr (f : Fields) (s : State) : Result := .next (runLanes f (orV f) s)

/-- XOR (R152). -/
def execXor (f : Fields) (s : State) : Result := .next (runLanes f (xorV f) s)

/-- NOT (R152). -/
def execNot (f : Fields) (s : State) : Result := .next (runLanes f (notV f) s)

/-- SHL (R153). -/
def execShl (f : Fields) (s : State) : Result := .next (runLanes f (shlV f) s)

/-- SHR (R153). -/
def execShr (f : Fields) (s : State) : Result := .next (runLanes f (shrV f) s)

/-- SHA (R153). -/
def execSha (f : Fields) (s : State) : Result := .next (runLanes f (shaV f) s)

/-- ROT (R153). -/
def execRot (f : Fields) (s : State) : Result := .next (runLanes f (rotV f) s)

/-- BFX (R154). -/
def execBfx (f : Fields) (s : State) : Result := .next (runLanes f (bfxV f) s)

/-- BFI (R154). -/
def execBfi (f : Fields) (s : State) : Result := .next (runLanes f (bfiV f) s)

/-- CMP (R155). -/
def execCmp (f : Fields) (s : State) : Result := .next (runLanes f (cmpV f) s)

/-- FCMP (R155). -/
def execFcmp (f : Fields) (s : State) : Result := .next (runLanes f (fcmpV f) s)

/-- PLOG (R156). -/
def execPlog (f : Fields) (s : State) : Result := .next (runLanes f (plogV f) s)

/-- FADD (R157). -/
def execFadd (f : Fields) (s : State) : Result := .next (runLanes f (faddV f) s)

/-- FSUB (R157). -/
def execFsub (f : Fields) (s : State) : Result := .next (runLanes f (fsubV f) s)

/-- FMUL (R157). -/
def execFmul (f : Fields) (s : State) : Result := .next (runLanes f (fmulV f) s)

/-- FFMA (R157). -/
def execFfma (f : Fields) (s : State) : Result := .next (runLanes f (ffmaV f) s)

/-- FMIN (R158). -/
def execFmin (f : Fields) (s : State) : Result := .next (runLanes f (fminV f) s)

/-- FMAX (R158). -/
def execFmax (f : Fields) (s : State) : Result := .next (runLanes f (fmaxV f) s)

/-- FABS (R158). -/
def execFabs (f : Fields) (s : State) : Result := .next (runLanes f (fabsV f) s)

/-- FNEG (R158). -/
def execFneg (f : Fields) (s : State) : Result := .next (runLanes f (fnegV f) s)

/-- RCPA (R160). -/
def execRcpa (f : Fields) (s : State) : Result := .next (runLanes f (rcpaV f) s)

/-- RSQA (R160). -/
def execRsqa (f : Fields) (s : State) : Result := .next (runLanes f (rsqaV f) s)

/-- RCPR (R161). -/
def execRcpr (f : Fields) (s : State) : Result := .next (runLanes f (rcprV f) s)

/-- RSQR (R161). -/
def execRsqr (f : Fields) (s : State) : Result := .next (runLanes f (rsqrV f) s)

/-- EXPA (R160). -/
def execExpa (f : Fields) (s : State) : Result := .next (runLanes f (expaV f) s)

/-- LOGA (R160). -/
def execLoga (f : Fields) (s : State) : Result := .next (runLanes f (logaV f) s)

/-- FSQRT (R159). -/
def execFsqrt (f : Fields) (s : State) : Result := .next (runLanes f (fsqrtV f) s)

/-- FDIV (R159). -/
def execFdiv (f : Fields) (s : State) : Result := .next (runLanes f (fdivV f) s)

/-- CVTII (R163). -/
def execCvtii (f : Fields) (s : State) : Result := .next (runLanes f (cvtiiV f) s)

/-- CVTIF (R163). -/
def execCvtif (f : Fields) (s : State) : Result := .next (runLanes f (cvtifV f) s)

/-- CVTFI (R163). -/
def execCvtfi (f : Fields) (s : State) : Result := .next (runLanes f (cvtfiV f) s)

/-- CVTFF (R164). -/
def execCvtff (f : Fields) (s : State) : Result := .next (runLanes f (cvtffV f (seedOf s f false)) s)

/-- PACKN (R165). -/
def execPackn (f : Fields) (s : State) : Result := .next (runLanes f (packnV f (seedOf s f true)) s)

/-- UNPKN (R165). -/
def execUnpkn (f : Fields) (s : State) : Result := .next (runLanes f (unpknV f) s)

/-- RUNRED (R167). -/
def execRunred (f : Fields) (s : State) : Result := .next (runRun f (runredO f) s)

/-- RUNSCAN (R167). -/
def execRunscan (f : Fields) (s : State) : Result := .next (runRun f (runscanO f) s)

/-- RUNSHF (R168). -/
def execRunshf (f : Fields) (s : State) : Result := .next (runRun f (runshfO f (shfFill s f)) s)

/-- RUNBC (R169). -/
def execRunbc (f : Fields) (s : State) : Result := .next (runRun f (runbcO f) s)

/-- LANE (R170). -/
def execLane (f : Fields) (s : State) : Result := .next (runLane f s)

end Sys2Proof.Machine
end

