-- ==== Sys2Proof/Machine/MemoryEvents.lean ====
section
/-! DEFINITION. The meanings of what happens at the memory ports, the copy channels and the home slices, each over the shared operations. -/

namespace Sys2Proof.Machine

/-- CHAIN_HOLD_RELEASE (R278). -/
def execChainHoldRelease (s : State) : Result := .next (chainRelease s s.arg.tile)

/-- MEMORY_PORT_ISSUE (R273). -/
def execMemoryPortIssue (s : State) : Result := .next (portIssue s s.arg.tile)

/-- HOME_SLICE_PERFORM (R320). -/
def execHomeSlicePerform (s : State) : Result := .next (homePerform s s.arg.n)

/-- MEMORY_REPLY_ARRIVE (R277). -/
def execMemoryReplyArrive (s : State) : Result := .next (replyArrive s s.arg.tile s.arg.n)

/-- STREAM_READAHEAD_FETCH (R281). -/
def execStreamReadaheadFetch (s : State) : Result := .next (readAhead s s.arg.tile s.arg.n)

/-- STREAM_READAHEAD_REPLY (R283). -/
def execStreamReadaheadReply (s : State) : Result := .next (readAheadReply s s.arg.tile s.arg.n)

/-- COPY_ACCEPT (R292). -/
def execCopyAccept (s : State) : Result := .next (copyAccept s s.arg.tile s.arg.n)

/-- COPY_REQUEST_ISSUE (R293). -/
def execCopyRequestIssue (s : State) : Result := .next (copyIssue s s.arg.tile)

/-- COPY_REPLY_LAND (R292). -/
def execCopyReplyLand (s : State) : Result := .next (copyLand s s.arg.tile s.arg.n)

/-- CPYM_MMA_DELIVER (R296). -/
def execCpymMmaDeliver (s : State) : Result := .next (cpymDeliver s s.arg.tile s.arg.n)

/-- FENCE_RELEASE (R314). -/
def execFenceRelease (s : State) : Result := .next (fenceRelease false s s.arg.tile s.arg.n)

/-- WAITC_RELEASE (R315). -/
def execWaitcRelease (s : State) : Result := .next (fenceRelease true s s.arg.tile s.arg.n)

/-- BIAS_FLIP_COMPLETE (R316). -/
def execBiasFlipComplete (s : State) : Result := .next (biasComplete s s.arg.die s.arg.n s.arg.k (flipLines s.arg))

/-- DEFERRED_CONTINUATION_RETRY (R329). -/
def execDeferredContinuationRetry (s : State) : Result := .next (if s.arg.flag then lineDrop s s.arg.die s.arg.n else contRetry s s.arg.die s.arg.n)

/-- SHUTTLE_DRAIN (R330). -/
def execShuttleDrain (s : State) : Result := .next (shuttleDrain s s.arg.die s.arg.k s.arg.n)

/-- SHUTTLE_PUSH (R330). -/
def execShuttlePush (s : State) : Result := .next (shuttlePush s s.arg.die s.arg.k s.arg.n)

/-- REQUEST_WITHDRAWAL (R337). -/
def execRequestWithdrawal (s : State) : Result := .next (withdrawAny s s.arg.n)

/-- ISCFG_WRITE (R334). -/
def execIscfgWrite (s : State) : Result := .next (iscfgWrite s s.arg.die s.arg.w)

/-- ISCFG_CLEAR_DONE (R334). -/
def execIscfgClearDone (s : State) : Result := .next (iscfgClearDone s s.arg.die)

/-- LEASE_REQUEST_SERVE (R262). -/
def execLeaseRequestServe (s : State) : Result := .next (leaseRequestServe s s.arg.die)

/-- LAUNCH_ADMIT (R262). -/
def execLaunchAdmit (s : State) : Result := .next (launchAdmit s s.arg.n)

/-- TLBINV_DRAIN_COMPLETE (R265). -/
def execTlbinvDrainComplete (s : State) : Result := .next (tlbinvComplete s s.arg.die s.arg.n)

end Sys2Proof.Machine
end

