-- ==== Sys2Proof/Machine/MemoryOps.lean ====
section
/-! DEFINITION. The meanings of groups 0x9 to 0xB: memory nodes, copies, home-slice operations (R273 to R340), each over the shared operations. -/

namespace Sys2Proof.Machine

/-- LD (R289). -/
def execLd (f : Fields) (s : State) : Result := .next (runLd f s)

/-- ST (R289). -/
def execSt (f : Fields) (s : State) : Result := .next (runSt f s)

/-- LDT (R285). -/
def execLdt (f : Fields) (s : State) : Result := .next (runTileNode 0x92 true f s)

/-- STT (R285). -/
def execStt (f : Fields) (s : State) : Result := .next (runTileNode 0x93 false f s)

/-- LDG (R285). -/
def execLdg (f : Fields) (s : State) : Result := .next (runGather 0x94 true f s)

/-- STG (R285). -/
def execStg (f : Fields) (s : State) : Result := .next (runGather 0x95 false f s)

/-- REGION_OPEN (R281). -/
def execRegionOpen (f : Fields) (s : State) : Result := .next (runRegionOpen f s)

/-- REGION_CLOSE (R282). -/
def execRegionClose (f : Fields) (s : State) : Result := .next (runRegionClose f s)

/-- ORD (R287). -/
def execOrd (f : Fields) (s : State) : Result := .next (runOrd f s)

/-- CPY_IN (R295). -/
def execCpyIn (f : Fields) (s : State) : Result := .next (runCopy 0xA0 f s)

/-- CPY_OUT (R295). -/
def execCpyOut (f : Fields) (s : State) : Result := .next (runCopy 0xA0 f s)

/-- CPYM (R296). -/
def execCpym (f : Fields) (s : State) : Result := .next (runCopy 0xA1 f s)

/-- CPYWP (R297). -/
def execCpywp (f : Fields) (s : State) : Result := .next (runCpywp f s)

/-- CPYWAIT (R297). -/
def execCpywait (f : Fields) (s : State) : Result := .next (runCpywait f s)

/-- CPYCAN (R298). -/
def execCpycan (f : Fields) (s : State) : Result := .next (runCpycan f s)

/-- AADD (R325). -/
def execAadd (f : Fields) (s : State) : Result := .next (runAtom 0xB0 .add f s)

/-- AFADD (R325). -/
def execAfadd (f : Fields) (s : State) : Result := .next (runAtom 0xB1 .fadd f s)

/-- AMIN (R325). -/
def execAmin (f : Fields) (s : State) : Result := .next (runAtom 0xB2 .min f s)

/-- AMAX (R325). -/
def execAmax (f : Fields) (s : State) : Result := .next (runAtom 0xB3 .max f s)

/-- ALOG (R325). -/
def execAlog (f : Fields) (s : State) : Result :=
  .next (runAtom 0xB4 (if varOf f = 0 then .and else if varOf f = 1 then .or else .xor) f s)

/-- AXCH (R325). -/
def execAxch (f : Fields) (s : State) : Result := .next (runAtom 0xB5 .xch f s)

/-- ACAS (R325). -/
def execAcas (f : Fields) (s : State) : Result := .next (runAtom 0xB6 .cas f s)

/-- AINC (R325). -/
def execAinc (f : Fields) (s : State) : Result := .next (runAtom 0xB7 (if varOf f = 0 then .incWrap else .incSat) f s)

/-- ACASK (R328). -/
def execAcask (f : Fields) (s : State) : Result := .next (runCont 0xB8 false f s)

/-- AADDK (R328). -/
def execAaddk (f : Fields) (s : State) : Result := .next (runCont 0xB9 true f s)

/-- ITAKE (R336). -/
def execItake (f : Fields) (s : State) : Result := .next (runHome 0xBA .old (fun _ _ _ => .itake) f s)

/-- IPUT (R336). -/
def execIput (f : Fields) (s : State) : Result := .next (runHome 0xBB .ost (fun s fr i => .iput (laneWord s fr f 1 i)) f s)

/-- IREAD (R336). -/
def execIread (f : Fields) (s : State) : Result := .next (runHome 0xBC .old (fun _ _ _ => .iread) f s)

/-- ICLR (R336). -/
def execIclr (f : Fields) (s : State) : Result := .next (runHome 0xBD .ost (fun _ _ _ => .iclr) f s)

/-- ARED (R338). -/
def execAred (f : Fields) (s : State) : Result := .next (runAred f s)

end Sys2Proof.Machine
end

