-- ==== Sys2Proof/Machine/ModuleEvents.lean ====
section
/-! DEFINITION. The meanings of what happens in the memory channels, on the links, at the host, in power and security, each over the shared operations. -/

namespace Sys2Proof.Machine

/-- ARED_MERGE_FORWARD (R429). -/
def execAredMergeForward (s : State) : Result := .next (aredForward s s.arg.n (s.arg.words.map (·.toNat)))

/-- REDUCTION_WINDOW_ACK (R429). -/
def execReductionWindowAck (s : State) : Result := .next (rwinAck s s.arg.n)

/-- REFRESH_TICK (R407). -/
def execRefreshTick (s : State) : Result := .next (refreshTick s s.arg.die s.arg.n)

/-- CONTROLLER_COMMAND_SELECT (R407). -/
def execControllerCommandSelect (s : State) : Result := .next (controllerSelect s s.arg.die s.arg.n)

/-- GLEANER_READ (R410). -/
def execGleanerRead (s : State) : Result := .next (gleanerRead s s.arg.die s.arg.n)

/-- BANDWIDTH_UPDATE (R411). -/
def execBandwidthUpdate (s : State) : Result := .next (bandwidthUpdate s s.arg.tile)

/-- LINK_AUDIT (R420). -/
def execLinkAudit (s : State) : Result := .next (linkAudit s s.arg.n s.arg.words s.arg.flag)

/-- LINK_STALL_TIMEOUT (R421). -/
def execLinkStallTimeout (s : State) : Result := .next (linkStall s s.arg.n)

/-- RESYNC_TIMEOUT (R421). -/
def execResyncTimeout (s : State) : Result := .next (resyncTimeout s s.arg.n s.arg.flag)

/-- HOST_BAR0_ACCESS (R423). -/
def execHostBar0Access (s : State) : Result := .next (hostBar0 s s.arg.w s.arg.words.head?)

/-- HOST_HDM_ACCESS (R424). -/
def execHostHdmAccess (s : State) : Result := .next (hostHdm s s.arg.n s.arg.k s.arg.data)

/-- HOST_WINDOW_ACCESS (R425). -/
def execHostWindowAccess (s : State) : Result := .next (hostWindow s s.arg.n s.arg.data)

/-- FABRIC_ACCESS (R428). -/
def execFabricAccess (s : State) : Result := .next (fabricAccess s s.arg.fab)

/-- XRED_ROUND_COMPLETE (R433). -/
def execXredRoundComplete (s : State) : Result := .next (xredComplete s s.arg.n)

/-- XRED_ROUND_ABORT (R433). -/
def execXredRoundAbort (s : State) : Result := .next (xredAbort s s.arg.n)

/-- DEURI_LINK_TRAIN (R435). -/
def execDeuriLinkTrain (s : State) : Result := .next (deuriTrain s s.arg.data)

/-- FIRMWARE_VERIFY (R437). -/
def execFirmwareVerify (s : State) : Result := .next (firmwareVerify s s.arg.die s.arg.data)

/-- ATTCTL_GO (R440). -/
def execAttctlGo (s : State) : Result := .next (attctlGo s s.arg.w)

/-- THERMAL_THRESHOLD (R441). -/
def execThermalThreshold (s : State) : Result := .next (thermalThreshold s s.arg.die s.arg.v)

/-- HEAT_STEP_TIMER (R441). -/
def execHeatStepTimer (s : State) : Result := .next (heatStep s s.arg.die)

/-- POWER_CAP_TIMER (R441). -/
def execPowerCapTimer (s : State) : Result := .next (powerCap s s.arg.v)

/-- GRADE_RAISE_TIMER (R441). -/
def execGradeRaiseTimer (s : State) : Result := .next (gradeRaise s s.arg.die)

/-- OVERHEAT_DIE_RESET (R442). -/
def execOverheatDieReset (s : State) : Result := .next (overheatReset s s.arg.die s.arg.v)

/-- OVERHEAT_POWER_OFF (R442). -/
def execOverheatPowerOff (s : State) : Result := .next (overheatOff s s.arg.die s.arg.v)

/-- RWIN_WRITE (R434). -/
def execRwinWrite (s : State) : Result := .next (rwinWrite (rwinWrite s s.arg.n 1 s.arg.w2) s.arg.n 0 s.arg.w)

/-- UCIE_LANE_LOST (R417). -/
def execUcieLaneLost (s : State) : Result := .next (ucieLane s s.arg.n s.arg.flag)

/-- HOST_SNOOP_RESPONSE (R426). -/
def execHostSnoopResponse (s : State) : Result := .next (snoopResponse s s.arg.n s.arg.data)

/-- COMPUTE_DIE_COOLED (R442). -/
def execComputeDieCooled (s : State) : Result := .next (dieCooled s s.arg.die s.arg.v)

end Sys2Proof.Machine
end

