-- ==== Sys2Proof/Machine/QueueEvents.lean ====
section
/-! DEFINITION. The meanings of what happens at the switch die: queues, launches, faults, freezing, the resource map, each over the shared operations. -/

namespace Sys2Proof.Machine

/-- QUEUE_PUSH_APPLY (R345). -/
def execQueuePushApply (s : State) : Result := .next (pushApply s s.arg.n)

/-- HOST_QUEUE_PUSH (R347). -/
def execHostQueuePush (s : State) : Result := .next (hostPush s s.arg.n (s.arg.data.getD []) (addr s.arg.w))

/-- HELD_LAUNCH_PUSH (R364). -/
def execHeldLaunchPush (s : State) : Result := .next (heldPush s s.arg.n)

/-- CARD_POP (R349). -/
def execCardPop (s : State) : Result := .next (cardPop s)

/-- SHEAF_DEAL (R352). -/
def execSheafDeal (s : State) : Result := .next (sheafDeal s s.arg.n s.arg.k)

/-- LAUNCH_COMPLETE (R357). -/
def execLaunchComplete (s : State) : Result := .next (launchComplete s s.arg.n)

/-- INSTRUCTION_FAULT (R372). -/
def execInstructionFault (s : State) : Result := .next (instructionFault s)

/-- FAULT_RECORD_DELIVERY (R374). -/
def execFaultRecordDelivery (s : State) : Result := .next (recordDeliver s s.arg.n)

/-- FREEZE_WAVE_COMPLETE (R377). -/
def execFreezeWaveComplete (s : State) : Result := .next (waveComplete s s.arg.n)

/-- COMPUTE_DIE_RESET (R381). -/
def execComputeDieReset (s : State) : Result := .next (computeReset s s.arg.die)

/-- DIE_READY (R392). -/
def execDieReady (s : State) : Result := .next (partReady s)

/-- TILE_FAILURE (R392). -/
def execTileFailure (s : State) : Result := .next (tileFailure s s.arg.tile)

/-- DIE_LOST (R392). -/
def execDieLost (s : State) : Result := .next (dieLost s s.arg.die)

/-- MEMORY_DIE_BOOT_TIMEOUT (R390). -/
def execMemoryDieBootTimeout (s : State) : Result := .next (bootTimeout s s.arg.die)

/-- LINK_RESTORE (R392). -/
def execLinkRestore (s : State) : Result := .next (linkRestore s s.arg.n s.arg.k s.arg.v)

/-- CHANNEL_LOST (R392). -/
def execChannelLost (s : State) : Result := .next (channelLost s s.arg.n s.arg.k)

/-- ACK_DEADLINE_EXPIRY (R394). -/
def execAckDeadlineExpiry (s : State) : Result := .next (deadlineExpiry s s.arg.n)

/-- MAPJ_SUSP_CLEAR (R396). -/
def execMapjSuspClear (s : State) : Result := .next (suspClear s s.arg.n)

/-- SCAN_PATTERN_END (R402). -/
def execScanPatternEnd (s : State) : Result := .next (scanEnd s s.arg.tile)

/-- SCAN_AUTO_ABORT (R402). -/
def execScanAutoAbort (s : State) : Result := .next (scanAuto s s.arg.tile)

/-- SCAN_ABORT_RESTORE (R403). -/
def execScanAbortRestore (s : State) : Result := .next (scanRestore s s.arg.tile)

/-- QCFG_STATE_WRITE (R342). -/
def execQcfgStateWrite (s : State) : Result := .next (stateWrite s s.arg.n s.arg.v)

end Sys2Proof.Machine
end

