-- ==== Sys2Proof/Machine/SystemOps.lean ====
section
/-! DEFINITION. The meanings of groups 0xC to 0xE: queues, barriers, ordering, system instructions (R312 to R316, R359 to R369, R382 to R403, R431 to R433), each over the shared operations. -/

namespace Sys2Proof.Machine

/-- CFGNEXT (R138). -/
def execCfgnext (_ : Fields) (s : State) : Result := .next (runCfgnext s)

/-- CFGLOAD (R138). -/
def execCfgload (f : Fields) (s : State) : Result := .next (runCfgload f s)

/-- QPUSH (R361). -/
def execQpush (f : Fields) (s : State) : Result := .next (runSys 0xC0 .ost true f s)

/-- QPOP (R362). -/
def execQpop (f : Fields) (s : State) : Result := .next (runSys 0xC1 .ost true f s)

/-- QCNT (R363). -/
def execQcnt (f : Fields) (s : State) : Result := .next (runSys 0xC2 .old false f s)

/-- LAUNCH (R364). -/
def execLaunch (f : Fields) (s : State) : Result := .next (runSys 0xC3 .ost true f s)

/-- BINIT (R366). -/
def execBinit (f : Fields) (s : State) : Result :=
  .next (runBarrier 0xC4 .ost false (fun s fr i => .binit (laneWord s fr f 1 i)) f s)

/-- ARRIVE (R366). -/
def execArrive (f : Fields) (s : State) : Result := .next (runBarrier 0xC5 .ost (f.sub != 3) (fun _ _ _ => .arrive) f s)

/-- BWAIT (R366). -/
def execBwait (f : Fields) (s : State) : Result :=
  .next (runBarrier 0xC6 .old false (fun s fr i => .bwait (laneWord s fr f 1 i)) f s)

/-- CNTRD (R367). -/
def execCntrd (f : Fields) (s : State) : Result := .next (runSys 0xC7 .old false f s)

/-- CANCEL (R368). -/
def execCancel (f : Fields) (s : State) : Result := .next (runSys 0xC8 .ost true f s)

/-- QCTL_FREEZE (R365). -/
def execQctlFreeze (f : Fields) (s : State) : Result := .next (runSys 0xCA .ost true f s)

/-- QCTL_THAW (R365). -/
def execQctlThaw (f : Fields) (s : State) : Result := .next (runSys 0xCA .ost true f s)

/-- QCTL_DRAIN (R365). -/
def execQctlDrain (f : Fields) (s : State) : Result := .next (runSys 0xCA .ost true f s)

/-- QCTL_CLOSE (R365). -/
def execQctlClose (f : Fields) (s : State) : Result := .next (runSys 0xCA .ost true f s)

/-- FENCE (R314). -/
def execFence (f : Fields) (s : State) : Result := .next (runFence false f s)

/-- WAITC (R315). -/
def execWaitc (f : Fields) (s : State) : Result := .next (runFence true f s)

/-- BIASREQ (R316). -/
def execBiasreq (f : Fields) (s : State) : Result := .next (runBiasreq f s)

/-- PERFRD_TILE (R415). -/
def execPerfrdTile (f : Fields) (s : State) : Result := .next (runPerfTile f s)

/-- PERFRD_PC (R415). -/
def execPerfrdPc (f : Fields) (s : State) : Result := .next (runPerfPc f s)

/-- XRED_CFG (R432). -/
def execXredCfg (f : Fields) (s : State) : Result := .next (runXredCfg f s)

/-- XRED_ADD (R433). -/
def execXredAdd (f : Fields) (s : State) : Result := .next (runXredAdd f s)

/-- TRAP_END (R383). -/
def execTrapEnd (f : Fields) (s : State) : Result := .next (runTrap false f s)

/-- TRAP_LOG (R383). -/
def execTrapLog (f : Fields) (s : State) : Result := .next (runTrap true f s)

/-- SYSRD (R384). -/
def execSysrd (f : Fields) (s : State) : Result := .next (runSys 0xE1 .old false f s)

/-- SYSWR (R384). -/
def execSyswr (f : Fields) (s : State) : Result := .next (runSys 0xE2 .ost true f s)

/-- FREEZE (R385). -/
def execFreeze (f : Fields) (s : State) : Result := .next (runSys 0xE3 .ost true f s)

/-- THAW (R386). -/
def execThaw (f : Fields) (s : State) : Result := .next (runSys 0xE4 .ost true f s)

/-- MAPRD_WORD (R400). -/
def execMaprdWord (f : Fields) (s : State) : Result := .next (runSys 0xE6 .old false f s)

/-- MAPRD_WAIT (R400). -/
def execMaprdWait (f : Fields) (s : State) : Result := .next (runSys 0xE6 .old false f s)

/-- MAPACK (R401). -/
def execMapack (f : Fields) (s : State) : Result := .next (runSys 0xE7 .ost true f s)

/-- SCANGO (R402). -/
def execScango (f : Fields) (s : State) : Result := .next (runSys 0xE8 .ost true f s)

/-- SCANABT (R403). -/
def execScanabt (f : Fields) (s : State) : Result := .next (runSys 0xE9 .ost true f s)

/-- LEASE_ACQ (R269). -/
def execLeaseAcq (f : Fields) (s : State) : Result := .next (runSys 0xEA .ost true f s)

/-- LEASE_REL (R269). -/
def execLeaseRel (f : Fields) (s : State) : Result := .next (runSys 0xEA .ost true f s)

/-- RELOC_BIND (R270). -/
def execRelocBind (f : Fields) (s : State) : Result := .next (runSys 0xEB .ost true f s)

/-- RELOC_UNBIND (R271). -/
def execRelocUnbind (f : Fields) (s : State) : Result := .next (runSys 0xEB .ost true f s)

/-- TLBINV_RANGE (R272). -/
def execTlbinvRange (f : Fields) (s : State) : Result := .next (runSys 0xEC .ost true f s)

/-- TLBINV_JOB (R272). -/
def execTlbinvJob (f : Fields) (s : State) : Result := .next (runSys 0xEC .ost true f s)

end Sys2Proof.Machine
end

