-- ==== Sys2Proof/Machine/TileEvents.lean ====
section
/-! DEFINITION. The meanings of what happens in the compute tiles and memory tiles, each over the shared operations. -/

namespace Sys2Proof.Machine

/-- TOKEN_ARRIVAL (R26). -/
def execTokenArrival (s : State) : Result := .next (tokenArrival s s.arg.tile s.arg.n)

/-- HELD_FIRING_ENTER_QUEUE (R34). -/
def execHeldFiringEnterQueue (s : State) : Result := .next (heldEnter s s.arg.tile)

/-- READY_QUEUE_ISSUE (R36). -/
def execReadyQueueIssue (s : State) : Result := .next (queueIssue s s.arg.tile s.arg.q)

/-- LANE_RESULT_EMIT (R139). -/
def execLaneResultEmit (s : State) : Result := .next (laneResultEmit s s.arg.tile s.arg.n)

/-- FRAME_REQUEST_GRANT (R100). -/
def execFrameRequestGrant (s : State) : Result := .next (frameGrant s s.arg.tile)

/-- FRAME_BECOMES_LIVE (R102). -/
def execFrameBecomesLive (s : State) : Result := .next (frameLive s s.arg.tile s.arg.n)

/-- FRAME_RETURN_FREE (R104). -/
def execFrameReturnFree (s : State) : Result := .next (frameReturn s s.arg.tile s.arg.n)

/-- CONFIG_TRANSITION (R110). -/
def execConfigTransition (s : State) : Result := .next (configTransition s s.arg.n s.arg.k)

/-- CONFIG_BLOCK_FETCHED (R113). -/
def execConfigBlockFetched (s : State) : Result := .next (blockFetched s s.arg.n s.arg.k s.arg.v)

/-- CONFIG_LOAD_ENTRY_WAIT (R112). -/
def execConfigLoadEntryWait (s : State) : Result := .next (loadEntryWait s s.arg.n s.arg.k s.arg.tile)

/-- KSET_STAGE_COMPLETE (R136). -/
def execKsetStageComplete (s : State) : Result := .next (ksetComplete s s.arg.tile s.arg.n)

/-- HANDLE_INCREMENT_ACK (R122). -/
def execHandleIncrementAck (s : State) : Result := .next (handleAck s s.arg.tile s.arg.n)

/-- ENGINE_MESSAGE_ACCEPT (R35). -/
def execEngineMessageAccept (s : State) : Result := .next (engineAccept s s.arg.tile)

/-- TILE_ALLOC_GRANT (R179). -/
def execTileAllocGrant (s : State) : Result := .next (tileGrant s s.arg.tile)

/-- GRANULE_ZEROED (R180). -/
def execGranuleZeroed (s : State) : Result := .next (granuleZeroed s s.arg.tile)

/-- ROW_UNIT_OPERATION_START (R203). -/
def execRowUnitOperationStart (s : State) : Result := .next (rowStart s s.arg.tile)

/-- ROW_UNIT_OPERATION_COMPLETE (R206). -/
def execRowUnitOperationComplete (s : State) : Result := .next (rowComplete s s.arg.tile)

/-- HANDLER_COUNT_WORD (R219). -/
def execHandlerCountWord (s : State) : Result := .next (handlerWord s s.arg.tile s.arg.n)

/-- HANDLER_STEP (R219). -/
def execHandlerStep (s : State) : Result := .next (handlerStep s s.arg.tile)

/-- HANDLER_COMPLETE (R223). -/
def execHandlerComplete (s : State) : Result := .next (handlerComplete s s.arg.tile s.arg.n)

/-- SOPSET_WAIT_END (R226). -/
def execSopsetWaitEnd (s : State) : Result := .next (sopsetWaitEnd s s.arg.tile s.arg.n)

/-- MATRIX_FEED_BEGIN (R238). -/
def execMatrixFeedBegin (s : State) : Result := .next (feedBegin s s.arg.tile)

/-- MATRIX_KSTEP_FEED (R236). -/
def execMatrixKstepFeed (s : State) : Result := .next (kstepFeed s s.arg.tile)

/-- MATRIX_OPERATION_COMPLETE (R236). -/
def execMatrixOperationComplete (s : State) : Result := .next (mxComplete s s.arg.tile)

/-- OPERAND_FETCH_FAULT (R240). -/
def execOperandFetchFault (s : State) : Result := .next (fetchFault s s.arg.tile)

/-- MATRIX_HALT_TIMEOUT (R240). -/
def execMatrixHaltTimeout (s : State) : Result := .next (haltTimeout s s.arg.tile)

/-- MXCTL_RESUME (R240). -/
def execMxctlResume (s : State) : Result := .next (mxResume s s.arg.tile s.arg.flag)

/-- MXCTL_ABORT (R240). -/
def execMxctlAbort (s : State) : Result := .next (mxAbort s s.arg.tile true)

/-- MATRIX_FREEZE_STOP (R242). -/
def execMatrixFreezeStop (s : State) : Result := .next (mxFreeze s s.arg.tile s.arg.n)

/-- CBSET_WAIT_END (R243). -/
def execCbsetWaitEnd (s : State) : Result := .next (cbsetWaitEnd s s.arg.tile)

/-- REGISTER_WRITE (R7). -/
def execRegisterWrite (s : State) : Result := .next (registerWrite s s.arg.w s.arg.w2)

/-- DEURI_LINK_DOWN (R21). -/
def execDeuriLinkDown (s : State) : Result := .next (deuriDown s)

end Sys2Proof.Machine
end

