-- ==== Sys2Proof/Machine/TileOps.lean ====
section
/-! DEFINITION. The meanings of groups 0x5 to 0x8: tile buffers, row unit, stream handlers, matrix array (R171 to R251), each over the shared operations. -/

namespace Sys2Proof.Machine

/-- TALLOC (R191). -/
def execTalloc (f : Fields) (s : State) : Result := .next (runTalloc f s)

/-- TREL (R192). -/
def execTrel (f : Fields) (s : State) : Result := .next (runTrel f s)

/-- TREF (R193). -/
def execTref (f : Fields) (s : State) : Result := .next (runTref f s)

/-- TGIVE (R194). -/
def execTgive (f : Fields) (s : State) : Result := .next (runTgive f s)

/-- TVIEW (R195). -/
def execTview (f : Fields) (s : State) : Result := .next (runTview f s)

/-- TDESC_RD (R196). -/
def execTdescRd (f : Fields) (s : State) : Result := .next (runTdescRd f s)

/-- TDESC_LINK (R196). -/
def execTdescLink (f : Fields) (s : State) : Result := .next (runTdescLink f s)

/-- TLOOK (R197). -/
def execTlook (f : Fields) (s : State) : Result := .next (runTlook f s)

/-- TTAG (R198). -/
def execTtag (f : Fields) (s : State) : Result := .next (runTtag f s)

/-- TUNTAG (R199). -/
def execTuntag (f : Fields) (s : State) : Result := .next (runTuntag f s)

/-- TGET (R200). -/
def execTget (f : Fields) (s : State) : Result := .next (runTget f s)

/-- TSET (R200). -/
def execTset (f : Fields) (s : State) : Result := .next (runTset f s)

/-- TFILL (R200). -/
def execTfill (f : Fields) (s : State) : Result := .next (runTfill f s)

/-- TADD (R209). -/
def execTadd (f : Fields) (s : State) : Result := .next (runRowOp 0x60 f s)

/-- TSUB (R209). -/
def execTsub (f : Fields) (s : State) : Result := .next (runRowOp 0x61 f s)

/-- TMUL (R209). -/
def execTmul (f : Fields) (s : State) : Result := .next (runRowOp 0x62 f s)

/-- TFMA (R209). -/
def execTfma (f : Fields) (s : State) : Result := .next (runRowOp 0x63 f s)

/-- TSCAL (R209). -/
def execTscal (f : Fields) (s : State) : Result := .next (runRowOp 0x64 f s)

/-- TMINMAX (R209). -/
def execTminmax (f : Fields) (s : State) : Result := .next (runRowOp 0x65 f s)

/-- TACT (R210). -/
def execTact (f : Fields) (s : State) : Result := .next (runRowOp 0x66 f s)

/-- TRED (R211). -/
def execTred (f : Fields) (s : State) : Result := .next (runRowOp 0x67 f s)

/-- TCVT (R212). -/
def execTcvt (f : Fields) (s : State) : Result := .next (runRowOp 0x68 f s)

/-- TCHAIN (R213). -/
def execTchain (f : Fields) (s : State) : Result := .next (runRowOp 0x69 f s)

/-- BENSET (R214). -/
def execBenset (f : Fields) (s : State) : Result := .next (runRowOp 0x6A f s)

/-- TPERM (R215). -/
def execTperm (f : Fields) (s : State) : Result := .next (runRowOp 0x6B f s)

/-- TCMP (R216). -/
def execTcmp (f : Fields) (s : State) : Result := .next (runRowOp 0x6C f s)

/-- TMSEL (R217). -/
def execTmsel (f : Fields) (s : State) : Result := .next (runRowOp 0x6D f s)

/-- SOPSET (R226). -/
def execSopset (f : Fields) (s : State) : Result := .next (runSopset f s)

/-- SOPGO (R227). -/
def execSopgo (f : Fields) (s : State) : Result := .next (runSopgo f s)

/-- SOPMASK_OFF (R228). -/
def execSopmaskOff (f : Fields) (s : State) : Result := .next (runSopmask f true s)

/-- SOPMASK_ON (R228). -/
def execSopmaskOn (f : Fields) (s : State) : Result := .next (runSopmask f false s)

/-- SOPPRI (R228). -/
def execSoppri (f : Fields) (s : State) : Result := .next (runSoppri f s)

/-- MMA (R246). -/
def execMma (f : Fields) (s : State) : Result := .next (runMx f s)

/-- MMAS (R246). -/
def execMmas (f : Fields) (s : State) : Result := .next (runMx f s)

/-- MMAC (R246). -/
def execMmac (f : Fields) (s : State) : Result := .next (runMx f s)

/-- MMSR (R246). -/
def execMmsr (f : Fields) (s : State) : Result := .next (runMx f s)

/-- ACCLD (R247). -/
def execAccld (f : Fields) (s : State) : Result := .next (runMx f s)

/-- ACCST (R248). -/
def execAccst (f : Fields) (s : State) : Result := .next (runMx f s)

/-- CBSET (R249). -/
def execCbset (f : Fields) (s : State) : Result := .next (runMx f s)

/-- CBSWAP (R249). -/
def execCbswap (f : Fields) (s : State) : Result := .next (runMx f s)

/-- MMPRG (R250). -/
def execMmprg (f : Fields) (s : State) : Result := .next (runMx f s)

/-- MMCFG (R251). -/
def execMmcfg (f : Fields) (s : State) : Result := .next (runMx f s)

end Sys2Proof.Machine
end

