-- ==== Sys2Proof/Machine/TokenOps.lean ====
section
/-! DEFINITION. The meanings of group 0x0: tokens, frames, control (R119 to R138), each over the shared operations. -/

namespace Sys2Proof.Machine

/-- DROP (R123). -/
def execDrop (_ : Fields) (s : State) : Result := .next (runDrop s)

/-- DUP (R124). -/
def execDup (f : Fields) (s : State) : Result := .next (runDup f s)

/-- SWITCH (R125). -/
def execSwitch (f : Fields) (s : State) : Result := .next (runSwitch f s)

/-- SELECT (R125). -/
def execSelect (f : Fields) (s : State) : Result := .next (runSelect f s)

/-- GATE (R126). -/
def execGate (f : Fields) (s : State) : Result := .next (runGate f s)

/-- MERGE (R127). -/
def execMerge (f : Fields) (s : State) : Result := .next (runMerge f s)

/-- SEND_LINK (R128). -/
def execSendLink (f : Fields) (s : State) : Result := .next (runSendLink f s)

/-- SEND_RET (R128). -/
def execSendRet (f : Fields) (s : State) : Result := .next (runSendRet f s)

/-- ENTER (R129). -/
def execEnter (f : Fields) (s : State) : Result := .next (runEnter f s)

/-- EXIT (R130). -/
def execExit (_ : Fields) (s : State) : Result := .next (runExit s)

/-- ITER (R131). -/
def execIter (f : Fields) (s : State) : Result := .next (runIter f s)

/-- LOOPN (R132). -/
def execLoopn (f : Fields) (s : State) : Result := .next (runLoopn f s)

/-- FREE (R133). -/
def execFree (_ : Fields) (s : State) : Result := .next (runFree s)

/-- CONST (R134). -/
def execConst (f : Fields) (s : State) : Result := .next (runConst f s)

/-- CONST_SELF (R134). -/
def execConstSelf (f : Fields) (s : State) : Result := .next (runConstSelf f s)

/-- ARG (R135). -/
def execArg (f : Fields) (s : State) : Result := .next (runArg f s)

/-- KSET (R136). -/
def execKset (f : Fields) (s : State) : Result := .next (runKset f s)

/-- DONE (R137). -/
def execDone (_ : Fields) (s : State) : Result := .next (runDone s)

end Sys2Proof.Machine
end

