-- ==== Sys2Proof/Machine/Dispatch.lean ====
section
/-! DEFINITION. The dispatch: one arm for each constructor of Instr, each one call of its meaning. -/

namespace Sys2Proof.Machine

/-- What one instruction or event does. -/
def exec (i : Instr) (s : State) : Host.Outcome State Fault Refusal :=
  match i with
  | .tokenArrival => Sys2Proof.Machine.execTokenArrival s
  | .heldFiringEnterQueue => Sys2Proof.Machine.execHeldFiringEnterQueue s
  | .readyQueueIssue => Sys2Proof.Machine.execReadyQueueIssue s
  | .chainHoldRelease => Sys2Proof.Machine.execChainHoldRelease s
  | .laneResultEmit => Sys2Proof.Machine.execLaneResultEmit s
  | .frameRequestGrant => Sys2Proof.Machine.execFrameRequestGrant s
  | .frameBecomesLive => Sys2Proof.Machine.execFrameBecomesLive s
  | .frameReturnFree => Sys2Proof.Machine.execFrameReturnFree s
  | .configTransition => Sys2Proof.Machine.execConfigTransition s
  | .configBlockFetched => Sys2Proof.Machine.execConfigBlockFetched s
  | .configLoadEntryWait => Sys2Proof.Machine.execConfigLoadEntryWait s
  | .ksetStageComplete => Sys2Proof.Machine.execKsetStageComplete s
  | .handleIncrementAck => Sys2Proof.Machine.execHandleIncrementAck s
  | .engineMessageAccept => Sys2Proof.Machine.execEngineMessageAccept s
  | .tileAllocGrant => Sys2Proof.Machine.execTileAllocGrant s
  | .granuleZeroed => Sys2Proof.Machine.execGranuleZeroed s
  | .rowUnitOperationStart => Sys2Proof.Machine.execRowUnitOperationStart s
  | .rowUnitOperationComplete => Sys2Proof.Machine.execRowUnitOperationComplete s
  | .handlerCountWord => Sys2Proof.Machine.execHandlerCountWord s
  | .handlerStep => Sys2Proof.Machine.execHandlerStep s
  | .handlerComplete => Sys2Proof.Machine.execHandlerComplete s
  | .sopsetWaitEnd => Sys2Proof.Machine.execSopsetWaitEnd s
  | .matrixFeedBegin => Sys2Proof.Machine.execMatrixFeedBegin s
  | .matrixKstepFeed => Sys2Proof.Machine.execMatrixKstepFeed s
  | .matrixOperationComplete => Sys2Proof.Machine.execMatrixOperationComplete s
  | .operandFetchFault => Sys2Proof.Machine.execOperandFetchFault s
  | .matrixHaltTimeout => Sys2Proof.Machine.execMatrixHaltTimeout s
  | .mxctlResume => Sys2Proof.Machine.execMxctlResume s
  | .mxctlAbort => Sys2Proof.Machine.execMxctlAbort s
  | .matrixFreezeStop => Sys2Proof.Machine.execMatrixFreezeStop s
  | .cbsetWaitEnd => Sys2Proof.Machine.execCbsetWaitEnd s
  | .memoryPortIssue => Sys2Proof.Machine.execMemoryPortIssue s
  | .homeSlicePerform => Sys2Proof.Machine.execHomeSlicePerform s
  | .memoryReplyArrive => Sys2Proof.Machine.execMemoryReplyArrive s
  | .streamReadaheadFetch => Sys2Proof.Machine.execStreamReadaheadFetch s
  | .streamReadaheadReply => Sys2Proof.Machine.execStreamReadaheadReply s
  | .copyAccept => Sys2Proof.Machine.execCopyAccept s
  | .copyRequestIssue => Sys2Proof.Machine.execCopyRequestIssue s
  | .copyReplyLand => Sys2Proof.Machine.execCopyReplyLand s
  | .cpymMmaDeliver => Sys2Proof.Machine.execCpymMmaDeliver s
  | .fenceRelease => Sys2Proof.Machine.execFenceRelease s
  | .waitcRelease => Sys2Proof.Machine.execWaitcRelease s
  | .biasFlipComplete => Sys2Proof.Machine.execBiasFlipComplete s
  | .deferredContinuationRetry => Sys2Proof.Machine.execDeferredContinuationRetry s
  | .shuttleDrain => Sys2Proof.Machine.execShuttleDrain s
  | .shuttlePush => Sys2Proof.Machine.execShuttlePush s
  | .requestWithdrawal => Sys2Proof.Machine.execRequestWithdrawal s
  | .iscfgWrite => Sys2Proof.Machine.execIscfgWrite s
  | .iscfgClearDone => Sys2Proof.Machine.execIscfgClearDone s
  | .aredMergeForward => Sys2Proof.Machine.execAredMergeForward s
  | .reductionWindowAck => Sys2Proof.Machine.execReductionWindowAck s
  | .queuePushApply => Sys2Proof.Machine.execQueuePushApply s
  | .hostQueuePush => Sys2Proof.Machine.execHostQueuePush s
  | .heldLaunchPush => Sys2Proof.Machine.execHeldLaunchPush s
  | .cardPop => Sys2Proof.Machine.execCardPop s
  | .leaseRequestServe => Sys2Proof.Machine.execLeaseRequestServe s
  | .launchAdmit => Sys2Proof.Machine.execLaunchAdmit s
  | .tlbinvDrainComplete => Sys2Proof.Machine.execTlbinvDrainComplete s
  | .sheafDeal => Sys2Proof.Machine.execSheafDeal s
  | .launchComplete => Sys2Proof.Machine.execLaunchComplete s
  | .instructionFault => Sys2Proof.Machine.execInstructionFault s
  | .faultRecordDelivery => Sys2Proof.Machine.execFaultRecordDelivery s
  | .freezeWaveComplete => Sys2Proof.Machine.execFreezeWaveComplete s
  | .computeDieReset => Sys2Proof.Machine.execComputeDieReset s
  | .dieReady => Sys2Proof.Machine.execDieReady s
  | .tileFailure => Sys2Proof.Machine.execTileFailure s
  | .dieLost => Sys2Proof.Machine.execDieLost s
  | .memoryDieBootTimeout => Sys2Proof.Machine.execMemoryDieBootTimeout s
  | .linkRestore => Sys2Proof.Machine.execLinkRestore s
  | .channelLost => Sys2Proof.Machine.execChannelLost s
  | .ackDeadlineExpiry => Sys2Proof.Machine.execAckDeadlineExpiry s
  | .mapjSuspClear => Sys2Proof.Machine.execMapjSuspClear s
  | .scanPatternEnd => Sys2Proof.Machine.execScanPatternEnd s
  | .scanAutoAbort => Sys2Proof.Machine.execScanAutoAbort s
  | .scanAbortRestore => Sys2Proof.Machine.execScanAbortRestore s
  | .refreshTick => Sys2Proof.Machine.execRefreshTick s
  | .controllerCommandSelect => Sys2Proof.Machine.execControllerCommandSelect s
  | .gleanerRead => Sys2Proof.Machine.execGleanerRead s
  | .bandwidthUpdate => Sys2Proof.Machine.execBandwidthUpdate s
  | .linkAudit => Sys2Proof.Machine.execLinkAudit s
  | .linkStallTimeout => Sys2Proof.Machine.execLinkStallTimeout s
  | .resyncTimeout => Sys2Proof.Machine.execResyncTimeout s
  | .hostBar0Access => Sys2Proof.Machine.execHostBar0Access s
  | .hostHdmAccess => Sys2Proof.Machine.execHostHdmAccess s
  | .hostWindowAccess => Sys2Proof.Machine.execHostWindowAccess s
  | .fabricAccess => Sys2Proof.Machine.execFabricAccess s
  | .xredRoundComplete => Sys2Proof.Machine.execXredRoundComplete s
  | .xredRoundAbort => Sys2Proof.Machine.execXredRoundAbort s
  | .deuriLinkTrain => Sys2Proof.Machine.execDeuriLinkTrain s
  | .firmwareVerify => Sys2Proof.Machine.execFirmwareVerify s
  | .attctlGo => Sys2Proof.Machine.execAttctlGo s
  | .thermalThreshold => Sys2Proof.Machine.execThermalThreshold s
  | .heatStepTimer => Sys2Proof.Machine.execHeatStepTimer s
  | .powerCapTimer => Sys2Proof.Machine.execPowerCapTimer s
  | .gradeRaiseTimer => Sys2Proof.Machine.execGradeRaiseTimer s
  | .overheatDieReset => Sys2Proof.Machine.execOverheatDieReset s
  | .overheatPowerOff => Sys2Proof.Machine.execOverheatPowerOff s
  | .qcfgStateWrite => Sys2Proof.Machine.execQcfgStateWrite s
  | .rwinWrite => Sys2Proof.Machine.execRwinWrite s
  | .registerWrite => Sys2Proof.Machine.execRegisterWrite s
  | .drop f => Sys2Proof.Machine.execDrop f s
  | .dup f => Sys2Proof.Machine.execDup f s
  | .switch f => Sys2Proof.Machine.execSwitch f s
  | .select f => Sys2Proof.Machine.execSelect f s
  | .gate f => Sys2Proof.Machine.execGate f s
  | .merge f => Sys2Proof.Machine.execMerge f s
  | .sendLink f => Sys2Proof.Machine.execSendLink f s
  | .sendRet f => Sys2Proof.Machine.execSendRet f s
  | .enter f => Sys2Proof.Machine.execEnter f s
  | .exit f => Sys2Proof.Machine.execExit f s
  | .iter f => Sys2Proof.Machine.execIter f s
  | .loopn f => Sys2Proof.Machine.execLoopn f s
  | .free f => Sys2Proof.Machine.execFree f s
  | .const f => Sys2Proof.Machine.execConst f s
  | .constSelf f => Sys2Proof.Machine.execConstSelf f s
  | .arg f => Sys2Proof.Machine.execArg f s
  | .kset f => Sys2Proof.Machine.execKset f s
  | .done f => Sys2Proof.Machine.execDone f s
  | .cfgnext f => Sys2Proof.Machine.execCfgnext f s
  | .cfgload f => Sys2Proof.Machine.execCfgload f s
  | .add f => Sys2Proof.Machine.execAdd f s
  | .sub f => Sys2Proof.Machine.execSub f s
  | .mul f => Sys2Proof.Machine.execMul f s
  | .mulh f => Sys2Proof.Machine.execMulh f s
  | .mad f => Sys2Proof.Machine.execMad f s
  | .div f => Sys2Proof.Machine.execDiv f s
  | .rem f => Sys2Proof.Machine.execRem f s
  | .min f => Sys2Proof.Machine.execMin f s
  | .max f => Sys2Proof.Machine.execMax f s
  | .abs f => Sys2Proof.Machine.execAbs f s
  | .neg f => Sys2Proof.Machine.execNeg f s
  | .addx f => Sys2Proof.Machine.execAddx f s
  | .lea f => Sys2Proof.Machine.execLea f s
  | .clz f => Sys2Proof.Machine.execClz f s
  | .popc f => Sys2Proof.Machine.execPopc f s
  | .brev f => Sys2Proof.Machine.execBrev f s
  | .and f => Sys2Proof.Machine.execAnd f s
  | .or f => Sys2Proof.Machine.execOr f s
  | .xor f => Sys2Proof.Machine.execXor f s
  | .not f => Sys2Proof.Machine.execNot f s
  | .shl f => Sys2Proof.Machine.execShl f s
  | .shr f => Sys2Proof.Machine.execShr f s
  | .sha f => Sys2Proof.Machine.execSha f s
  | .rot f => Sys2Proof.Machine.execRot f s
  | .bfx f => Sys2Proof.Machine.execBfx f s
  | .bfi f => Sys2Proof.Machine.execBfi f s
  | .cmp f => Sys2Proof.Machine.execCmp f s
  | .fcmp f => Sys2Proof.Machine.execFcmp f s
  | .plog f => Sys2Proof.Machine.execPlog f s
  | .fadd f => Sys2Proof.Machine.execFadd f s
  | .fsub f => Sys2Proof.Machine.execFsub f s
  | .fmul f => Sys2Proof.Machine.execFmul f s
  | .ffma f => Sys2Proof.Machine.execFfma f s
  | .fmin f => Sys2Proof.Machine.execFmin f s
  | .fmax f => Sys2Proof.Machine.execFmax f s
  | .fabs f => Sys2Proof.Machine.execFabs f s
  | .fneg f => Sys2Proof.Machine.execFneg f s
  | .rcpa f => Sys2Proof.Machine.execRcpa f s
  | .rsqa f => Sys2Proof.Machine.execRsqa f s
  | .rcpr f => Sys2Proof.Machine.execRcpr f s
  | .rsqr f => Sys2Proof.Machine.execRsqr f s
  | .expa f => Sys2Proof.Machine.execExpa f s
  | .loga f => Sys2Proof.Machine.execLoga f s
  | .fsqrt f => Sys2Proof.Machine.execFsqrt f s
  | .fdiv f => Sys2Proof.Machine.execFdiv f s
  | .cvtii f => Sys2Proof.Machine.execCvtii f s
  | .cvtif f => Sys2Proof.Machine.execCvtif f s
  | .cvtfi f => Sys2Proof.Machine.execCvtfi f s
  | .cvtff f => Sys2Proof.Machine.execCvtff f s
  | .packn f => Sys2Proof.Machine.execPackn f s
  | .unpkn f => Sys2Proof.Machine.execUnpkn f s
  | .runred f => Sys2Proof.Machine.execRunred f s
  | .runscan f => Sys2Proof.Machine.execRunscan f s
  | .runshf f => Sys2Proof.Machine.execRunshf f s
  | .runbc f => Sys2Proof.Machine.execRunbc f s
  | .lane f => Sys2Proof.Machine.execLane f s
  | .talloc f => Sys2Proof.Machine.execTalloc f s
  | .trel f => Sys2Proof.Machine.execTrel f s
  | .tref f => Sys2Proof.Machine.execTref f s
  | .tgive f => Sys2Proof.Machine.execTgive f s
  | .tview f => Sys2Proof.Machine.execTview f s
  | .tdescRd f => Sys2Proof.Machine.execTdescRd f s
  | .tdescLink f => Sys2Proof.Machine.execTdescLink f s
  | .tlook f => Sys2Proof.Machine.execTlook f s
  | .ttag f => Sys2Proof.Machine.execTtag f s
  | .tuntag f => Sys2Proof.Machine.execTuntag f s
  | .tget f => Sys2Proof.Machine.execTget f s
  | .tset f => Sys2Proof.Machine.execTset f s
  | .tfill f => Sys2Proof.Machine.execTfill f s
  | .tadd f => Sys2Proof.Machine.execTadd f s
  | .tsub f => Sys2Proof.Machine.execTsub f s
  | .tmul f => Sys2Proof.Machine.execTmul f s
  | .tfma f => Sys2Proof.Machine.execTfma f s
  | .tscal f => Sys2Proof.Machine.execTscal f s
  | .tminmax f => Sys2Proof.Machine.execTminmax f s
  | .tact f => Sys2Proof.Machine.execTact f s
  | .tred f => Sys2Proof.Machine.execTred f s
  | .tcvt f => Sys2Proof.Machine.execTcvt f s
  | .tchain f => Sys2Proof.Machine.execTchain f s
  | .benset f => Sys2Proof.Machine.execBenset f s
  | .tperm f => Sys2Proof.Machine.execTperm f s
  | .tcmp f => Sys2Proof.Machine.execTcmp f s
  | .tmsel f => Sys2Proof.Machine.execTmsel f s
  | .sopset f => Sys2Proof.Machine.execSopset f s
  | .sopgo f => Sys2Proof.Machine.execSopgo f s
  | .sopmaskOff f => Sys2Proof.Machine.execSopmaskOff f s
  | .sopmaskOn f => Sys2Proof.Machine.execSopmaskOn f s
  | .soppri f => Sys2Proof.Machine.execSoppri f s
  | .mma f => Sys2Proof.Machine.execMma f s
  | .mmas f => Sys2Proof.Machine.execMmas f s
  | .mmac f => Sys2Proof.Machine.execMmac f s
  | .mmsr f => Sys2Proof.Machine.execMmsr f s
  | .accld f => Sys2Proof.Machine.execAccld f s
  | .accst f => Sys2Proof.Machine.execAccst f s
  | .cbset f => Sys2Proof.Machine.execCbset f s
  | .cbswap f => Sys2Proof.Machine.execCbswap f s
  | .mmprg f => Sys2Proof.Machine.execMmprg f s
  | .mmcfg f => Sys2Proof.Machine.execMmcfg f s
  | .ld f => Sys2Proof.Machine.execLd f s
  | .st f => Sys2Proof.Machine.execSt f s
  | .ldt f => Sys2Proof.Machine.execLdt f s
  | .stt f => Sys2Proof.Machine.execStt f s
  | .ldg f => Sys2Proof.Machine.execLdg f s
  | .stg f => Sys2Proof.Machine.execStg f s
  | .regionOpen f => Sys2Proof.Machine.execRegionOpen f s
  | .regionClose f => Sys2Proof.Machine.execRegionClose f s
  | .ord f => Sys2Proof.Machine.execOrd f s
  | .cpyIn f => Sys2Proof.Machine.execCpyIn f s
  | .cpyOut f => Sys2Proof.Machine.execCpyOut f s
  | .cpym f => Sys2Proof.Machine.execCpym f s
  | .cpywp f => Sys2Proof.Machine.execCpywp f s
  | .cpywait f => Sys2Proof.Machine.execCpywait f s
  | .cpycan f => Sys2Proof.Machine.execCpycan f s
  | .aadd f => Sys2Proof.Machine.execAadd f s
  | .afadd f => Sys2Proof.Machine.execAfadd f s
  | .amin f => Sys2Proof.Machine.execAmin f s
  | .amax f => Sys2Proof.Machine.execAmax f s
  | .alog f => Sys2Proof.Machine.execAlog f s
  | .axch f => Sys2Proof.Machine.execAxch f s
  | .acas f => Sys2Proof.Machine.execAcas f s
  | .ainc f => Sys2Proof.Machine.execAinc f s
  | .acask f => Sys2Proof.Machine.execAcask f s
  | .aaddk f => Sys2Proof.Machine.execAaddk f s
  | .itake f => Sys2Proof.Machine.execItake f s
  | .iput f => Sys2Proof.Machine.execIput f s
  | .iread f => Sys2Proof.Machine.execIread f s
  | .iclr f => Sys2Proof.Machine.execIclr f s
  | .ared f => Sys2Proof.Machine.execAred f s
  | .qpush f => Sys2Proof.Machine.execQpush f s
  | .qpop f => Sys2Proof.Machine.execQpop f s
  | .qcnt f => Sys2Proof.Machine.execQcnt f s
  | .launch f => Sys2Proof.Machine.execLaunch f s
  | .binit f => Sys2Proof.Machine.execBinit f s
  | .arrive f => Sys2Proof.Machine.execArrive f s
  | .bwait f => Sys2Proof.Machine.execBwait f s
  | .cntrd f => Sys2Proof.Machine.execCntrd f s
  | .cancel f => Sys2Proof.Machine.execCancel f s
  | .qctlFreeze f => Sys2Proof.Machine.execQctlFreeze f s
  | .qctlThaw f => Sys2Proof.Machine.execQctlThaw f s
  | .qctlDrain f => Sys2Proof.Machine.execQctlDrain f s
  | .qctlClose f => Sys2Proof.Machine.execQctlClose f s
  | .fence f => Sys2Proof.Machine.execFence f s
  | .waitc f => Sys2Proof.Machine.execWaitc f s
  | .biasreq f => Sys2Proof.Machine.execBiasreq f s
  | .perfrdTile f => Sys2Proof.Machine.execPerfrdTile f s
  | .perfrdPc f => Sys2Proof.Machine.execPerfrdPc f s
  | .xredCfg f => Sys2Proof.Machine.execXredCfg f s
  | .xredAdd f => Sys2Proof.Machine.execXredAdd f s
  | .trapEnd f => Sys2Proof.Machine.execTrapEnd f s
  | .trapLog f => Sys2Proof.Machine.execTrapLog f s
  | .sysrd f => Sys2Proof.Machine.execSysrd f s
  | .syswr f => Sys2Proof.Machine.execSyswr f s
  | .freeze f => Sys2Proof.Machine.execFreeze f s
  | .thaw f => Sys2Proof.Machine.execThaw f s
  | .maprdWord f => Sys2Proof.Machine.execMaprdWord f s
  | .maprdWait f => Sys2Proof.Machine.execMaprdWait f s
  | .mapack f => Sys2Proof.Machine.execMapack f s
  | .scango f => Sys2Proof.Machine.execScango f s
  | .scanabt f => Sys2Proof.Machine.execScanabt f s
  | .leaseAcq f => Sys2Proof.Machine.execLeaseAcq f s
  | .leaseRel f => Sys2Proof.Machine.execLeaseRel f s
  | .relocBind f => Sys2Proof.Machine.execRelocBind f s
  | .relocUnbind f => Sys2Proof.Machine.execRelocUnbind f s
  | .tlbinvRange f => Sys2Proof.Machine.execTlbinvRange f s
  | .tlbinvJob f => Sys2Proof.Machine.execTlbinvJob f s
  | .ucieLaneLost => Sys2Proof.Machine.execUcieLaneLost s
  | .hostSnoopResponse => Sys2Proof.Machine.execHostSnoopResponse s
  | .computeDieCooled => Sys2Proof.Machine.execComputeDieCooled s
  | .deuriLinkDown => Sys2Proof.Machine.execDeuriLinkDown s

end Sys2Proof.Machine
end

