-- ==== Sys2Proof/Machine/Sched.lean ====
section
/-! DEFINITION. Time, the input's happenings, the order that events take when the input says none, and the fetch of an instruction's word
(R2, R40, R43, R141, R186, R207, R244, R404, R414; log entry 1). -/

namespace Sys2Proof.Machine

/-! ## Time -/

/-- Whether a request of a job waits for credit at a tile's port (R412). -/
def CTile.starved (c : CTile) (j : Nat) : Bool :=
  !c.hasCredit j && c.mops.any fun o => o.jid == j && charged o.op && !o.pieces.isEmpty

/-- The clk of dt, the first of which is `clk`, in which a job's entry waits for credit: not the one in which it has issued (R414). -/
def CTile.waited (c : CTile) (clk dt j : Nat) : Nat := dt - bit (c.pissue == (clk + 1, j))

/-- Time passes at a compute tile: the counters of clk in which its units are occupied, and in which a job's requests wait for credit
(R141, R207, R244, R414). -/
def CTile.advance (c : CTile) (clk dt : Nat) : CTile :=
  let c := (c.accts.filter fun a => c.starved a.2.jid).foldl (fun (c : CTile) a =>
    c.onAcctWord a.2.jid fun w => (w.1, (w.2 + c.waited clk dt a.2.jid) % 2 ^ 32)) c
  { c with
    luocc := c.luocc + w64 (min dt (c.lubusy - clk))
    ruocc := if c.ruOps.any (·.started) then c.ruocc + w64 dt else c.ruocc
    mxocc := if c.mxBusy then c.mxocc + w64 dt else c.mxocc }

/-- The clk of the machine moves to a later one, with nothing between. -/
def State.clkTo (s : State) (c : Nat) : State :=
  { s with clk := c, ct := s.ct.map fun e => (e.1, e.2.advance s.clk (c - s.clk)) }

/-- The first push held or on its way to a queue is applied, if it may be in this clk (R345, R364). -/
def pushOnce (s : State) (q : Nat) : State :=
  let s := (s.sw.heldp.zipIdx.find? fun p => p.1.queue == q).elim s fun p => heldPush s p.2
  (s.sw.pushes.zipIdx.find? fun p => p.1.queue == q && pushNext s p.2 p.1).elim s fun p => pushApply s p.2

/-- The WAITCs of a tile all four of whose limits hold in this clk emit, from the n-th entry of the fence list on (R315). -/
def waitcAll : Nat → State → Nat → Nat → State
  | 0, s, _, _ => s
  | k + 1, s, t, n =>
    let s' := fenceRelease true s t n
    waitcAll k s' t (if (s'.tile t).fences.length < (s.tile t).fences.length then n else n + 1)

/-- One request of every port that may issue one (R273). -/
def portsIssue (s : State) : State := ((s.ct.filter fun c => !c.2.mops.isEmpty).map (·.1)).foldl portIssue s

/-- The raisings of grade that are due, once every lowering of the clk has been published (R441). -/
def raisesDue (s : State) : State := ((List.range 8).filter fun d => (s.heat d).cool.isSome).foldl gradeDue s

/-- What every clk comes to without fail before it ends: one request of every port (R273), one push of every queue that has one (R345), the release of every WAITC whose
limits hold (R315), the end of every scan test whose tile is wanted (R402), the launches whose edges have cleared (R351), one grant of
every bus of HBM that is asked for (R408), the gleaners' reads of granules with errors (R410), and what the host and a report of the attestation wait to do at a slice (R310, R440), the accesses made at slices let go of their words (R329), and
contributions leave ahead of drain markers (R429), and grades are raised (R441; log entry 1). -/
def clkEnd (s : State) : State :=
  let s := portsIssue s
  let s := (distinct ((s.sw.heldp ++ s.sw.pushes).map (·.queue))).foldl pushOnce s
  let s := ((s.ct.filter fun c => c.2.fences.any (·.waitc)).map fun c => (c.1, c.2.fences.length)).foldl
    (fun (s : State) c => waitcAll c.2 s c.1 0) s
  let s := enterLeasing (scanAutos s)
  let s := if s.sw.hdm.isEmpty then s else hdmServe s
  let s := letGoAll (if s.sw.attrep.isSome then attServe attFuel s else s)
  let s := if s.sw.aredGo.isEmpty then s else aredsDue s
  let s := raisesDue s
  gleanersRead (if busBusy s then busGrants s else s)

/-- Whether a push may be applied in the next clk. -/
def pushSoon (s : State) : Bool :=
  s.sw.pushes.any (fun p => decide (s.clk < p.clk)) || (s.sw.heldp ++ s.sw.pushes).any fun p => (s.queue p.queue).slot == s.clk + 1

/-- The clk in which something falls due by itself: a command of HBM (R408), a gleaner's read of a granule with an error (R410), a job's suspension (R394), the end of the boot of the memory
dies (R390), credit for a request that waits (R411), a request of a port (R273), the stall of a link (R421), the end of a halt (R240), a step of a die's grade (R441),
the end of a contribution's hold (R429). -/
def dueTimes (s : State) : List Nat :=
  ((s.md.filter fun m => s.dieUp m.1).flatMap fun m => (m.2.pcs.filter fun p => p.2.presses).map fun p => max (s.clk + 1) p.2.next)
    ++ gleanTimes s
    ++ (s.sw.jobs.filterMap fun j => if j.2.valid && !j.2.susp then j.2.dls.head?.map fun d => d.2 + 1 else none)
    ++ (if memDies.any fun d => s.dieState d == 0 then [4800000000] else [])
    ++ (if s.ct.any fun c => c.2.accts.any fun a => c.2.starved a.2.jid then [(s.clk / 1024 + 1) * 1024] else [])
    ++ (if s.ct.any fun c => portReady { s with clk := s.clk + 1 } c.1 then [s.clk + 1] else [])
    ++ (s.sw.links.flatMap fun l => (l.2.vcs.filterMap fun v => v.2.dry.map (· + 65536)) ++ (l.2.sync.map (· + 65537)).toList)
    ++ (s.ct.filterMap fun c => c.2.halted.bind fun o => o.2.halt.map fun h => h.1 + c.2.mxhto)
    ++ (s.sw.therm.flatMap fun h => (h.2.hot.map (· + heatStepClk)).toList ++ (h.2.cool.map (· + coolClk)).toList)
    ++ ((aredTimes s).map (·.2))

/-- A resync that the input has let run past its 65,536 clk has failed, and a narrowed link retrains (R421; log entry 75). -/
def syncLate (s : State) (l : Nat) : State :=
  if (s.link l).sync.any fun c => decide (c + 65536 < s.clk) then resyncTimeout s l true else s

/-- The lowerings of grade that are due (R441). -/
def heatDue (s : State) : State := ((List.range 8).filter fun d => (s.heat d).hot.isSome).foldl heatStep s

/-- What begins with a clk without fail: bandwidth updates (R411, R412), suspensions (R394), the end of boot (R390), audits (R420), link
stalls (R421), the end of halts (R240), steps of grade (R441) and of contributions' holds (R429). -/
def clkBegin (s : State) : State :=
  let s := bandwidthAll s
  let s := (s.sw.jobs.map (·.1)).foldl deadlineExpiry s
  let s := if 4800000000 ≤ s.clk then memDies.foldl bootTimeout s else s
  let s := (s.sw.links.map (·.1)).foldl (fun (s : State) l => syncLate (linkStall s l) l) s
  let s := ((s.ct.filter fun c => c.2.halted.isSome).map (·.1)).foldl haltTimeout s
  aredsDue (heatDue s)

/-- Time passes up to a clk, in at most n goes: each ends the clk that it is in and moves on, to the next clk if something may happen in
it, else to where something falls due. -/
def passTo (stop : Nat) : Nat → State → State
  | 0, s => s
  | n + 1, s =>
    if stop ≤ s.clk then s
    else
      let s := clkEnd s
      let at_ := if pushSoon s then s.clk + 1 else (dueTimes s).foldl (fun a d => if s.clk < d then min a d else a) stop
      let t := clkBegin (s.clkTo at_)
      passTo stop n (if s.clk / 4096 = at_ / 4096 then t else auditsPassed t)

/-- dt clk pass. -/
def State.advance (s : State) (dt : Nat) : State := passTo (s.clk + dt) dt s

/-- A memory error arises at an address of the model: in a scratchpad an uncorrectable word, in HBM an uncorrectable or correctable
granule (R186, R404). -/
def State.hit (s : State) (h : Nat × Bool) : State :=
  let (a, ue) := h
  if a < 2 ^ 40 then
    let g := granule (a % 2 ^ 38)
    (s.catchPc (8 + a / 2 ^ 38) (pcOf g)).onMdie (8 + a / 2 ^ 38) fun c =>
      if ue then { c with ue := if c.ue.contains g then c.ue else g :: c.ue }
      else { c with ce := if c.ce.contains g then c.ce else g :: c.ce }
  else if 2 ^ 41 ≤ a ∧ a < 2 ^ 41 + 2 ^ 35 ∧ ue then
    let w := (a - 2 ^ 41) % 2 ^ 21 / 8
    s.onMtile ((a - 2 ^ 41) / 2 ^ 21) fun c => { c with ue := if c.ue.contains w then c.ue else w :: c.ue }
  else s

/-- The n-th token on the mesh to a tile arrives at its input (R24). -/
def State.land (s : State) (p : Nat × Nat) : State :=
  match (s.tile p.1).flight[p.2]? with
  | none => s
  | some k => (s.onTile p.1 fun c => { c with flight := dropNth c.flight p.2 }).deliver .mesh k

/-- Every token on the mesh arrives. -/
def State.landAll (s : State) : State :=
  (s.ct.flatMap fun c => c.2.flight.map fun _ => (c.1, 0)).foldl State.land s

/-- The input's next happening is taken up: its time passes, its memory errors arise, its tokens of the mesh arrive, its words are read and
written, its argument stands. -/
def State.happen (s : State) (h : Happening) (rest : List Happening) : State :=
  let s := ({ s with agenda := rest, arg := h.arg }.advance h.dt)
  h.writes.foldl State.landLate (h.reads.foldl State.readEarly (h.land.foldl State.land (h.hits.foldl State.hit s)))

/-! ## The order of events without an input (log entry 1) -/

/-- The numbers below n, as arguments. -/
def upTo (n : Nat) (g : Nat → Args) : List Args := (List.range n).map g

/-- The events of a compute tile. -/
def tileEvents (t : Nat) (c : CTile) : List (Instr × Args) :=
  let a (n : Nat) : Args := { tile := t, n := n }
  let one (i : Instr) : List (Instr × Args) := [(i, a 0)]
  let all (i : Instr) (n : Nat) : List (Instr × Args) := (upTo n a).map fun x => (i, x)
  one .heldFiringEnterQueue ++ all .laneResultEmit (min c.laneOut.length 1) ++ all .tokenArrival c.inputs.length
    ++ (QId.all.map fun q => (.readyQueueIssue, { tile := t, q := q })) ++ one .chainHoldRelease
    ++ one .frameRequestGrant ++ (c.frames.flatMap fun f => [(.frameBecomesLive, a f.1), (.frameReturnFree, a f.1)])
    ++ all .ksetStageComplete c.ksets.length ++ all .handleIncrementAck c.acks.length
    ++ one .engineMessageAccept ++ one .rowUnitOperationStart ++ one .rowUnitOperationComplete
    ++ one .matrixHaltTimeout ++ one .operandFetchFault ++ one .matrixOperationComplete ++ one .matrixKstepFeed ++ one .matrixFeedBegin
    ++ one .cbsetWaitEnd ++ all .matrixFreezeStop 16
    ++ one .memoryPortIssue ++ ((List.range 8).map fun k => (.streamReadaheadFetch, a k)) ++ one .memoryReplyArrive ++ one .streamReadaheadReply
    ++ all .fenceRelease c.fences.length ++ all .waitcRelease c.fences.length
    ++ one .scanAutoAbort ++ one .scanAbortRestore ++ one .scanPatternEnd ++ one .bandwidthUpdate

/-- The events of a memory tile. -/
def mtileEvents (m : Nat) (c : MTile) : List (Instr × Args) :=
  let a (n : Nat) : Args := { tile := m, n := n }
  let all (i : Instr) (n : Nat) : List (Instr × Args) := (upTo n a).map fun x => (i, x)
  [(.tileAllocGrant, a 0), (.granuleZeroed, a 0)] ++ all .handlerCountWord (min c.hwords.length 1) ++ [(.handlerStep, a 0)]
    ++ all .handlerComplete 16 ++ all .sopsetWaitEnd 16 ++ all .copyAccept c.cin.length ++ [(.copyRequestIssue, a 0), (.copyReplyLand, a 0)]
    ++ all .cpymMmaDeliver 4

/-- The requests that may perform; one for another module is answered by the input. -/
def netEvents (s : State) : List (Instr × Args) :=
  s.net.zipIdx.flatMap fun r =>
    if vaG r.1.piece.va && vaDev r.1.piece.va != s.sw.fabid && s.sw.faben.length != 0 then []
    else [(.homeSlicePerform, { n := r.2 }), (.hostWindowAccess, { n := r.2 })]

/-- The events of a memory die. -/
def dieEvents (d : Nat) (c : MDie) : List (Instr × Args) :=
  let a (n : Nat) : Args := { die := d, n := n }
  [(.leaseRequestServe, a 0)] ++ ((List.range c.inv.length).map fun n => (.tlbinvDrainComplete, a n))
    ++ ((List.range (min c.flips.length 8)).map fun n => (.biasFlipComplete, a n)) ++ [(.iscfgClearDone, a 0)]
    ++ (c.slices.flatMap fun e => (.deferredContinuationRetry, a e.1) ::
          ((List.range e.2.sh.length).flatMap fun n => [(.shuttleDrain, { die := d, k := e.1, n := n }), (.shuttlePush, { die := d, k := e.1, n := n })]))
    ++ (c.pcs.flatMap fun p => [(.refreshTick, a p.1), (.controllerCommandSelect, a p.1), (.controllerCommandSelect, a (twin p.1)), (.gleanerRead, a p.1)])

/-- The requests that wait deferred at some slice, by number. -/
def deferredIds (s : State) : List Nat :=
  s.md.flatMap fun d => d.2.slices.flatMap fun sl => (sl.2.idq ++ sl.2.df).map fun e => e.2.id

/-- The events of the switch die. -/
def switchEvents (s : State) : List (Instr × Args) :=
  let w := s.sw
  let all (i : Instr) (n : Nat) : List (Instr × Args) := (List.range n).map fun k => (i, { n := k })
  all .queuePushApply w.pushes.length ++ all .heldLaunchPush w.heldp.length ++ [(.cardPop, { n := 0 })] ++ all .launchAdmit w.launch.length
    ++ ((List.range w.launch.length).flatMap fun n => (List.range 64).map fun v => (.sheafDeal, { n := n, k := v }))
    ++ all .launchComplete w.launch.length ++ all .faultRecordDelivery w.recs.length
    ++ (w.graphs.flatMap fun g => (g.2.regions.zipIdx.flatMap fun r =>
          (.configTransition, { n := g.1, k := r.2 })
            :: ((List.range ((r.1.load.map (·.fetch.length)).getD 0)).map fun b => (.configBlockFetched, { n := g.1, k := r.2, v := b }))
            ++ (((r.1.load.map (·.tiles)).getD []).map fun t => (.configLoadEntryWait, { n := g.1, k := r.2, tile := t })))
          ++ [(.freezeWaveComplete, { n := g.1 })])
    ++ ((deferredIds s ++ w.mwaits.map (·.id) ++ w.heldp.map (·.req.id)).map fun i => (.requestWithdrawal, { n := i }))
    ++ (w.links.map fun l => (.resyncTimeout, { n := l.1, flag := true }))
    ++ (w.rwin.map fun x => (.reductionWindowAck, { n := x.1 })) ++ all .aredMergeForward (min w.areds.length 1)
    ++ (w.xrg.flatMap fun x => [(.xredRoundAbort, { n := x.1 }), (.xredRoundComplete, { n := x.1 })])
    ++ (w.jobs.map fun j => (.ackDeadlineExpiry, { n := j.1 }))
    ++ ((List.range 8).flatMap fun d => [(.heatStepTimer, { die := d }), (.gradeRaiseTimer, { die := d })])
    ++ (memDies.map fun d => (.memoryDieBootTimeout, { die := d }))

/-- Every event that the machine can come to by itself, in the order in which it tries them. -/
def ownEvents (s : State) : List (Instr × Args) :=
  (s.ct.flatMap fun c => tileEvents c.1 c.2) ++ (s.mt.flatMap fun c => mtileEvents c.1 c.2) ++ netEvents s
    ++ (s.md.flatMap fun d => dieEvents d.1 d.2) ++ switchEvents s

/-- What an event comes to if it changes the machine. -/
def tryEvent (s : State) (e : Instr × Args) : Option Result :=
  match exec e.1 { s with arg := e.2 } with
  | .next t => if { t with arg := s.arg } = s then none else some (.next { t with arg := s.arg })
  | r => some r

/-- A list turned so that it begins at its k-th element, counted round. -/
def turn {α : Type} (l : List α) (k : Nat) : List α := l.drop (k % l.length) ++ l.take (k % l.length)

/-- What comes of a step that the machine takes by itself: one clk passes with it, and what is on the mesh arrives; a firing that has
issued, and a fault that has been detected, still belong to the clk that runs (R372, R415). -/
def passClk : Result → Result
  | .next t => .next (if t.issuing.isSome || !t.detected.isEmpty then t else (t.advance 1).landAll)
  | r => r

/-- Without an input the first event that changes something happens, the search beginning one place further with each clk; one clk
passes, with an event or without, unless a firing or a fault is then in hand. -/
def ownStep (s : State) : Result := passClk (((turn (ownEvents s) s.clk).findSome? (tryEvent s)).getD (.next s))

/-- The next step of the agenda, or of the machine by itself. With the power off nothing happens but that the Deuri link trains (R435,
R442). -/
def goOn (s : State) : Result :=
  match s.agenda with
  | h :: rest =>
    if s.sw.powered then exec h.ev (s.happen h rest)
    else if h.ev = .deuriLinkTrain then exec h.ev { s with agenda := rest, arg := h.arg }
    else .next { s with agenda := rest }
  | [] => if s.sw.powered then ownStep s else .next s

/-! ## Fetch (R43) -/

/-- The word of the instruction that a firing names. -/
def fetchWord (s : State) (fr : Firing) : Option Word := (s.blockOf fr).bind fun b => b.word? fr.ix

end Sys2Proof.Machine
end

