-- ==== Sys2Proof/Machine/Step.lean ====
section
/-! DEFINITION. The step: a fault that has been detected is handled, the instruction that a queue has issued is executed, the next
happening of the input takes place, or the machine goes on by itself (log entry 1). -/

namespace Sys2Proof.Machine

/-- The instruction that has issued is fetched, decoded and executed. -/
def runFiring (s : State) (fr : Firing) : Host.Outcome State Fault Refusal :=
  match fetchWord s fr with
  | none => .fault .noWord
  | some w =>
    match decode w with
    | .ok i => exec i s
    | .error _ => .fault .badWord

/-- One step. -/
def step (s : State) : Host.Outcome State Fault Refusal :=
  if s.detected ≠ [] then exec .instructionFault s
  else
    match s.issuing with
    | some fr => runFiring s fr
    | none => goOn s

/-- The block of one word that `withFetchWord` places. -/
def placedBlock (w : Nat) : Block :=
  { ns := 0, lw := 1, pri := 0, sys := true, strm := true, gbn := 0, digest := 0, words := [w64 w], consts := [] }

/-- The frame that `withFetchWord` places. -/
def placedFrame : Frame :=
  { st := .live, lw := 1, blk := 0, ns := 0, ctx := 0, base := 0, ret := 0, argp := 0, lslot := 0, cells := 1,
    unit := { queue := 0, entry := 0, no := 0 }, active := [0], ended := [] }

/-- The firing that `withFetchWord` places: one lane, a done token on each port. -/
def placedFiring : Firing :=
  { tile := 0, ctx := 0, fi := 0, blk := 0, ix := 0, lb := 0, rl := 1, ops := [[.dn], [.dn], [.dn]] }

/-- The machine with an instruction word as the one that the next step executes: it stands at index 0 of a block in the
instruction store of tile 0, a frame of that block is LIVE, and a firing of it has issued (log entry 27). -/
def State.withFetchWord (s : State) (_nbits w : Nat) : State :=
  { (s.onTile 0 fun c => { c with entries := AList.set c.entries 0 { ctx := 0, blk := 0, block := placedBlock w } }.setFrame 0 placedFrame) with
    issuing := some placedFiring, detected := [] }

end Sys2Proof.Machine
end

