-- ==== Sys2Proof/Safety.lean ====
section
/-! DEFINITION. What the statements call a good state and a safe run. -/

namespace Sys2Proof.Machine

/-- The memory of a state is in its canonical form: addresses strictly rising, no byte equal to what an unlisted address reads as. -/
abbrev State.MemOk (s : State) : Prop := Memory.wf s.mem = true

/-- A step goes on. -/
def State.Goes (s t : State) : Prop := step s = .next t

/-- A run of n steps goes on to its end: no fault of the model and no refusal. The device's own faults are next states, and a run
through them is safe. -/
def State.SafeFor : Nat → State → Prop
  | 0, _ => True
  | n + 1, s => ∃ t, s.Goes t ∧ State.SafeFor n t

end Sys2Proof.Machine
end

