-- ==== Sys2Proof/Vocabulary.lean ====
section
/-! DEFINITION. The words that the statements are written in: lane values as bit vectors of the operation's width (R71), the
state after a lane firing, and what a step of one kind leaves alone. None of it is used by the machine. -/

namespace Sys2Proof.Spec

open Sys2Proof.Machine

/-! ## Lane values (R71) -/

/-- An operand read at a type: its w low bits. -/
def arg (ty : Ty) (v : Word) : BitVec ty.width := v.setWidth ty.width

/-- A result written at a type: sign extended for i types, zero extended otherwise. -/
def ext (ty : Ty) (x : BitVec ty.width) : Word := if isSigned ty then x.signExtend 64 else x.setWidth 64

/-- The integer that an operand denotes. -/
def int (ty : Ty) (v : Word) : Int := if isSigned ty then (arg ty v).toInt else (arg ty v).toNat

/-- A truth value as a predicate (R71). -/
def truth (b : Bool) : Word := if b then 1 else 0

/-- The word of one lane on a port of a firing, the constant included (R25, R142). -/
def word (s : State) (fr : Firing) (f : Fields) (port i : Nat) : Word := (s.operand fr f port i).word

/-- The least integer of a type. -/
def low (ty : Ty) : Int := if isSigned ty then -(2 ^ (ty.width - 1)) else 0
/-- The greatest integer of a type. -/
def high (ty : Ty) : Int := if isSigned ty then 2 ^ (ty.width - 1) - 1 else 2 ^ ty.width - 1
/-- An exact integer clamped to the range of a type, as its w bits. -/
def clamped (ty : Ty) (i : Int) : BitVec ty.width := BitVec.ofInt ty.width (max (low ty) (min (high ty) i))
/-- An exact integer lies outside the range of a type (R149). -/
def outside (ty : Ty) (i : Int) : Bool := decide (i < low ty) || decide (high ty < i)

/-- The count of a shift: X[5:0] at arity 1, else b read as n64 (R153). -/
def count (s : State) (fr : Firing) (f : Fields) (i : Nat) : Nat :=
  if f.ar = 1 ∧ f.kc = false then xbits f.x 0 6 else (word s fr f 1 i).toNat

/-- Ones in bits pos + len - 1 : pos of w bits (R154). -/
def ones (w pos len : Nat) : BitVec w := BitVec.ofNat w ((2 ^ len - 1) * 2 ^ pos)

/-- The relation that SUB names, of what is less, equal, greater: EQ, NE, LT, LE, GT, GE (R155). -/
def relates (sub : Nat) (lt eq gt : Bool) : Bool :=
  match sub with
  | 0 => eq
  | 1 => !eq
  | 2 => lt
  | 3 => lt || eq
  | 4 => gt
  | _ => gt || eq

/-- The f32 bits of the result of an approximation whose 12 significant bits are q, times 2^k, with a sign: an infinity from 2^128 up, a
zero below 2^-126 (R160). -/
def approx (neg : Bool) (q : Nat) (k : Int) : Nat :=
  let top : Int := (q.log2 : Int) + k
  (if neg then 2 ^ 31 else 0)
    + (if 128 ≤ top then 0x7F800000 else if top < -126 then 0 else (top + 126).toNat * 2 ^ 23 + q * 2 ^ 23 / 2 ^ q.log2)

/-! ## The state after a lane firing (R117, R139, R142, R143) -/

/-- The outputs of a firing whose lane i results in `v i`: a poisoned lane keeps the record of its lowest poisoned port, and the
result is a scalar when every token operand is one. -/
def outs (fr : Firing) (v : Nat → Word) : List (Option LVal) :=
  (List.range fr.rl).map fun i =>
    some (match poisonAt fr.ops i with
      | some r => LVal.pois r
      | none => if allScalar fr then .scal (v i) else .runv (v i))

/-- The machine once a lane firing has executed with results v0 for D0 and v1 for D1: the handles among its operands are released,
its result tokens wait in the lane unit, and it is no longer the firing that has issued. -/
def laneDone (s : State) (fr : Firing) (f : Fields) (v0 v1 : Nat → Word) : State :=
  ((s.issued).releaseOps fr).onTile fr.tile fun c =>
    { c with laneOut := c.laneOut ++ [tokensOpt fr f.d0 (outs fr v0) ++ tokensOpt fr f.d1 (outs fr v1)] }

/-- The machine once a run instruction has executed with the given outputs for both destinations (R166). -/
def runDone (s : State) (fr : Firing) (f : Fields) (o : List (Option LVal)) : State :=
  ((s.issued).releaseOps fr).onTile fr.tile fun c =>
    { c with laneOut := c.laneOut ++ [tokensOpt fr f.d0 o ++ tokensOpt fr f.d1 o] }

/-- The words of a run (R166). -/
def run (s : State) (fr : Firing) (f : Fields) : List Word := (List.range fr.rl).map fun i => word s fr f 0 i

/-- The reduction of a list of words by SUB (R167), over the w low bits of each. -/
def reduce (f : Fields) (l : List Word) : Word :=
  let xs : List (BitVec f.ty.width) := l.map (arg f.ty)
  let less (a b : BitVec f.ty.width) : Bool := if isSigned f.ty then a.slt b else a.ult b
  match f.sub.toNat with
  | 0 => ext f.ty (xs.foldl (· + ·) 0)
  | 1 => ext f.ty (xs.foldl (fun a b => if less b a then b else a) (BitVec.ofInt _ (high f.ty)))
  | 2 => ext f.ty (xs.foldl (fun a b => if less a b then b else a) (BitVec.ofInt _ (low f.ty)))
  | 3 => ext f.ty (xs.foldl (· &&& ·) (BitVec.allOnes _))
  | 4 => ext f.ty (xs.foldl (· ||| ·) 0)
  | 5 => ext f.ty (xs.foldl (· ^^^ ·) 0)
  | 8 => writeF f.ty .rn (if l.isEmpty then .fin false 0 0 else exSum .rn (l.map (readF f.ty)))
  | 9 => writeF f.ty .rn (l.foldl (fun a b => a.min (readF f.ty b)) (.inf false))
  | _ => writeF f.ty .rn (l.foldl (fun a b => a.max (readF f.ty b)) (.inf true))

/-- One value for both destinations. -/
def laneDone1 (s : State) (fr : Firing) (f : Fields) (v : Nat → Word) : State := laneDone s fr f v v

/-! ## Firings of group 0x0 (R119 to R138) -/

/-- Every operand of a firing has one value for each of its lanes (R27). -/
abbrev Shaped (fr : Firing) (n : Nat) : Prop := fr.ops.length = n ∧ ∀ o ∈ fr.ops, o.length = fr.rl

/-- No lane of a firing is poisoned on any port. -/
abbrev Clean (fr : Firing) : Prop := ∀ o ∈ fr.ops, ∀ v ∈ o, v.poison? = none

/-- The handles that leave with outputs for a destination. -/
def leaving (d : Option Dest) (o : List (Option LVal)) : List Word := if d.isSome then outHandles o else []

/-- The machine once a firing has put outputs for its two destinations in the lane unit and released the handles `hs`, in the order
given. -/
def steered (s : State) (fr : Firing) (f : Fields) (hs : List Word) (o0 o1 : List (Option LVal)) : State :=
  ((s.issued).releaseAll (tileDie fr.tile) hs).onTile fr.tile fun c =>
    { c with laneOut := c.laneOut ++ [tokensOpt fr f.d0 o0 ++ tokensOpt fr f.d1 o1] }

/-- What SWITCH puts on one arm (R125). -/
def arm (fr : Firing) (b : Bool) : List (Option LVal) :=
  (List.range fr.rl).map fun i =>
    match opAt fr.ops 1 i with
    | .pois r => some (.pois r)
    | p => if p.word.getLsbD 0 = b then some (opAt fr.ops 0 i) else none

/-- What SELECT puts on D0 (R125). -/
def chosen (s : State) (fr : Firing) (f : Fields) : List (Option LVal) :=
  (List.range fr.rl).map fun i =>
    match s.operand fr f 0 i with
    | .pois r => some (.pois r)
    | p => some (if p.word.getLsbD 0 then s.operand fr f 1 i else s.operand fr f 2 i)

/-- What GATE puts on D0 (R126). -/
def gated (fr : Firing) : List (Option LVal) :=
  (List.range fr.rl).map fun i =>
    match opAt fr.ops 0 i, opAt fr.ops 1 i with
    | .pois r, _ => some (.pois r)
    | _, .pois r => some (.pois r)
    | v, _ => some v

/-- One word on every lane of both destinations, but poison where the trigger is poisoned (R134). -/
def constant (s : State) (fr : Firing) (f : Fields) (w : Word) : State :=
  runDone s fr f ((List.range fr.rl).map fun i => some (match poisonAt fr.ops i with
    | some r => LVal.pois r
    | none => .scal w))

/-- An entry constant names an instruction of a resident block that takes n tokens from its port up (R121, R129). -/
abbrev EntryOk (s : State) (fr : Firing) (e : Word) (n : Nat) (x : Entry) : Prop :=
  field e 13 51 = 0 ∧ (s.tile fr.tile).entry fr.ctx (field e 0 4) = some x ∧ field e 4 7 < x.block.words.length
    ∧ field e 11 2 ≠ 3 ∧ (0 < n → field e 11 2 + n ≤ x.block.arity (field e 4 7))

/-- The lanes of a firing. -/
def lanes (fr : Firing) : List Nat := (List.range fr.rl).map (fr.lb + ·)

/-- The link to a destination of a firing's own frame; 0 where there is none (R102, R121). -/
def linkTo (fr : Firing) (d : Option Dest) : Word :=
  match d with
  | some d => w64 (fr.tile + fr.ctx * 2 ^ 14 + fr.fi * 2 ^ 18 + fr.blk * 2 ^ 30 + d.ix.toNat * 2 ^ 34 + d.port.toNat * 2 ^ 41)
  | none => 0

/-- A frame has ended: it is ENDING, nothing is parked in it, and no queue of its tile holds an entry of it (R104). -/
def Ended (t : State) (tile fi : Nat) : Prop :=
  (∃ y, t.frame? tile fi = some y ∧ y.st = .ending ∧ y.parked = [])
    ∧ (∀ q : QId, ∀ e ∈ ((t.tile tile).queue q).ents, e.2.fi ≠ fi)
    ∧ (∀ e ∈ (t.tile tile).held, e.fi ≠ fi) ∧ (∀ e ∈ (t.tile tile).chainHold, e.fi ≠ fi)

/-! ## Buffers (R171 to R200) -/

/-- A firing of one lane has issued, no fault is waiting, and nothing that it takes is poisoned. -/
abbrev One (s : State) (fr : Firing) : Prop := s.issuing = some fr ∧ s.detected = [] ∧ fr.rl = 1 ∧ Clean fr

/-- The handle on a port of a firing of one lane passes steps 1 to 4 of R184. -/
abbrev Uses (s : State) (fr : Firing) (port : Nat) (h : Word) (holder write : Bool) : Prop :=
  opAt fr.ops port 0 = .hand h ∧ handleFault s fr.tile fr.ctx h holder write = none

/-- The memory tile that a handle of a firing names. -/
def home (fr : Firing) (h : Word) : Nat := hTile (tileDie fr.tile) h

/-- The descriptor that a handle of a firing names. -/
def desc (s : State) (fr : Firing) (h : Word) : Desc := (s.mtile (home fr h)).desc (hDesc h)

/-- A kept handle as it leaves again: its bits, with PSN telling the buffer's poison state now (R182, R186). -/
def kept (s : State) (fr : Firing) (h : Word) : LVal := .hand (rehandle s (tileDie fr.tile) h)

/-! ## Row unit, handlers and matrix array (R201 to R251) -/

/-- An operation of a firing begins to count in its frame. -/
def counted (s : State) (fr : Firing) (k : Cnt) : State :=
  s.onFrame fr.tile fr.fi fun x => { x.setCnt k (x.cnt k + 1) with outl := x.outl ++ [(fr.ser, k)] }

/-- A buffer broadcasts to the shape of another (R202). -/
abbrev Fits (d x : Desc) : Prop :=
  (tRows x.shape = tRows d.shape ∨ tRows x.shape = 1) ∧ (tCols x.shape = tCols d.shape ∨ tCols x.shape = 1)

/-- A buffer is of a class of the row unit: integers for true, floats for false (R202). -/
abbrev Class (b : Bool) (x : Desc) : Prop :=
  tScl x.shape = false ∧ if b then tFmt x.shape = 25 ∨ tFmt x.shape = 26 else tFmt x.shape ≤ 3

/-- A buffer may hold a mask of the row unit (R216, R217). -/
abbrev MaskFmt (x : Desc) : Prop := tScl x.shape = false ∧ (tFmt x.shape = 24 ∨ tFmt x.shape = 25 ∨ tFmt x.shape = 26)

/-- A row-unit instruction of one lane has joined the operations of its tile (R203). -/
def rowIssued (s : State) (fr : Firing) (f : Fields) (bad : Option PRec) : State :=
  counted ((s.issued).onTile fr.tile fun c => { c with ruOps := c.ruOps ++ [{ firing := fr, f := f, lane := 0, bad := bad }] }) fr .oto

/-- Group 0x8: one message for each lane of the firing waits for the array's inbox (R35, R458). -/
def messages (s : State) (fr : Firing) (f : Fields) : State :=
  (List.range fr.rl).foldl (fun (s : State) i => counted (s.onTile fr.tile fun c =>
    { c with mxIn := c.mxIn ++ [{ firing := fr, f := f, lane := i, bad := poisonAt fr.ops i }] }) fr .oto) s.issued

/-- A message of the array ends: its outputs leave and OTO falls (R236). -/
def messageEnds (s : State) (g : MxMsg) (d0 : Option LVal) : State :=
  let s := match d0 with
    | some v => s.emit1 g.firing g.f.d0 g.lane v
    | none => s
  (s.emit1 g.firing g.f.d1 g.lane .dn).uncount g.firing .oto

/-- The bits that a destination element (r, k) reads from a source under the broadcast table (R202). -/
def cell (s : State) (b : Buf) (r k : Nat) : Nat :=
  (s.rowVals b.m b.x (if b.rows = 1 then 0 else r)).getD (if b.cols = 1 then 0 else k) 0

/-- Every row of a destination written in ascending order, each from the state that the rows before it leave (R201). -/
def rowsDone (dst : Buf) (v : State → Nat → Nat → Nat) (s : State) : State :=
  (List.range dst.rows).foldl (fun s r => s.rowPut dst.m dst.x r ((List.range dst.cols).map (v s r))) s

/-- A float element result rounded once under RM (R202). -/
def floatRes (c : Nat) (f : Fields) (v : Ex) : Nat := (elemFmt c).encode (RMode.ofCode (xbits f.x 0 3)) false v

/-- An integer element result: modulo 2^32, or clamped to the destination's range with SAT (R202). -/
def intRes (c : Nat) (f : Fields) (i : Int) : Nat :=
  let lo : Int := if c = 25 then -(2 ^ 31) else 0
  let hi : Int := if c = 25 then 2 ^ 31 - 1 else 2 ^ 32 - 1
  ((if xbits f.x 3 1 = 1 then max lo (min hi i) else i) % 2 ^ 32).toNat

/-- The integer value of an element of format I32 or U32. -/
def intElem (c bits : Nat) : Int := if c = 25 then (BitVec.ofNat 32 bits).toInt else (BitVec.ofNat 32 bits).toNat

/-- The elements of a list combined in order, from the first. -/
def folded {α : Type} (z : α) (g : α → α → α) (l : List α) : α :=
  match l with
  | [] => z
  | x :: l => l.foldl g x

/-- A step of TCHAIN on a value v, with the second source's b (R213). -/
def chainOp (w : Word) (v b : Ex) : Ex :=
  let imm := Fmt.f32.decode (field w 32 32)
  match field w 0 4 with
  | 0 => exSum .rn [v, b]
  | 1 => exSum .rn [v, b.neg]
  | 2 => v.mul b
  | 3 => exSum .rn [v, imm]
  | 4 => v.mul imm
  | 5 => v.max imm
  | 6 => v.min imm
  | 7 => actFn (field w 4 4) (BitVec.ofNat 64 (Fmt.f32.encode .rn false v)) v
  | 8 => v.max b
  | 9 => v.min b
  | 10 => exSum .rn [imm, v.neg]
  | _ => exSum .rn [v.mul imm, b]

/-- The value that TCVT takes for a destination element from a source, with its scale in the panel `p` applied exactly (R84, R212). -/
def converted (s : State) (a p : Buf) (dim r k : Nat) : Ex :=
  let v := elemEx a.fmt (cell s a r k)
  let i := if a.rows = 1 then 0 else r
  let j := if a.cols = 1 then 0 else k
  if isMx a.fmt then v.mul (scaleEx (if dim = 0 then s.elemGet p.m p.x i (j / 32) else s.elemGet p.m p.x j (i / 32))) else v

/-- The value at position k of a line of an operand panel: a CB4 code through the table `tab`, an MX element with its scale in the panel `p`
(R81, R84, R87). -/
def panelEx (s : State) (tab : Nat) (b p : Buf) (line k : Nat) (aSide : Bool) : Ex :=
  let bits := if aSide then s.elemGet b.m b.x line k else s.elemGet b.m b.x k line
  if b.fmt = 21 then Fmt.e4m3.decode (tab / 2 ^ (8 * bits) % 2 ^ 8)
  else if isMx b.fmt then (elemEx b.fmt bits).mul (scaleEx (s.elemGet p.m p.x line (k / 32)))
  else elemEx b.fmt bits

/-- The FP32 bits of an exact value, rounded once to nearest even. -/
def f32 (v : Ex) : Nat := Fmt.f32.encode .rn false v % 2 ^ 32

/-- The rounding of TCVT and CONVERT at an element: a generator for each destination row under mode 4 (R92, R212). -/
def cvtMode (rm : Nat) (k : Word) (r c : Nat) : RMode := if rm = 4 then .sr (srG (srAfter k r (c + 1))) else RMode.ofCode rm

/-- A handler after a change: one that becomes runnable takes its age (R219). -/
def aged (s : State) (x y : Hnd) : Hnd := if x.runnable = false ∧ y.runnable = true then { y with since := s.clk } else y

/-! ## The memory port (R273 to R324) -/

/-- An operation with requests to send has entered the issue list of its port and counts in its frame (R273, R277). -/
def took (s : State) (k : Cnt) (o : MemOp) : State :=
  (counted { s with opno := s.opno + 1 } o.firing k).onTile o.firing.tile fun c => { c with
    mops := c.mops ++ [{ o with id := s.opno, jid := (s.jobOf o.firing).getD 0, cnt := some k }] }

/-- An operation of a firing, with nothing settled. -/
def portOp (fr : Firing) (f : Fields) (op : Nat) (ps : List Piece) (rel : List Nat) : MemOp :=
  { id := 0, firing := fr, f := f, op := op, jid := 0, pieces := ps, rel := rel }

/-- The serials of the operations that a frame has outstanding: the release set (R305). -/
def before (s : State) (fr : Firing) : List Nat :=
  match s.frameOf fr with
  | some x => x.outl.map (·.1)
  | none => []

/-- A request of groups 0xC to 0xE for each lane, with the lane's operand words (R359, R384). -/
def asked (s : State) (fr : Firing) (f : Fields) (op : Nat) (k : Cnt) : State :=
  took ((s.issued).releaseOps fr) k (portOp fr f op ((List.range fr.rl).map fun i =>
    { va := 0, lane := i, acc := .sys op f.sub.toNat (word s fr f 0 i) (word s fr f 1 i) (word s fr f 2 i) }) [])

/-- An access for each lane at the lane's address, with a release set (R324). -/
def homeAsked (s : State) (fr : Firing) (f : Fields) (op : Nat) (k : Cnt) (rel : Bool) (acc : Nat → AccOp) : State :=
  took ((s.issued).releaseOps fr) k (portOp fr f op ((List.range fr.rl).map fun i =>
    { va := BitVec.ofNat 64 (addr (word s fr f 0 i)), acc := acc i, lane := i }) (if rel then before s fr else []))

/-- Every lane of a firing names an address of an alignment that is not in host memory, and where `near` not of another module
(R303, R324). -/
abbrev Aligned (s : State) (fr : Firing) (f : Fields) (n : Nat) (near : Bool) : Prop :=
  ∀ i < fr.rl, let a := word s fr f 0 i
    addr a % n = 0 ∧ (vaG a = false → vaHome a ≠ 0x20) ∧ (near = true → vaG a = false)

/-! ## Home slices (R300 to R340) -/

/-- Request n on its way is an access of this module's device memory; no earlier access, no release set and no flush holds it back
(R253, R275, R303, R305, R426). -/
abbrev Arrives (s : State) (n : Nat) (r : Req) : Prop :=
  s.net[n]? = some r ∧ r.src ≠ .outside ∧ r.held = false ∧ earlierSame s n r = false ∧ relWaits s r = false ∧ relFlush s r = none
    ∧ vaG r.piece.va = false ∧ vaHome r.piece.va ≠ 0x20

/-- Nothing at the slice of a physical address holds an access to it back, and its granule is sound there (R329, R334, R404, R407). -/
abbrev Open (s : State) (d pa : Nat) : Prop :=
  (s.mdie d).isbusy = false ∧ ((s.mdie d).slice (sliceOf pa)).stall = none ∧ ((s.mdie d).slice (sliceOf pa)).wait = none
    ∧ ((s.mdie d).slice (sliceOf pa)).df = [] ∧ s.abBad d pa = false ∧ (s.pcNow d (pcOf pa)).refreshing s.clk = false

/-- Request n on its way, whole, may perform: at its owner `d` it is checked, and performs at the physical address `pa` of the page of
lease entry `e` (R253, R259, R310, R320, R417). -/
abbrev Performs (s : State) (n : Nat) (r : Req) (d pa : Nat) (e : LEnt) : Prop :=
  Arrives s n r ∧ r.loc = none ∧ r.part = none ∧ ownerOf s r.piece.va = .ok (some d) ∧ s.spokeOpen d r.piece.va r.id = true
    ∧ leaseCheck s d r.jid r.piece.va r.piece.acc.need = .ok (pa, e) ∧ pageFlips s d pa = false ∧ nbits e.perm 4 1 = 0 ∧ Open s d pa

/-- Contribution n on its way from a switch may perform at its home slice in this module (R338, R339, R429). -/
abbrev Comes (s : State) (n : Nat) (r : Req) (d pa : Nat) (e : LEnt) : Prop :=
  s.net[n]? = some r ∧ r.src = .outside ∧ r.held = false ∧ earlierSame s n r = false ∧ r.loc = none ∧ r.part = none
    ∧ vaHome (homeVa r.piece.va) ≠ 0x20 ∧ ownerOf s (homeVa r.piece.va) = .ok (some d) ∧ s.spokeOpen d r.piece.va r.id = true
    ∧ leaseCheck s d r.jid (homeVa r.piece.va) .aw = .ok (pa, e) ∧ pageFlips s d pa = false ∧ nbits e.perm 4 1 = 0 ∧ Open s d pa

/-- The two halves of a bf16 pair, each computed from the same halves of some words and rounded once (R324, R325, R326). -/
def bfHalves (g : List Ex → Ex) (l : List Word) : Word :=
  let half (lo : Nat) : Nat := Fmt.bf16.encode .rn false (g (l.map fun v => Fmt.bf16.decode (field v lo 16))) % 2 ^ 16
  BitVec.ofNat 64 (half 0 + half 16 * 2 ^ 16)

/-- A request whose address its die has translated. -/
def located (r : Req) (d pa : Nat) : Req := { r with loc := some (d, pa, false) }

/-- Where a byte of a memory die stands. -/
def hbmAt (d pa : Nat) : Nat := hbmAddr (d - 8) pa

/-- A request has performed: it is no longer on its way, and its one reply carries the two outputs of its lane. -/
def Answered (s u : State) (n : Nat) (r : Req) (v0 v1 : LVal) : Prop :=
  u.net = dropNth s.net n ∧ u.reps = s.reps ++ [{ req := r, vals := [(r.piece.lane, v0, v1)] }]

/-- The memory of a state is that of another with one number in n bytes at an address. -/
def Wrote (s u : State) (a n x : Nat) : Prop :=
  u.readN a n = x % 2 ^ (8 * n) ∧ ∀ b, b < a ∨ a + n ≤ b → u.byte b = s.byte b

/-- The requests that wait for a word's tag at a slice. -/
def waiting (s : State) (d pa : Nat) : List (Nat × Req) := ((s.mdie d).slice (sliceOf pa)).idq

/-! ## The switch die (R341 to R443) -/

/-- A table's keys rise. -/
abbrev Sorted {α : Type} (l : AList α) : Prop := (l.map (·.1)).Pairwise (· < ·)

/-- A version of the resource map has been published: VERSION is one higher, its change record stands in the log, and no MAPRD.WAIT is
left (R387, R392, R400). -/
def Published (s u : State) (event : Nat) (deg : Bool) (item ikind : Nat) : Prop :=
  u.version = s.version + 1 ∧ u.mapWord (512 + (s.version + 1) % 64) = changeRecord event deg item ikind (s.version + 1) ∧ u.sw.mwaits = []

/-- An access of n bytes by a job, in the class of pushes or not, may perform now: no snoop is asked for, and nothing at the slices waits
for it (R301, R309, R329, R333, R390). -/
abbrev Ready (s : State) (jid : Nat) (va : Word) (n : Nat) (need : Need) (tc1 : Bool := false) : Prop :=
  s.jobGate jid va n need tc1 = (s, true) ∧ s.sw.snoops = [] ∧ s.lineDone = s

/-- A push of one entry to a queue that is OPEN, not full, and stored in device memory (R344, R345). -/
def pushedTo (s : State) (q d pa : Nat) (bs : List Byte) : State :=
  forget ((s.dramWrite d pa bs).onQueue q fun y => { y with
    tail := (y.tail + 1) % 2 ^ 32, since := if y.occ = 0 then s.clk else y.since, pushed := s.clk + 1, slot := s.clk + 1 }) q (s.queue q).tail

/-- The place of a queue's next entry: the queue is OPEN and not full, and its owner has the slot leased with W. -/
abbrev Pushable (s : State) (q d pa : Nat) : Prop :=
  let x := s.queue q
  x.state = 1 ∧ x.full = false ∧ x.ctl = none ∧ locate s x.jid (x.slotVa x.tail) .w = .ok (.dram d pa)
    ∧ Ready s x.jid (x.slotVa x.tail) 64 .w true

/-- The reply to a contribution to a round of an edge-adder group, with its status (R433). -/
def roundReply (r : Req) (n : Nat) : Rep := { req := r, vals := [(r.piece.lane, .dn, .scal (BitVec.ofNat 64 n))] }

/-! ## Firmware (R437) -/

/-- n bytes of an image from an offset, the lowest address least significant. -/
def bytesNat (i : List Byte) (off n : Nat) : Nat := ofBytes ((i.drop off).take n)

/-- The number of the first check of R437 that an image fails at a die: the magic, the class and the zero word; the ECDSA signature and the
LMS signature over bytes 0x000 to 0x03F; SVN; the digest of the body. 0 when it passes all. -/
def firstFailed (d : Nat) (i : List Byte) : Nat :=
  let cls := if d < 8 then 0 else if d < 12 then 1 else 2
  if bytesNat i 0x000 4 ≠ 0x4E574631 ∨ bytesNat i 0x004 2 ≠ cls ∨ bytesNat i 0xB0C 4 ≠ 0 then 1
  else if Config.ecdsaVerifies (i.take 0x40) ((i.drop 0x40).take 0x60) = false then 2
  else if Config.lmsVerifies (i.take 0x40) ((i.drop 0xA0).take 0xA6C) = false then 3
  else if bytesNat i 0x006 2 < Config.minSvn cls then 4
  else if (i.drop 0x10).take 0x30 ≠ Config.sha384 ((i.drop 0xB10).take (bytesNat i 0x008 8)) then 5
  else 0

/-! ## Words and registers (R47, R375) -/

/-- A word from its fields, the highest first, as R47 lays them out: OP 8, SUB 4, TY 4, AR 2, KC 1, SL 7, CK 6, D0 10, D1 10, X 12. -/
def laid (op sub ty ar kc sl ck d0 d1 x : Nat) : Word :=
  ((BitVec.ofNat 8 op ++ BitVec.ofNat 4 sub ++ BitVec.ofNat 4 ty ++ BitVec.ofNat 2 ar ++ BitVec.ofNat 1 kc ++ BitVec.ofNat 7 sl
    ++ BitVec.ofNat 6 ck ++ BitVec.ofNat 10 d0 ++ BitVec.ofNat 10 d1 ++ BitVec.ofNat 12 x : BitVec 64))

/-- The instructions of groups 0x1 to 0x4, which the lane unit executes (R139). -/
def laneInstrs (f : Fields) : List Instr :=
  [.add f, .sub f, .mul f, .mulh f, .mad f, .div f, .rem f, .min f, .max f, .abs f, .neg f, .addx f, .lea f, .clz f, .popc f, .brev f,
    .and f, .or f, .xor f, .not f, .shl f, .shr f, .sha f, .rot f, .bfx f, .bfi f, .cmp f, .fcmp f, .plog f, .fadd f, .fsub f, .fmul f,
    .ffma f, .fmin f, .fmax f, .fabs f, .fneg f, .rcpa f, .rsqa f, .rcpr f, .rsqr f, .expa f, .loga f, .fsqrt f, .fdiv f, .cvtii f,
    .cvtif f, .cvtfi f, .cvtff f, .packn f, .unpkn f, .runred f, .runscan f, .runshf f, .runbc f, .lane f]

end Sys2Proof.Spec
end

