-- ==== Sys2Proof/Certificates/Slice0/Obligations.lean ====
section
/-! DEFINITION. The statements for the provers. -/

open Sys2Proof Sys2Proof.Machine Sys2Proof.Spec

/-! ## The lane unit -/

/-- R146, R72: ADD, SUB, MUL and MAD keep the w low bits of the exact result; MULH keeps the high w bits of the exact product, signed
for an i type. -/
def Obligations.IntegerArithmetic : Prop :=
  ∀ (s : State) (fr : Firing) (f : Fields), s.issuing = some fr →
    let a (i : Nat) : BitVec f.ty.width := arg f.ty (word s fr f 0 i)
    let b (i : Nat) : BitVec f.ty.width := arg f.ty (word s fr f 1 i)
    let c (i : Nat) : BitVec f.ty.width := arg f.ty (word s fr f 2 i)
    exec (.add f) s = .next (laneDone1 s fr f fun i => ext f.ty (a i + b i))
    ∧ exec (.sub f) s = .next (laneDone1 s fr f fun i => ext f.ty (a i - b i))
    ∧ exec (.mul f) s = .next (laneDone1 s fr f fun i => ext f.ty (a i * b i))
    ∧ exec (.mad f) s = .next (laneDone1 s fr f fun i => ext f.ty (a i * b i + c i))
    ∧ exec (.mulh f) s = .next (laneDone1 s fr f fun i =>
        ext f.ty (BitVec.ofInt f.ty.width ((int f.ty (word s fr f 0 i) * int f.ty (word s fr f 1 i)) >>> f.ty.width)))

/-- R147: DIV and REM truncate toward zero, and the one overflow wraps. With no lane that divides by zero the firing completes.
R147, R371: with D = 0 and a lane that divides by zero, DIV and REM emit nothing and take Fault(0x08), which names port b, the lowest such
lane and the dividend; that w5 holds its token's 64 bits is the model's choice (log entry 115).
R147, R116: with D = 1 the lanes that divide by zero emit poison with that cause and port b, whose record names the lowest lane of its
range of such lanes, and the others emit their results; a poisoned lane passes its poison on. -/
def Obligations.Divides : Prop :=
  (∀ (s : State) (fr : Firing) (f : Fields), s.issuing = some fr →
      (∀ i < fr.rl, poisonAt fr.ops i = none → arg f.ty (word s fr f 1 i) ≠ 0) →
      let a (i : Nat) : BitVec f.ty.width := arg f.ty (word s fr f 0 i)
      let b (i : Nat) : BitVec f.ty.width := arg f.ty (word s fr f 1 i)
      exec (.div f) s = .next (laneDone1 s fr f fun i => ext f.ty (if isSigned f.ty then (a i).sdiv (b i) else (a i).udiv (b i)))
      ∧ exec (.rem f) s = .next (laneDone1 s fr f fun i => ext f.ty (if isSigned f.ty then (a i).srem (b i) else (a i).umod (b i))))
  ∧ (∀ (s : State) (fr : Firing) (f : Fields) (n : Nat), s.issuing = some fr → f.x.getLsbD 0 = false →
      n < fr.rl → poisonAt fr.ops n = none → arg f.ty (word s fr f 1 n) = 0 →
      (∀ i < n, poisonAt fr.ops i = none → arg f.ty (word s fr f 1 i) ≠ 0) →
      ∀ i, i = .div f ∨ i = .rem f →
        exec i s = .next (((s.issued).releaseOps fr).raise fr { cause := 0x08, port := 1, lane := n, extra := word s fr f 0 n }))
  ∧ (∀ (s : State) (fr : Firing) (f : Fields), s.issuing = some fr → f.x.getLsbD 0 = true →
      let a (i : Nat) : BitVec f.ty.width := arg f.ty (word s fr f 0 i)
      let b (i : Nat) : BitVec f.ty.width := arg f.ty (word s fr f 1 i)
      let fails (i : Nat) : Bool := (poisonAt fr.ops i).isNone && b i == 0
      let lowest (i : Nat) : Nat := i + 1 - ((List.range (i + 1)).reverse.takeWhile fails).length
      let emits (v : Nat → Word) : List (Option LVal) := (List.range fr.rl).map fun i => some (match poisonAt fr.ops i with
        | some r => LVal.pois r
        | none =>
          if fails i then .pois (poisonOf fr 0x08 1 (fr.lb + lowest i) 0) else if allScalar fr then .scal (v i) else .runv (v i))
      exec (.div f) s = .next (runDone s fr f (emits fun i => ext f.ty (if isSigned f.ty then (a i).sdiv (b i) else (a i).udiv (b i))))
      ∧ exec (.rem f) s = .next (runDone s fr f (emits fun i => ext f.ty (if isSigned f.ty then (a i).srem (b i) else (a i).umod (b i)))))

/-- R148: MIN and MAX by the type's order; ABS and NEG wrap at the least value, and with .SAT give the greatest instead. -/
def Obligations.MinMaxAbsNeg : Prop :=
  ∀ (s : State) (fr : Firing) (f : Fields), s.issuing = some fr →
    let a (i : Nat) : BitVec f.ty.width := arg f.ty (word s fr f 0 i)
    let b (i : Nat) : BitVec f.ty.width := arg f.ty (word s fr f 1 i)
    let x (i : Nat) : Int := int f.ty (word s fr f 0 i)
    let y (i : Nat) : Int := int f.ty (word s fr f 1 i)
    exec (.min f) s = .next (laneDone1 s fr f fun i => ext f.ty (if y i < x i then b i else a i))
    ∧ exec (.max f) s = .next (laneDone1 s fr f fun i => ext f.ty (if x i < y i then b i else a i))
    ∧ (isSigned f.ty = true → exec (.abs f) s = .next (laneDone1 s fr f fun i =>
        ext f.ty (if f.sub = 1 ∧ a i = BitVec.intMin f.ty.width then BitVec.intMax f.ty.width else (a i).abs)))
    ∧ (isSigned f.ty = true ∨ f.sub = 0 → exec (.neg f) s = .next (laneDone1 s fr f fun i =>
        ext f.ty (if f.sub = 1 ∧ a i = BitVec.intMin f.ty.width then BitVec.intMax f.ty.width else -(a i))))

/-- R149: the sum or difference of ADDX on D0, with the carry or borrow bit c[0] for .C and .B, clamped for .S and .SS; and on D1
whether the exact result lies outside the type's range. -/
def Obligations.AddWithFlag : Prop :=
  ∀ (s : State) (fr : Firing) (f : Fields), s.issuing = some fr →
    let a (i : Nat) : BitVec f.ty.width := arg f.ty (word s fr f 0 i)
    let b (i : Nat) : BitVec f.ty.width := arg f.ty (word s fr f 1 i)
    let x (i : Nat) : Int := int f.ty (word s fr f 0 i)
    let y (i : Nat) : Int := int f.ty (word s fr f 1 i)
    let c (i : Nat) : Nat := ((word s fr f 2 i).getLsbD 0).toNat
    (f.sub = 0 → exec (.addx f) s = .next (laneDone s fr f (fun i => ext f.ty (a i + b i + BitVec.ofNat _ (c i)))
        fun i => truth (outside f.ty (x i + y i + c i))))
    ∧ (f.sub = 1 → exec (.addx f) s = .next (laneDone s fr f (fun i => ext f.ty (clamped f.ty (x i + y i)))
        fun i => truth (outside f.ty (x i + y i))))
    ∧ (f.sub = 2 → exec (.addx f) s = .next (laneDone s fr f (fun i => ext f.ty (clamped f.ty (x i - y i)))
        fun i => truth (outside f.ty (x i - y i))))
    ∧ (f.sub = 3 → exec (.addx f) s = .next (laneDone s fr f (fun i => ext f.ty (a i - b i - BitVec.ofNat _ (c i)))
        fun i => truth (outside f.ty (x i - y i - c i))))

/-- R150: the result of LEA is a[56:0] + b * 2^X[3:0] + c modulo 2^57, with no c when arity is below 3 and KC = 0, or the constant
supplies b. -/
def Obligations.LoadAddress : Prop :=
  ∀ (s : State) (fr : Firing) (f : Fields), s.issuing = some fr →
    exec (.lea f) s = .next (laneDone1 s fr f fun i =>
      (((word s fr f 0 i).setWidth 57 + (word s fr f 1 i <<< xbits f.x 0 4).setWidth 57
        + (if f.ar = 3 ∨ (f.ar = 2 ∧ f.kc = true) then (word s fr f 2 i).setWidth 57 else 0) : BitVec 57)).setWidth 64)

/-- R151, R152: CLZ, POPC, BREV; AND, OR, XOR and NOT bitwise; each over the w low bits, written at the type.
R154: BFX takes bits pos + len - 1 : pos, with zeros or copies of the top bit above; BFI replaces those bits by the low ones of b.
The loader rejects pos + len above w. -/
def Obligations.BitOperations : Prop :=
  (∀ (s : State) (fr : Firing) (f : Fields), s.issuing = some fr →
      let a (i : Nat) : BitVec f.ty.width := arg f.ty (word s fr f 0 i)
      let b (i : Nat) : BitVec f.ty.width := arg f.ty (word s fr f 1 i)
      exec (.clz f) s = .next (laneDone1 s fr f fun i => ext f.ty (a i).clz)
      ∧ exec (.popc f) s = .next (laneDone1 s fr f fun i => ext f.ty (a i).cpop)
      ∧ exec (.brev f) s = .next (laneDone1 s fr f fun i => ext f.ty (a i).reverse)
      ∧ exec (.and f) s = .next (laneDone1 s fr f fun i => ext f.ty (a i &&& b i))
      ∧ exec (.or f) s = .next (laneDone1 s fr f fun i => ext f.ty (a i ||| b i))
      ∧ exec (.xor f) s = .next (laneDone1 s fr f fun i => ext f.ty (a i ^^^ b i))
      ∧ exec (.not f) s = .next (laneDone1 s fr f fun i => ext f.ty (~~~(a i))))
  ∧ (∀ (s : State) (fr : Firing) (f : Fields), s.issuing = some fr →
      let pos := xbits f.x 0 6
      let len := xbits f.x 6 6 + 1
      let a (i : Nat) : BitVec f.ty.width := arg f.ty (word s fr f 0 i)
      let b (i : Nat) : BitVec f.ty.width := arg f.ty (word s fr f 1 i)
      pos + len ≤ f.ty.width →
      (f.sub = 0 → exec (.bfx f) s = .next (laneDone1 s fr f fun i => ext f.ty (((a i).extractLsb' pos len).setWidth f.ty.width)))
      ∧ (f.sub = 1 → exec (.bfx f) s = .next (laneDone1 s fr f fun i => ext f.ty (((a i).extractLsb' pos len).signExtend f.ty.width)))
      ∧ exec (.bfi f) s = .next (laneDone1 s fr f fun i =>
          ext f.ty ((a i &&& ~~~(ones f.ty.width pos len)) ||| ((b i <<< pos) &&& ones f.ty.width pos len))))

/-- R153: the shifts, zero or sign from w up, and the rotations modulo w. -/
def Obligations.Shifts : Prop :=
  ∀ (s : State) (fr : Firing) (f : Fields), s.issuing = some fr →
    let a (i : Nat) : BitVec f.ty.width := arg f.ty (word s fr f 0 i)
    let n (i : Nat) : Nat := count s fr f i
    exec (.shl f) s = .next (laneDone1 s fr f fun i => ext f.ty (a i <<< n i))
    ∧ exec (.shr f) s = .next (laneDone1 s fr f fun i => ext f.ty (a i >>> n i))
    ∧ exec (.sha f) s = .next (laneDone1 s fr f fun i => ext f.ty ((a i).sshiftRight (n i)))
    ∧ (f.sub = 0 → exec (.rot f) s = .next (laneDone1 s fr f fun i => ext f.ty ((a i).rotateLeft (n i))))
    ∧ (f.sub = 1 → exec (.rot f) s = .next (laneDone1 s fr f fun i => ext f.ty ((a i).rotateRight (n i))))

/-- R155, R156: CMP by the type's order; FCMP with a NaN on either side is unordered, where only NE and UO hold; PLOG takes bit
4 c + 2 b + a of its table, each read as bit 0. -/
def Obligations.Compares : Prop :=
  ∀ (s : State) (fr : Firing) (f : Fields), s.issuing = some fr →
    let x (i : Nat) : Int := int f.ty (word s fr f 0 i)
    let y (i : Nat) : Int := int f.ty (word s fr f 1 i)
    let u (i : Nat) : Ex := readF f.ty (word s fr f 0 i)
    let v (i : Nat) : Ex := readF f.ty (word s fr f 1 i)
    let p (port i : Nat) : Nat := ((word s fr f port i).getLsbD 0).toNat
    (f.sub.toNat < 6 → exec (.cmp f) s = .next (laneDone1 s fr f fun i => truth (relates f.sub.toNat (decide (x i < y i)) (decide (x i = y i)) (decide (y i < x i)))))
    ∧ (f.sub.toNat < 8 → exec (.fcmp f) s = .next (laneDone1 s fr f fun i => truth
        (if u i = .nan ∨ v i = .nan then f.sub.toNat == 1 || f.sub.toNat == 6
         else if f.sub.toNat = 6 then false else if f.sub.toNat = 7 then true
         else relates f.sub.toNat ((u i).lt (v i)) ((u i).eq (v i)) ((v i).lt (u i)))))
    ∧ exec (.plog f) s = .next (laneDone1 s fr f fun i => truth (f.x.getLsbD (4 * p 2 i + 2 * p 1 i + p 0 i)))

/-- R157 to R159: FADD, FSUB, FMUL and FFMA round the exact result once under SUB's mode; FDIV and FSQRT round under RNE; FMIN and FMAX
give the canonical NaN for a NaN operand, or with .NUM the other operand; FABS clears the sign bit and FNEG inverts it. -/
def Obligations.FloatArithmetic : Prop :=
  ∀ (s : State) (fr : Firing) (f : Fields), s.issuing = some fr →
    let m := RMode.ofCode f.sub.toNat
    let x (i : Nat) : Ex := readF f.ty (word s fr f 0 i)
    let y (i : Nat) : Ex := readF f.ty (word s fr f 1 i)
    let z (i : Nat) : Ex := readF f.ty (word s fr f 2 i)
    let a (i : Nat) : BitVec f.ty.width := arg f.ty (word s fr f 0 i)
    let once (mode : RMode) (v : Ex) : Word := w64 ((fmtOf f.ty).encode mode false v)
    exec (.fadd f) s = .next (laneDone1 s fr f fun i => once m (exSum m [x i, y i]))
    ∧ exec (.fsub f) s = .next (laneDone1 s fr f fun i => once m (exSum m [x i, (y i).neg]))
    ∧ exec (.fmul f) s = .next (laneDone1 s fr f fun i => once m ((x i).mul (y i)))
    ∧ exec (.ffma f) s = .next (laneDone1 s fr f fun i => once m (exSum m [(x i).mul (y i), z i]))
    ∧ exec (.fdiv f) s = .next (laneDone1 s fr f fun i => once .rn ((x i).div (y i)))
    ∧ exec (.fsqrt f) s = .next (laneDone1 s fr f fun i => once .rn (x i).sqrt)
    ∧ exec (.fmin f) s = .next (laneDone1 s fr f fun i => once .rn
        (if x i = .nan ∨ y i = .nan then
           (if f.sub = 1 then (if x i = .nan then y i else x i) else .nan)
         else (x i).min (y i)))
    ∧ exec (.fmax f) s = .next (laneDone1 s fr f fun i => once .rn
        (if x i = .nan ∨ y i = .nan then
           (if f.sub = 1 then (if x i = .nan then y i else x i) else .nan)
         else (x i).max (y i)))
    ∧ exec (.fabs f) s = .next (laneDone1 s fr f fun i => (a i &&& ~~~(BitVec.intMin f.ty.width)).setWidth 64)
    ∧ exec (.fneg f) s = .next (laneDone1 s fr f fun i => (a i ^^^ BitVec.intMin f.ty.width).setWidth 64)

/-- R160: RCPA, RSQA, EXPA and LOGA give what `rcpa`, `rsqa`, `expa` and `loga` give for the operand read as f32: for a NaN, an infinity, a
zero and a negative operand what the table says; 1/x and 1/√x rounded to 12 significant bits, with the two range rules; the exact power of
two for an integer operand of EXPA, +∞ from 128 up and +0 from -128 down; the exact logarithm of a power of two.
R161: one Newton step, which gives the canonical NaN for a NaN operand and passes b through
unchanged when either operand is a zero or an infinity. -/
def Obligations.Approximations : Prop :=
  ∀ (s : State) (fr : Firing) (f : Fields), s.issuing = some fr →
    let x (i : Nat) : Ex := readF f.ty (word s fr f 0 i)
    let y (i : Nat) : Ex := readF f.ty (word s fr f 1 i)
    let round (v : Ex) : Ex := (fmtOf f.ty).decode ((fmtOf f.ty).encode .rn false v)
    let one : Ex := .fin false 1 0
    let flat (v : Ex) : Prop := (∃ n, v = .inf n) ∨ (∃ n e, v = .fin n 0 e)
    exec (.rcpa f) s = .next (laneDone1 s fr f fun i => w64 (rcpa (Fmt.f32.decode ((word s fr f 0 i).toNat % 2 ^ 32))))
    ∧ exec (.rsqa f) s = .next (laneDone1 s fr f fun i => w64 (rsqa (Fmt.f32.decode ((word s fr f 0 i).toNat % 2 ^ 32))))
    ∧ exec (.expa f) s = .next (laneDone1 s fr f fun i => w64 (expa ((word s fr f 0 i).toNat % 2 ^ 32)))
    ∧ exec (.loga f) s = .next (laneDone1 s fr f fun i => w64 (loga ((word s fr f 0 i).toNat % 2 ^ 32)))
    ∧ (rcpa .nan = 0x7FC00000 ∧ rsqa .nan = 0x7FC00000
      ∧ ∀ n e, rcpa (.inf n) = (if n then 2 ^ 31 else 0) ∧ rcpa (.fin n 0 e) = approx n 1 128
        ∧ rsqa (.inf n) = (if n then 0x7FC00000 else 0) ∧ rsqa (.fin n 0 e) = approx n 1 128)
    ∧ (∀ (n : Bool) (m j : Nat) (e : Int), 2048 * m ≤ 2 ^ j → 2 ^ j < 4096 * m →
        rcpa (.fin n m e) = approx n ((2 ^ (j + 1) + m) / (2 * m)) (-(j : Int) - e))
    ∧ (∀ (m : Nat) (e : Int), 0 < m → rsqa (.fin true m e) = 0x7FC00000)
    ∧ (∀ (m q j : Nat) (e : Int), 2048 ^ 2 * m ≤ 4 ^ j → 4 ^ j < 4096 ^ 2 * m → (2 * q - 1) ^ 2 * m ≤ 4 ^ (j + 1) → 4 ^ (j + 1) < (2 * q + 1) ^ 2 * m →
        rsqa (.fin false m (2 * e)) = approx false q (-(j : Int) - e))
    ∧ (∀ (m q j : Nat) (e : Int), 2048 ^ 2 * (2 * m) ≤ 4 ^ j → 4 ^ j < 4096 ^ 2 * (2 * m) → (2 * q - 1) ^ 2 * (2 * m) ≤ 4 ^ (j + 1) →
        4 ^ (j + 1) < (2 * q + 1) ^ 2 * (2 * m) → rsqa (.fin false m (2 * e + 1)) = approx false q (-(j : Int) - e))
    ∧ (∀ b : Nat, b < 2 ^ 32 → let v := Fmt.f32.decode b
        (v = .nan → expa b = 0x7FC00000 ∧ loga b = 0x7FC00000)
        ∧ (v = .inf false → expa b = 0x7F800000 ∧ loga b = 0x7F800000)
        ∧ (v = .inf true → expa b = 0 ∧ loga b = 0x7FC00000)
        ∧ (∀ n e, v = .fin n 0 e → expa b = 0x3F800000 ∧ loga b = 0xFF800000)
        ∧ (∀ m e, 0 < m → v = .fin true m e → loga b = 0x7FC00000)
        ∧ (∀ n m e (i : Nat), v = .fin n m e → m * 2 ^ e.toNat = i * 2 ^ (-e).toNat → expa b = approx false 1 (if n then -(i : Int) else i))
        ∧ (∀ m e, v = .fin false m e → 128 * 2 ^ (-e).toNat ≤ m * 2 ^ e.toNat → expa b = 0x7F800000)
        ∧ (∀ m e, v = .fin true m e → 128 * 2 ^ (-e).toNat ≤ m * 2 ^ e.toNat → expa b = 0)
        ∧ (∀ (a : Nat) (e : Int), v = .fin false (2 ^ a) e → loga b = Fmt.f32.encode .rn false (Ex.ofInt ((a : Int) + e) 0)))
    ∧ (∃ v : Nat → Word, exec (.rcpr f) s = .next (laneDone1 s fr f v) ∧ ∀ i,
        ((x i = .nan ∨ y i = .nan) → v i = w64 ((fmtOf f.ty).encode .rn false .nan))
        ∧ (x i ≠ .nan → y i ≠ .nan → (flat (x i) ∨ flat (y i)) → v i = (arg f.ty (word s fr f 1 i)).setWidth 64)
        ∧ (x i ≠ .nan → y i ≠ .nan → ¬ flat (x i) → ¬ flat (y i) →
            v i = w64 ((fmtOf f.ty).encode .rn false
              (exSum .rn [y i, (y i).mul (round (exSum .rn [one, ((x i).mul (y i)).neg]))]))))
    ∧ (∃ v : Nat → Word, exec (.rsqr f) s = .next (laneDone1 s fr f v) ∧ ∀ i,
        ((x i = .nan ∨ y i = .nan) → v i = w64 ((fmtOf f.ty).encode .rn false .nan))
        ∧ (x i ≠ .nan → y i ≠ .nan → (flat (x i) ∨ flat (y i)) → v i = (arg f.ty (word s fr f 1 i)).setWidth 64)
        ∧ (x i ≠ .nan → y i ≠ .nan → ¬ flat (x i) → ¬ flat (y i) →
            v i = w64 ((fmtOf f.ty).encode .rn false
              (exSum .rn [y i, ((y i).mul (round (exSum .rn [one, ((x i).mul (round ((y i).mul (y i)))).neg]))).scale (-1)]))))

/-- R162 to R165: CVTII keeps the low bits or clamps; CVTIF rounds the exact integer; CVTFI rounds and saturates; CVTFF converts under
SUB's mode or the stochastic one; PACKN packs two elements, b above a, under .SR each with a step of its own, a's first; UNPKN takes one out, an integer with its sign. -/
def Obligations.Conversions : Prop :=
  ∀ (s : State) (fr : Firing) (f : Fields), s.issuing = some fr →
    let x := f.x.toNat
    let t := tgtTy x
    let m := RMode.ofCode f.sub.toNat
    let i0 (i : Nat) : Int := int f.ty (word s fr f 0 i)
    let f0 (i : Nat) : Ex := readF f.ty (word s fr f 0 i)
    let f1 (i : Nat) : Ex := readF f.ty (word s fr f 1 i)
    let w := tgtWidth x
    (f.sub = 0 → exec (.cvtii f) s = .next (laneDone1 s fr f fun i => ext t (BitVec.ofInt _ (i0 i))))
    ∧ (f.sub = 1 → exec (.cvtii f) s = .next (laneDone1 s fr f fun i => ext t (clamped t (i0 i))))
    ∧ exec (.cvtif f) s = .next (laneDone1 s fr f fun i => w64 ((tgtFmt x).encode m false (Ex.ofInt (i0 i) 0)))
    ∧ exec (.cvtfi f) s = .next (laneDone1 s fr f fun i => ext t (BitVec.ofInt _ (exToInt m (low t) (high t) (f0 i))))
    ∧ (f.sub.toNat < 4 → exec (.cvtff f) s = .next (laneDone1 s fr f fun i => w64 ((tgtFmt x).encode m (decide ((tgtFmt x).width ≤ 8)) (f0 i))))
    ∧ (f.sub = 4 → exec (.cvtff f) s = .next (laneDone1 s fr f fun i =>
        w64 ((tgtFmt x).encode (.sr (srG (srStep (srSeed (s.constOf fr f.ck.toNat) (fr.lb + i)))))
          (decide ((tgtFmt x).width ≤ 8) || x == 2 || x == 3) (f0 i))))
    ∧ (f.sub.toNat < 4 → Ty.flt.contains f.ty = true → x < 0x20 → exec (.packn f) s = .next (laneDone1 s fr f fun i =>
        w64 ((tgtFmt x).encode m (decide ((tgtFmt x).width ≤ 8)) (f1 i) * 2 ^ w + (tgtFmt x).encode m (decide ((tgtFmt x).width ≤ 8)) (f0 i))))
    ∧ (f.sub.toNat < 4 → Ty.flt.contains f.ty = true → 0x20 ≤ x → exec (.packn f) s = .next (laneDone1 s fr f fun i =>
        w64 ((BitVec.ofInt t.width (exToInt m (low t) (high t) (f1 i))).toNat * 2 ^ w
          + (BitVec.ofInt t.width (exToInt m (low t) (high t) (f0 i))).toNat)))
    ∧ (f.sub = 0 → Ty.flt.contains f.ty = false → 0x20 ≤ x → exec (.packn f) s = .next (laneDone1 s fr f fun i =>
        w64 ((clamped t (int f.ty (word s fr f 1 i))).toNat * 2 ^ w + (clamped t (i0 i)).toNat)))
    ∧ (f.sub = 4 → Ty.flt.contains f.ty = true → exec (.packn f) s = .next (laneDone1 s fr f fun i =>
        let x1 := srStep (srSeed (s.constOf fr (f.ck.toNat + if f.kc then 1 else 0)) (fr.lb + i))
        let r1 : RMode := .sr (srG x1)
        let r2 : RMode := .sr (srG (srStep x1))
        let sat := decide ((tgtFmt x).width ≤ 8) || x == 2 || x == 3
        if x < 0x20 then w64 ((tgtFmt x).encode r2 sat (f1 i) * 2 ^ w + (tgtFmt x).encode r1 sat (f0 i))
        else w64 ((BitVec.ofInt t.width (exToInt r2 (low t) (high t) (f1 i))).toNat * 2 ^ w
          + (BitVec.ofInt t.width (exToInt r1 (low t) (high t) (f0 i))).toNat)))
    ∧ (f.sub.toNat < 2 → 0x20 ≤ x → exec (.unpkn f) s = .next (laneDone1 s fr f fun i =>
        ext f.ty (BitVec.ofInt _ (int t ((word s fr f 0 i) >>> (w * f.sub.toNat))))))
    ∧ (f.sub.toNat < 2 → x < 0x20 → exec (.unpkn f) s = .next (laneDone1 s fr f fun i =>
        w64 ((fmtOf f.ty).encode .rn false ((tgtFmt x).decode ((word s fr f 0 i).toNat / 2 ^ (w * f.sub.toNat) % 2 ^ w)))))

/-- R166 to R169: the reduction of a run, its prefixes, its shifts with a fill, and the broadcast of one of its lanes, for a run that
carries no poison.
R166: in a poisoned run every output lane carries the run's record, but for the fill lanes of RUNSHF and the first lane of an
exclusive RUNSCAN. -/
def Obligations.Runs : Prop :=
  (∀ (s : State) (fr : Firing) (f : Fields), s.issuing = some fr → poisonAt fr.ops 0 = none →
      let r := run s fr f
      let n := xbits f.x 0 6
      let fill : Word := if f.kc then ext f.ty (arg f.ty (s.constOf fr f.ck.toNat)) else 0
      let lanes (v : Nat → Word) : List (Option LVal) := (List.range fr.rl).map fun i => some (.runv (v i))
      let scalar (w : Word) : List (Option LVal) := List.replicate fr.rl (some (.scal w))
      exec (.runred f) s = .next (runDone s fr f (scalar (reduce f r)))
      ∧ (xbits f.x 0 1 = 0 → exec (.runscan f) s = .next (runDone s fr f (lanes fun i => reduce f (r.take (i + 1)))))
      ∧ (xbits f.x 0 1 = 1 → exec (.runscan f) s = .next (runDone s fr f (lanes fun i => reduce f (r.take i))))
      ∧ (f.sub = 0 → exec (.runshf f) s = .next (runDone s fr f (lanes fun i =>
          if n ≤ i then ext f.ty (arg f.ty (r.getD (i - n) 0)) else fill)))
      ∧ (f.sub = 1 → exec (.runshf f) s = .next (runDone s fr f (lanes fun i =>
          if i + n < fr.rl then ext f.ty (arg f.ty (r.getD (i + n) 0)) else fill)))
      ∧ (f.sub = 2 → exec (.runshf f) s = .next (runDone s fr f (lanes fun i =>
          ext f.ty (arg f.ty (r.getD (((i : Int) - n) % fr.rl).toNat 0)))))
      ∧ exec (.runbc f) s = .next (runDone s fr f (scalar (ext f.ty (arg f.ty (r.getD (min (xbits f.x 0 5) (fr.rl - 1)) 0))))))
  ∧ (∀ (s : State) (fr : Firing) (f : Fields) (p : PRec), s.issuing = some fr → poisonAt fr.ops 0 = some p →
      let n := xbits f.x 0 6
      let fill : Word := if f.kc then ext f.ty (arg f.ty (s.constOf fr f.ck.toNat)) else 0
      let lanes (v : Nat → Option Word) : List (Option LVal) := (List.range fr.rl).map fun i => some (match v i with
        | some w => .runv w
        | none => .pois p)
      exec (.runred f) s = .next (runDone s fr f (lanes fun _ => none))
      ∧ exec (.runscan f) s = .next (runDone s fr f (lanes fun i => if i = 0 ∧ xbits f.x 0 1 = 1 then some (reduce f []) else none))
      ∧ (f.sub = 0 → exec (.runshf f) s = .next (runDone s fr f (lanes fun i => if n ≤ i then none else some fill)))
      ∧ (f.sub = 1 → exec (.runshf f) s = .next (runDone s fr f (lanes fun i => if i + n < fr.rl then none else some fill)))
      ∧ (f.sub = 2 → exec (.runshf f) s = .next (runDone s fr f (lanes fun _ => none)))
      ∧ exec (.runbc f) s = .next (runDone s fr f (lanes fun _ => none)))

/-- R170: LANE emits a run of lane numbers, of iteration numbers from the frame's BASE, or of the firing's RL; a poisoned trigger gives
poison. -/
def Obligations.LaneNumbers : Prop :=
  ∀ (s : State) (fr : Firing) (f : Fields) (x : Frame), s.issuing = some fr → s.frameOf fr = some x →
    let lanes (v : Nat → Word) : List (Option LVal) := (List.range fr.rl).map fun i => some (match poisonAt fr.ops i with
      | some r => .pois r
      | none => .runv (v i))
    (f.sub = 0 → exec (.lane f) s = .next (runDone s fr f (lanes fun i => ext f.ty (BitVec.ofNat _ (fr.lb + i)))))
    ∧ (f.sub = 1 → exec (.lane f) s = .next (runDone s fr f (lanes fun i => ext f.ty (arg f.ty x.base + BitVec.ofNat _ (fr.lb + i)))))
    ∧ (f.sub = 2 → exec (.lane f) s = .next (runDone s fr f (lanes fun _ => ext f.ty (BitVec.ofNat _ fr.rl))))

/-! ## Tokens, frames and control -/

/-- R122 to R127: DROP releases what it takes; SWITCH, SELECT, GATE and MERGE pass lanes on, and every handle among the operands either
leaves in a token or is released. -/
def Obligations.Steering : Prop :=
  ∀ (s : State) (fr : Firing) (f : Fields), s.issuing = some fr →
    exec (.drop f) s = .next ((s.issued).releaseAll (tileDie fr.tile) fr.handles)
    ∧ (Shaped fr 2 → ∃ hs, (hs ++ leaving f.d0 (arm fr true) ++ leaving f.d1 (arm fr false)).Perm fr.handles
        ∧ exec (.switch f) s = .next (steered s fr f hs (arm fr true) (arm fr false)))
    ∧ (Shaped fr f.ar.toNat → f.ar.toNat + (if f.kc then 1 else 0) = 3 →
        ∃ hs, (hs ++ leaving f.d0 (chosen s fr f)).Perm fr.handles
          ∧ exec (.select f) s = .next (steered s fr f hs (chosen s fr f) []))
    ∧ (Shaped fr 2 → ∃ hs, (hs ++ leaving f.d0 (gated fr)).Perm fr.handles
        ∧ exec (.gate f) s = .next (steered s fr f hs (gated fr) []))
    ∧ (Shaped fr 1 → ∃ hs, (hs ++ leaving f.d0 ((fr.ops.headD []).map some)).Perm fr.handles
        ∧ exec (.merge f) s = .next (steered s fr f hs ((fr.ops.headD []).map some) []))
    ∧ (Shaped fr 2 → exec (.merge f) s = .next ((s.issued).releaseAll (tileDie fr.tile) fr.handles))

/-- R122, R124: DUP sends its operand to each of its up to three destinations; a handle for more than one destination first asks its
memory tile for the increment, and the firing waits, counted in OTO. -/
def Obligations.Duplicates : Prop :=
  ∀ (s : State) (fr : Firing) (f : Fields), s.issuing = some fr →
    let third : Option Dest := if f.x.getLsbD 9 then some { ix := (f.x >>> 2).setWidth 7, port := f.x.setWidth 2 } else none
    let ds : List Dest := f.d0.toList ++ f.d1.toList ++ third.toList
    let v := (fr.ops.headD []).map some
    (ds = [] → exec (.dup f) s = .next ((s.issued).releaseAll (tileDie fr.tile) fr.handles))
    ∧ (ds ≠ [] → (fr.handles = [] ∨ ds.length = 1) → exec (.dup f) s = .next ((s.issued).onTile fr.tile fun c =>
        { c with laneOut := c.laneOut ++ [ds.flatMap fun d => tokensTo fr d fr.lb v] }))
    ∧ (fr.handles ≠ [] → 1 < ds.length → exec (.dup f) s = .next (((s.issued).onTile fr.tile fun c =>
        { c with acks := c.acks ++ [(fr, ds)] }).onFrame fr.tile fr.fi fun x =>
          { x with oto := x.oto + 1, outl := x.outl ++ [(fr.ser, .oto)] }))

/-- R128, R391: SEND sends the lane's value on its way to the tile that each link names, in order, with equal links side by side in one
token, and reports done on D1; SEND.RET with an empty RET discards its operand. SEND with a poisoned lane sends nothing and takes the fault of
the lowest such lane's record. That lanes are grouped by equal links is the model's reading (log entry 134). -/
def Obligations.Sends : Prop :=
  (∀ (s : State) (fr : Firing) (f : Fields) (n p : Nat) (r : PRec), s.issuing = some fr → n < fr.rl → p < 3 →
    (opAt fr.ops p n).poison? = some r → (∀ q < p, (opAt fr.ops q n).poison? = none) → (∀ i < n, poisonAt fr.ops i = none) →
    exec (.sendLink f) s = .next (((s.issued).releaseOps fr).raisePoison fr p n r)
    ∧ exec (.sendRet f) s = .next (((s.issued).releaseOps fr).raisePoison fr p n r)) ∧
  ∀ (s : State) (fr : Firing) (f : Fields) (x : Frame), s.issuing = some fr → s.frameOf fr = some x → Clean fr →
    let die := tileDie fr.tile
    let good (l : Word) (v : LVal) : Prop :=
      field l 43 21 = 0 ∧ s.tileDead (field l 0 14) = false ∧ isCompute (field l 0 14) = true
        ∧ s.dieUp (tileDie (field l 0 14)) = true ∧ s.jobOf fr ≠ none ∧ s.jobAt (field l 0 14) (field l 14 4) = s.jobOf fr
        ∧ (v.handle? = none ∨ tileDie (field l 0 14) = die)
    let toLinks (ls : List (Word × LVal)) : List Token :=
      (sendGroups 0 ls).flatMap fun g => linkTokens g.1 (fr.lb + g.2.1) g.2.2
    let out (k : State) : State := k.emit fr f.d1 fr.lb (List.replicate fr.rl (some .dn))
    let ls : List (Word × LVal) := (List.range fr.rl).map fun i => ((opAt fr.ops 1 i).word, opAt fr.ops 0 i)
    let rs : List (Word × LVal) := (List.range fr.rl).map fun i => (x.ret, opAt fr.ops 0 i)
    ((∀ p ∈ ls, good p.1 p.2) → exec (.sendLink f) s =
        .next (out (((s.issued).releaseAll die ((fr.ops.getD 1 []).filterMap LVal.handle?)).departAll (toLinks ls))))
    ∧ (x.ret ≠ 0 → (∀ p ∈ rs, good p.1 p.2) → exec (.sendRet f) s = .next (out ((s.issued).departAll (toLinks rs))))
    ∧ (x.ret = 0 → exec (.sendRet f) s = .next (out ((s.issued).releaseAll die fr.handles)))

/-- R100, R102, R129, R131: ENTER and ITER put one frame request, with what the new frame's header takes and the tokens that it is
entered with, in the allocation queue of their context.
R132: LOOPN with a lane whose count is not 0 asks for the first frame of that lane's loop, whose lanes are the first min(LW, N); with
every count 0 it emits its done at once. With the grant of a frame of a loop the next one is asked for, numbered from 0 in each lane's loop,
with b as a scalar over its lanes, and with the last grant of the last loop done leaves.
R101: a request for more cells than the context's QUOTA is refused as it issues, with a frame overrun fault that names the cells. -/
def Obligations.FrameRequests : Prop :=
  (∀ (s : State) (fr : Firing) (f : Fields) (x : Frame), s.issuing = some fr → s.frameOf fr = some x →
      let put (r : AllocReq) : State := (s.issued).onTile fr.tile fun c => { c with
        seq := c.seq + 1, allocq := AList.set c.allocq fr.ctx (c.allocOf fr.ctx ++ [{ r with seq := c.seq }]) }
      let base : AllocReq :=
        { seq := 0, owner := some fr.fi, unit := x.unit, ctx := fr.ctx, blk := 0, base := x.base, argp := x.argp, ret := 0,
          lslot := x.lslot, active := lanes fr, toks := [] }
      (∀ y : Entry, EntryOk s fr (s.constOf fr f.ck.toNat) f.ar.toNat y → y.block.lw = x.lw →
        y.block.cells ≤ (s.tile fr.tile).quotaOf fr.ctx →
        let e := s.constOf fr f.ck.toNat
        exec (.enter f) s = .next (put { base with
          blk := field e 0 4, ret := linkTo fr f.d0, toks := argTokens fr (field e 0 4) (field e 4 7) (field e 11 2) }))
      ∧ (∀ (b : Block) (d : Dest), s.blockOf fr = some b → f.d0 = some d → b.cells ≤ (s.tile fr.tile).quotaOf fr.ctx →
        exec (.iter f) s = .next (put { base with
          blk := fr.blk, base := x.base + BitVec.ofNat 64 x.lw, ret := x.ret, toks := argTokens fr fr.blk d.ix.toNat d.port.toNat })))
  ∧ (∀ (s : State) (fr : Firing) (f : Fields) (x : Frame) (y : Entry), s.issuing = some fr → s.frameOf fr = some x →
      (∀ i < fr.rl, (opAt fr.ops 0 i).poison? = none) →
      EntryOk s fr (s.constOf fr f.ck.toNat) (f.ar.toNat - 1) y →
      let n (i : Nat) : Nat := (opAt fr.ops 0 i).word.toNat
      ((∀ i < fr.rl, n i = 0) → exec (.loopn f) s =
        .next (((s.issued).releaseAll (tileDie fr.tile) fr.handles).emit fr f.d1 fr.lb (List.replicate fr.rl (some .dn))))
      ∧ (∀ i < fr.rl, 0 < n i → (∀ j < i, n j = 0) → y.block.cells ≤ (s.tile fr.tile).quotaOf fr.ctx →
        ∃ (t : State) (r : AllocReq), exec (.loopn f) s = .next t
          ∧ (t.tile fr.tile).allocOf fr.ctx = (s.tile fr.tile).allocOf fr.ctx ++ [r]
          ∧ r.blk = field (s.constOf fr f.ck.toNat) 0 4 ∧ r.base = 0 ∧ r.ret = 0 ∧ r.unit = x.unit ∧ r.owner = some fr.fi
          ∧ r.active = List.range (min y.block.lw (n i))))
  ∧ (∀ (s : State) (fr : Firing) (f : Fields) (x : Frame) (y : Entry) (b : Block), s.issuing = some fr → s.frameOf fr = some x →
      let quota := (s.tile fr.tile).quotaOf fr.ctx
      let refused (cells : Nat) : State := ((s.issued).releaseOps fr).raise fr { cause := 0x09, extra := BitVec.ofNat 64 cells }
      (EntryOk s fr (s.constOf fr f.ck.toNat) f.ar.toNat y → y.block.lw = x.lw → quota < y.block.cells →
        exec (.enter f) s = .next (refused y.block.cells))
      ∧ (∀ d, s.blockOf fr = some b → f.d0 = some d → quota < b.cells → exec (.iter f) s = .next (refused b.cells))
      ∧ ((∀ i < fr.rl, (opAt fr.ops 0 i).poison? = none) → EntryOk s fr (s.constOf fr f.ck.toNat) (f.ar.toNat - 1) y →
        (∃ i < fr.rl, 0 < (opAt fr.ops 0 i).word.toNat) → quota < y.block.cells →
        exec (.loopn f) s = .next (refused y.block.cells)))
  ∧ (∀ (s : State) (t : Nat) (r : AllocReq) (rest : List AllocReq) (e : Entry) (fi : Nat) (tags : Fifo) (l : LoopSt) (n : Nat) (v : LVal)
        (ls : List (Nat × LVal)), s.arg.tile = t →
      let c := s.tile t
      (r.ctx, r :: rest) ∈ c.allocq → c.allocOf r.ctx = r :: rest →
      (∀ p ∈ c.allocq, ∀ r', p.2.head? = some r' → r' = r ∨ r.seq < r'.seq) → s.frozenAt t r.ctx = false →
      c.entry r.ctx r.blk = some e → c.usedOf r.ctx + e.block.cells ≤ c.quotaOf r.ctx → e.block.cells ≤ c.freeCells →
      c.tags.take 4096 = some (fi, tags) → r.loop = some l → l.loops = (n, v) :: ls → (∀ p ∈ ls, 0 < p.1) →
      let lw := e.block.lw
      let s1 := s.setTile t { (c.setFrame fi
        { st := .granted, lw := lw, blk := r.blk, ns := e.block.ns, ctx := r.ctx, base := r.base, ret := r.ret,
          argp := r.argp, lslot := r.lslot, cells := e.block.cells, unit := r.unit, active := r.active,
          ended := (List.range lw).filter (· ∉ r.active), pend := r.toks.map fun k => { k with fi := fi } }) with
        tags := tags, allocq := AList.set c.allocq r.ctx rest }
      let asks (l' : LoopSt) (m : Nat) (w : LVal) : Prop :=
        let k := min lw (m - l'.j * lw)
        ∃ toks, exec .frameRequestGrant s = .next (s1.onTile t fun c => { c with
          seq := c.seq + 1, allocq := AList.set c.allocq r.ctx (c.allocOf r.ctx ++ [{ r with
            seq := c.seq, base := BitVec.ofNat 64 (l'.j * lw), active := List.range k, toks := toks, loop := some l' }]) })
        ∧ (l.ar ≠ 2 → toks = [])
        ∧ (∀ b, l.ar = 2 → w = .scal b ∨ w = .runv b → toks = [{
            dst := l.firing.tile, ctx := r.ctx, fi := 0, blk := r.blk, ix := l.ix, port := l.port, lb := 0, rl := k, pay := .scalar b }])
      ((l.j + 1) * lw < n → asks { l with j := l.j + 1 } n v)
      ∧ (n ≤ (l.j + 1) * lw → ∀ m w ls', ls = (m, w) :: ls' → asks { l with loops := ls, j := 0 } m w)
      ∧ (n ≤ (l.j + 1) * lw → ls = [] → exec .frameRequestGrant s = .next (s1.emitDone l.firing l.d1)))

/-- R104, R130, R133, R137: FREE ends its frame; EXIT and DONE end the firing's lanes, and the frame with the last of them; DONE lowers
the region's ISC by RL. -/
def Obligations.FramesEnd : Prop :=
  ∀ (s : State) (fr : Firing) (f : Fields) (x : Frame), s.issuing = some fr → s.frameOf fr = some x → x.st = .live →
    (∃ t, exec (.free f) s = .next t ∧ Ended t fr.tile fr.fi)
    ∧ (Clean fr → ∃ t, exec (.exit f) s = .next t
        ∧ ((∀ l ∈ x.active, l ∈ x.ended ∨ l ∈ lanes fr) → Ended t fr.tile fr.fi)
        ∧ ((∃ l ∈ x.active, l ∉ x.ended ∧ l ∉ lanes fr) → ∃ y, t.frame? fr.tile fr.fi = some y ∧ y.st = .live
            ∧ ∀ l, l ∈ y.ended ↔ l ∈ x.ended ∨ l ∈ lanes fr)
        ∧ (x.ret ≠ 0 → ∀ k ∈ linkTokens x.ret fr.lb (fr.ops.headD []), k ∈ (t.tile (field x.ret 0 14)).flight))
    ∧ (∀ (g v : Nat) (r : Region), Clean fr → s.regionAt fr.tile fr.ctx = some (g, v, r) → s.region? g v = some r → fr.rl ≤ r.isc →
        ∃ t, exec (.done f) s = .next t ∧ (t.region? g v).map (·.isc) = some (r.isc - fr.rl)
          ∧ ((∀ l ∈ x.active, l ∈ x.ended ∨ l ∈ lanes fr) → Ended t fr.tile fr.fi)
          ∧ ((∃ l ∈ x.active, l ∉ x.ended ∧ l ∉ lanes fr) → ∃ y, t.frame? fr.tile fr.fi = some y ∧ y.st = .live))

/-- R134, R136, R138: CONST emits its constant and CONST.SELF a link to its frame; KSET stages the value of its highest lane; CFGNEXT and
CFGLOAD arm the region's transition, unless one is armed. That CFGLOAD takes the operand of lane 0 is the model's reading (log entry 16). -/
def Obligations.ConstantsAndTransitions : Prop :=
  ∀ (s : State) (fr : Firing) (f : Fields), s.issuing = some fr →
    let k := s.constOf fr f.ck.toNat
    let released := (s.issued).releaseAll (tileDie fr.tile) fr.handles
    let armed (g v : Nat) (c : Nat) : State := released.onRegion g v fun r => if r.armed.isSome then r else { r with armed := some c }
    exec (.const f) s = .next (constant s fr f k)
    ∧ exec (.constSelf f) s = .next (constant s fr f
        (linkTo fr (some { ix := BitVec.ofNat 7 (field k 0 7), port := BitVec.ofNat 2 (field k 7 2) })))
    ∧ (Clean fr → exec (.kset f) s = .next (released.onTile fr.tile fun c =>
        { c with ksets := c.ksets ++ [({ fr with ops := [] }, f, (opAt fr.ops 0 (fr.rl - 1)).word)] }))
    ∧ (∀ (g v : Nat) (r : Region), Clean fr → s.regionAt fr.tile fr.ctx = some (g, v, r) →
        exec (.cfgnext f) s = .next (released.onRegion g v fun r => if r.armed.isSome then r else
          { r with armed := some (match r.cfgs[r.cfg]? with | some c => c.next | none => 0x1FF) })
        ∧ (let c := (arg f.ty (if f.kc then k else (opAt fr.ops 0 0).word)).toNat
           c < r.cfgs.length → exec (.cfgload f) s = .next (armed g v c)))

/-! ## Buffers -/

/-- R184: the checks on a handle, in order: a memory tile of this quad, not stale, held here, and no read-only buffer for a write; the
first that fails names the cause. -/
def Obligations.HandleChecks : Prop :=
  ∀ (s : State) (t ctx : Nat) (h : Word) (write : Bool),
    let m := hTile (tileDie t) h
    let c := s.mtile m
    let x := c.desc (hDesc h)
    let near : Prop := isMemTile m = true ∧ sameQuad m t = true
    let fresh : Prop := x.state ≠ 0 ∧ x.gen = hGen h ∧ x.gran0 = hGran0 h ∧ x.ngm1 = hNgm1 h ∧ x.view = hView h ∧ x.shape.getLsbD 31 = hScale h
    let held : Prop := x.holder = t % 1024 ∧ x.ctx = ctx
    let open? : Prop := write = true → hRo h = false ∧ x.ro = false
    (¬ near → handleFault s t ctx h true write = some 0x05)
    ∧ (near → ¬ fresh → handleFault s t ctx h true write = some 0x06)
    ∧ (near → fresh → ¬ held → handleFault s t ctx h true write = some 0x05)
    ∧ (near → fresh → held → ¬ open? → handleFault s t ctx h true write = some 0x03)
    ∧ (near → fresh → held → open? → handleFault s t ctx h true write = none)

/-- R182, R183: releasing a handle lowers REFS by one; with the last reference of a root that no scale panel hangs on, the descriptor is
free with its GEN advanced, its number is at the tail of the free list, and its granules wait to be zeroed. -/
def Obligations.ReleaseFrees : Prop :=
  ∀ (s : State) (die : Nat) (h : Word),
    let m := hTile die h
    let c := s.mtile m
    let x := c.desc (hDesc h)
    isMemTile m = true → staleIn c h = false →
    (1 < x.refs → s.release die h = s.setMtile m (c.setDesc (hDesc h) { x with refs := x.refs - 1 }))
    ∧ (x.refs = 1 → x.view = false → x.sdesc = none →
        let c' := (s.release die h).mtile m
        c'.desc (hDesc h) = { x with gen := (x.gen + 1) % 256, refs := 0, state := 0 }
        ∧ c'.dfifo = { c.dfifo with back := c.dfifo.back ++ [hDesc h] }
        ∧ c'.zpend = c.zpend ++ (List.range (x.ngm1 + 1)).map (x.gran0 + ·)
        ∧ c'.owned = c.owned)

/-- R192, R193, R196: TREL releases its handle and reports done; TREF emits REFS and TDESC.RD emits SHAPE, and both keep the handle;
TDESC.LINK moves the reference of b into the link of a and keeps a.
R194: TGIVE makes the frame that a link names the holder: the descriptor's HOLDER and CTX become the link's, and the handle goes to
the frame's port with HOLDER changed. -/
def Obligations.HandleReads : Prop :=
  (∀ (s : State) (fr : Firing) (f : Fields) (h : Word), One s fr →
      (Uses s fr 0 h false false → exec (.trel f) s = .next (((s.issued).release (tileDie fr.tile) h).emit1 fr f.d1 0 .dn))
      ∧ (Uses s fr 0 h true false →
          exec (.tref f) s = .next (((s.issued).emit1 fr f.d0 0 (.scal (BitVec.ofNat 64 (desc s fr h).refs))).emit1 fr f.d1 0 (kept s fr h))
          ∧ exec (.tdescRd f) s = .next (((s.issued).emit1 fr f.d0 0 (.scal (desc s fr h).shape)).emit1 fr f.d1 0 (kept s fr h)))
      ∧ (∀ b, Uses s fr 0 h true false → Uses s fr 1 b true false → home fr b = home fr h → (desc s fr b).shape.getLsbD 31 = true →
          tFmt (desc s fr h).shape = tFmt (desc s fr b).shape → (desc s fr h).view = false → (desc s fr h).shape.getLsbD 31 = false →
          (desc s fr h).sdesc = none →
          let t := (s.issued).onMtile (home fr h) fun c => c.setDesc (hDesc h) { desc s fr h with sdesc := some (hDesc b) }
          exec (.tdescLink f) s = .next (t.emit1 fr f.d0 0 (kept t fr h))))
  ∧ (∀ (s : State) (fr : Firing) (f : Fields) (h : Word), One s fr → Shaped fr 2 → f.kc = false → Uses s fr 0 h true false →
      let l := (opAt fr.ops 1 0).word
      let t := field l 0 14
      field l 43 21 = 0 → s.tileDead t = false → isCompute t = true → sameQuad t (home fr h) = true →
      s.dieState (tileDie t) ≠ 0 → s.jobOf fr ≠ none → s.jobAt t (field l 14 4) = s.jobOf fr → fr.handles = [h] →
      let s1 := (s.issued).onMtile (home fr h) fun c => c.setDesc (hDesc h) { desc s fr h with holder := t % 1024, ctx := field l 14 4 }
      ∃ h', exec (.tgive f) s = .next ((s1.deliver (linkFrom t (home fr h)) (linkToken l 0 1 (.handle h'))).emit1 fr f.d1 0 .dn)
        ∧ hHolder h' = t % 1024 ∧ hDesc h' = hDesc h ∧ hGen h' = hGen h ∧ hGran0 h' = hGran0 h ∧ hNgm1 h' = hNgm1 h)

/-- R197 to R199: TLOOK finds the requester's entry, refreshes its STAMP and emits its slot and its handle with one more reference, or tells
the lowest empty slot; TTAG fills an empty slot; TUNTAG empties one and emits what it held. R190, R200: TGET emits an element, TSET writes
one, TFILL writes every one; each keeps its handle. For a buffer with no uncorrectable word and no poison, and a value that is not poison.
That STAMP takes the module's clk is the model's reading (log entry 111). -/
def Obligations.TagsAndElements : Prop :=
  (∀ (s : State) (fr : Firing) (f : Fields), One s fr → f.kc = false →
      let m := memTileOf fr.tile (xbits f.x 0 1)
      let c := s.mtile m
      let die := tileDie fr.tile
      let key := (opAt fr.ops 0 0).word
      (∀ k e, c.tags.find? (fun e => e.2.ctx == fr.ctx && e.2.key == key) = some (k, e) → fr.handles = [] →
          staleIn c e.handle = false → s.refsOver die e.handle 1 = false →
          let t := ((s.issued).onMtile m fun c => { c with tags := AList.set c.tags k { e with stamp := s.clk % 2 ^ 32 } }).addRefs die e.handle 1
          exec (.tlook f) s = .next ((t.emit1 fr f.d0 0 (.scal (BitVec.ofNat 64 k))).emit1 fr f.d1 0 (kept t fr e.handle)))
      ∧ (∀ k < 256, (∀ e ∈ c.tags, e.2.ctx = fr.ctx → e.2.key ≠ key) → fr.handles = [] →
          AList.get? c.tags k = none → (∀ j < k, AList.get? c.tags j ≠ none) →
          exec (.tlook f) s = .next ((s.issued).emit1 fr f.d0 0 (.scal (BitVec.ofNat 64 (0x8000000000000100 + k)))))
      ∧ (∀ h, Uses s fr 1 h true false → fr.handles = [h] →
          let slot := (opAt fr.ops 2 0).word.toNat
          slot < 256 → AList.get? (s.mtile (home fr h)).tags slot = none →
          (∀ e ∈ (s.mtile (home fr h)).tags, e.2.ctx = fr.ctx → e.2.key ≠ key) →
          exec (.ttag f) s = .next (((s.issued).emit1 fr f.d0 0 (.scal 0)).onMtile (home fr h) fun c =>
            { c with tags := AList.set c.tags slot { key := key, handle := h, ctx := fr.ctx, stamp := s.clk % 2 ^ 32 } }))
      ∧ (∀ e, fr.handles = [] → key.toNat < 256 → AList.get? c.tags key.toNat = some e → e.ctx = fr.ctx →
          let t := (s.issued).onMtile m fun c => { c with tags := Machine.AList.erase c.tags key.toNat }
          exec (.tuntag f) s = .next ((t.emit1 fr f.d0 0 (kept t fr e.handle)).emit1 fr f.d1 0 (.scal e.key))))
  ∧ (∀ (s : State) (fr : Firing) (f : Fields) (h : Word), One s fr → (s.mtile (home fr h)).ue = [] → fr.handles = [h] →
      let x := desc s fr h
      let w := word s fr f 1 0
      let r := field w 0 13
      let c := field w 13 13
      let inside : Prop := field w 26 38 = 0 ∧ r < tRows x.shape ∧ c < tCols x.shape
      let t := (s.issued).elemSet (home fr h) x r c (word s fr f 2 0).toNat
      let u := (((s.issued).fill (home fr h) x (word s fr f 1 0).toNat)).onMtile (home fr h) fun c =>
        c.setDesc (c.psnDesc (hDesc h)) { c.desc (c.psnDesc (hDesc h)) with psn := false }
      (Uses s fr 0 h true false → inside → (s.mtile (home fr h)).poison? (hDesc h) = none →
          exec (.tget f) s = .next (((s.issued).emit1 fr f.d0 0 (.scal (BitVec.ofNat 64 (s.elemGet (home fr h) x r c)))).emit1 fr f.d1 0 (kept s fr h)))
      ∧ (Uses s fr 0 h true true → inside → exec (.tset f) s = .next (t.emit1 fr f.d0 0 (kept t fr h)))
      ∧ (Uses s fr 0 h true true → exec (.tfill f) s = .next (u.emit1 fr f.d0 0 (kept u fr h))))

/-- R179, R191, R195: TALLOC and TVIEW check their parameter and enter the memory tile's allocation queue, counted in OTO.
R179, R180, R191: TILE_ALLOC_GRANT gives the head of the queue the descriptor at the head of the free list and the lowest free run of
granules, and emits its handle. R195: a TVIEW at the head gets the descriptor at the head of the free list, for the window in its root's
granules; the root gains a reference, and the view leaves on D0 and the buffer's handle on D1. GRANULE_ZEROED writes the oldest released granule to zero and frees it. -/
def Obligations.Allocations : Prop :=
  (∀ (s : State) (fr : Firing) (f : Fields), One s fr →
      let put (m : Nat) (r : TAlloc) (k : State) : State :=
        (k.onMtile m fun c => { c with allocq := c.allocq ++ [r] }).onFrame fr.tile fr.fi fun x =>
          { x with oto := x.oto + 1, outl := x.outl ++ [(fr.ser, .oto)] }
      (let m := memTileOf fr.tile (xbits f.x 0 1)
       let w := if f.kc then s.constOf fr f.ck.toNat else (opAt fr.ops 0 0).word
       tValid w = true → tGranules w ≤ (s.mtile m).quotaOf fr.ctx → fr.handles = [] →
       exec (.talloc f) s = .next (put m
        { firing := { fr with ops := [] }, f := f, g := tGranules w, lane := 0, handle := none, param := w } s.issued))
      ∧ (∀ h, Uses s fr 0 h true false → fr.handles = [h] → windowOk (desc s fr h).shape (word s fr f 1 0) = true →
          ((s.mtile (home fr h)).desc ((s.mtile (home fr h)).psnDesc (hDesc h))).refs < 65535 →
          exec (.tview f) s = .next (put (home fr h)
            { firing := { fr with ops := [] }, f := f, g := 0, lane := 0, handle := some h, param := word s fr f 1 0 } s.issued)))
  ∧ (∀ (s : State) (m : Nat), s.arg.tile = m →
      let c := s.mtile m
      (∀ (r : TAlloc) (rest : List TAlloc) (d g0 : Nat) (fifo : Fifo),
          c.allocq = r :: rest → r.handle = none → c.dfifo.take 512 = some (d, fifo) → c.freeRun r.g = some g0 →
          c.usedOf r.firing.ctx + r.g ≤ c.quotaOf r.firing.ctx →
          let c' : MTile := { c.setDesc d (allocDesc r (c.desc d).gen g0) with
            allocq := rest, dfifo := fifo, owned := c.owned ++ (List.range r.g).map (g0 + ·) }
          exec .tileAllocGrant s = .next (((s.setMtile m c').emit1 r.firing r.f.d0 r.lane (.hand (c'.handleOf m d))).uncount r.firing .oto))
      ∧ (∀ (r : TAlloc) (rest : List TAlloc) (d : Nat) (fifo : Fifo) (h : Word),
          c.allocq = r :: rest → r.handle = some h → c.dfifo.take 512 = some (d, fifo) →
          c.usedOf r.firing.ctx + r.g ≤ c.quotaOf r.firing.ctx →
          let x := c.desc (hDesc h)
          let root := if x.view then x.root else hDesc h
          let w := r.param
          (c.desc root).refs < 65535 → root ≠ d →
          let v : Desc := {
            shape := BitVec.ofNat 64 (field w 26 13 + field w 39 13 * 2 ^ 13 + field x.shape 26 22 * 2 ^ 26), gen := (c.desc d).gen, refs := 1
            holder := r.firing.tile % 1024, ctx := r.firing.ctx, gran0 := x.gran0, ngm1 := x.ngm1, state := 1, view := true
            ro := x.ro || r.f.sub == 1, root := root
            voff := x.voff + field w 0 13 * tPitch x.shape + field w 13 13 * tBits x.shape / 8 }
          let c' : MTile := { (c.setDesc d v).setDesc root { c.desc root with refs := (c.desc root).refs + 1 } with allocq := rest, dfifo := fifo }
          let t := s.setMtile m c'
          exec .tileAllocGrant s = .next (((t.emit1 r.firing r.f.d0 r.lane (.hand (c'.handleOf m d))).emit1 r.firing r.f.d1 r.lane
            (.hand (rehandle t (tileDie m) h))).uncount r.firing .oto))
      ∧ (∀ (g : Nat) (rest : List Nat), c.zpend = g :: rest →
          ∃ t, exec .granuleZeroed s = .next t ∧ (t.mtile m).zpend = rest ∧ (t.mtile m).owned = c.owned.filter (· != g)
            ∧ t.mem = (s.writeBytes (padAddr m (g * 4096)) (List.replicate 4096 0)).mem))

/-! ## Matching, issue and frames -/

/-- R25 to R27: one lane's token at a LIVE frame. At arity 1 it fires and enters its queue; at arity 2 the first operand parks in the
slot with its port and owner, and the second fires with the operands in port order and leaves the slot empty; a slot of another owner
is a frame overrun, and so is a second token for a port and lane whose operand is parked; a token for no entry, no frame or a frame that is not LIVE is discarded and counted. -/
def Obligations.TokenMatching : Prop :=
  ∀ (s : State) (k : Token) (v : LVal) (e : Entry) (op : Nat) (f : Fields),
    let t := k.dst
    let s1 := s.onTile t fun c => { c with inputs := dropNth c.inputs s.arg.n, took := s.clk + 1 }
    let fr (ops : List (List LVal)) : Firing :=
      { tile := t, ctx := k.ctx, fi := k.fi, blk := k.blk, ix := k.ix, lb := k.lb, rl := 1, ops := ops }
    let enters (ops : List (List LVal)) (u : State) : Prop :=
      ((u.tile t).queue (queueOf (fr ops) op f)).ents = ((s.tile t).queue (queueOf (fr ops) op f)).ents ++ [(s.clk, fr ops)]
    let room (ops : List (List LVal)) : Prop :=
      ((s.tile t).queue (queueOf (fr ops) op f)).ents.length < (queueOf (fr ops) op f).depth
    s.arg.tile = t → (s.tile t).inputs[s.arg.n]?.map (·.tok) = some k → tokenNext s t s.arg.n = true → (s.tile t).took ≤ s.clk →
    (s.tile t).held = [] → s.frozenAt t k.ctx = false → s.tileDead t = false →
    ((s.tile t).entry k.ctx k.blk = none → exec .tokenArrival s = .next (s1.discardCount k))
    ∧ ((s.tile t).entry k.ctx k.blk = some e →
      ((∀ x, s.frame? t k.fi = some x → x.st ≠ .live) → exec .tokenArrival s = .next (s1.discardCount k))
      ∧ ∀ x, s.frame? t k.fi = some x → x.st = .live → k.link = false → e.block.fields? k.ix = some (op, f) → op ≠ 0x05 →
          isChained op f = false → k.rl = 1 → k.pay.lanes 1 = [v] → k.lb ∉ x.ended →
        (f.ar = 1 → k.port = 0 → room [[v]] → ∃ u, exec .tokenArrival s = .next u ∧ enters [[v]] u
          ∧ (u.frame? t k.fi).map (·.parked) = some x.parked)
        ∧ (f.ar = 2 → (∀ p ∈ x.parked, p.slot = f.sl.toNat → p.owner = k.ix ∧ p.lane ≠ k.lb) →
            ∃ u, exec .tokenArrival s = .next u ∧ (∀ q, (u.tile t).queue q = (s.tile t).queue q)
              ∧ (u.frame? t k.fi).map (·.parked) =
                  some (x.parked ++ [{ slot := f.sl.toNat, lane := k.lb, port := k.port, owner := k.ix, val := v }]))
        ∧ (∀ p, f.ar = 2 → (∀ q ∈ x.parked, q.slot = f.sl.toNat → q.owner = k.ix) →
            x.parked.filter (fun q => q.slot == f.sl.toNat && q.lane == k.lb) = [p] → p.port + k.port = 1 →
            let ops := if k.port = 0 then [[v], [p.val]] else [[p.val], [v]]
            room ops → ∃ u, exec .tokenArrival s = .next u ∧ enters ops u
              ∧ (u.frame? t k.fi).map (·.parked) = some (x.parked.filter fun q => !(q.slot == f.sl.toNat && q.lane == k.lb)))
        ∧ (∀ p ∈ x.parked, f.ar = 2 → p.slot = f.sl.toNat → p.owner ≠ k.ix →
            exec .tokenArrival s = .next ((s1.discard k).raiseAt k 0x09 0))
        ∧ (∀ p ∈ x.parked, f.sl.toNat ≤ p.slot → p.slot + 1 < f.sl.toNat + f.ar.toNat → p.lane = k.lb → p.port = k.port →
            exec .tokenArrival s = .next ((s1.discard k).raiseAt k 0x09 0)))

/-- R34, R36, R122, R136, R139, R140, R280: a held firing enters its queue with the present clk; a queue issues the entry that comes
first by priority, age, BLK, IX, LB, or after 64 such the first of lower priority. An entry that a rule holds waits in its queue and counts for the 64 (the model's reading, log entry 32). A chained firing that is next leaves the chain-hold
buffer; lane results leave; a staged constant reaches every tile of the region; the copies of a handle leave with the increment. -/
def Obligations.IssueEvents : Prop :=
  ∀ (s : State) (t : Nat), s.arg.tile = t →
    let c := s.tile t
    (∀ fr rest op f, c.held = fr :: rest → fr.tile = t → s.fieldsOf fr = some (op, f) → isChained op f = false →
        (c.queue (queueOf fr op f)).ents.length < (queueOf fr op f).depth →
        ∃ u, exec .heldFiringEnterQueue s = .next u ∧ (u.tile t).held = rest
          ∧ ((u.tile t).queue (queueOf fr op f)).ents = (c.queue (queueOf fr op f)).ents ++ [(s.clk, fr)])
    ∧ (let r := c.queue s.arg.q
       let l := r.ents.filterMap (candidate s s.arg.q)
       let issues (fr : Firing) (g : Nat) : Prop := ∃ u, exec .readyQueueIssue s = .next u
         ∧ u.issuing = some { fr with ser := s.opno } ∧ u.opno = s.opno + 1
         ∧ (u.tile t).queue s.arg.q = { ents := dropFiring fr r.ents, g := g }
       let ps := r.ents.filterMap (waitingPri s)
       let under (y : Firing × Nat × List Nat) : Prop := ∃ p ∈ ps, y.2.1 < p
       s.arg.q ≠ .mat → (s.arg.q = .lane → c.lubusy ≤ s.clk) → ∀ x ∈ l, (∀ y ∈ l, y = x ∨ before36 x y = true) →
         (r.g < 64 → issues x.1 (if ∃ p ∈ ps, p < x.2.1 then r.g + 1 else 0))
         ∧ (∀ y ∈ l, r.g = 64 → under y → (∀ z ∈ l, under z → z = y ∨ y.2.2 < z.2.2) → issues y.1 0))
    ∧ (∀ fr rest op f, c.chainHold = fr :: rest → s.fieldsOf fr = some (op, f) → eligible s .port fr op f = true →
        exec .chainHoldRelease s = .next { s.onTile t (fun c => { c with chainHold := rest }) with
          issuing := some { fr with ser := s.opno }, opno := s.opno + 1 })
    ∧ (∀ ks, c.laneOut[s.arg.n]? = some ks →
        let s1 := s.onTile t fun c => { c with laneOut := dropNth c.laneOut s.arg.n }
        ((∀ k ∈ ks, ∃ x, s.frame? t k.fi = some x ∧ x.st = .live) → exec .laneResultEmit s = .next (s1.deliverAll .engine ks))
        ∧ ((∀ k ∈ ks, ∀ x, s.frame? t k.fi = some x → x.st = .ending) → exec .laneResultEmit s = .next (ks.foldl State.discardCount s1)))
    ∧ (∀ fr f v b g w r, c.ksets[s.arg.n]? = some (fr, f, v) → s.blockOf fr = some b → fr.tile = t →
        s.regionAt t fr.ctx = some (g, w, r) →
        let s1 := s.onTile t fun c => { c with ksets := dropNth c.ksets s.arg.n }
        exec .ksetStageComplete s = .next ((r.computeTiles.foldl (fun (s : State) u => s.onTile u fun c => { c with
          entries := c.entries.map fun e => if e.2.ctx = fr.ctx ∧ e.2.blk = fr.blk ∧ e.2.block.gbn = b.gbn then
            (e.1, { e.2 with staged := AList.set e.2.staged f.ck.toNat v }) else e }) s1).emitDoneOwn fr f.d1))
    ∧ (∀ fr ds h, c.acks[s.arg.n]? = some (fr, ds) → fr.handles.head? = some h → fr.tile = t →
        let s1 := (s.onTile t fun c => { c with acks := dropNth c.acks s.arg.n }).uncount fr .oto
        let x := (s1.mtile (home fr h)).desc (hDesc h)
        staleIn (s1.mtile (home fr h)) h = false → x.refs + (ds.length - 1) ≤ 65535 →
        exec .handleIncrementAck s = .next (ds.foldl (fun s d => s.emit fr (some d) fr.lb ((fr.ops.headD []).map some))
          (s1.onMtile (home fr h) fun c => c.setDesc (hDesc h) { x with refs := x.refs + (ds.length - 1) })))

/-- R99 to R104: the oldest request that heads its queue and fits its quota takes the FI at the head of the pool; the frame is granted,
becomes LIVE, fires its arity-0 instructions and takes its creator's tokens; an ENDING frame whose counters are zero returns its FI
to the tail. -/
def Obligations.FrameEvents : Prop :=
  ∀ (s : State) (t : Nat), s.arg.tile = t →
    let c := s.tile t
    (∀ (r : AllocReq) rest e fi tags, (r.ctx, r :: rest) ∈ c.allocq → c.allocOf r.ctx = r :: rest →
        (∀ p ∈ c.allocq, ∀ r', p.2.head? = some r' → r' = r ∨ r.seq < r'.seq) → s.frozenAt t r.ctx = false →
        c.entry r.ctx r.blk = some e → c.usedOf r.ctx + e.block.cells ≤ c.quotaOf r.ctx → e.block.cells ≤ c.freeCells →
        c.tags.take 4096 = some (fi, tags) → r.loop = none →
        exec .frameRequestGrant s = .next (s.setTile t { (c.setFrame fi
          { st := .granted, lw := e.block.lw, blk := r.blk, ns := e.block.ns, ctx := r.ctx, base := r.base, ret := r.ret,
            argp := r.argp, lslot := r.lslot, cells := e.block.cells, unit := r.unit, active := r.active,
            ended := (List.range e.block.lw).filter (· ∉ r.active), pend := r.toks.map fun k => { k with fi := fi } }) with
          tags := tags, allocq := AList.set c.allocq r.ctx rest }))
    ∧ (∀ x, s.frame? t s.arg.n = some x → x.st = .granted →
        (x.doomed = false → ∀ e, c.entry x.ctx x.blk = some e →
          exec .frameBecomesLive s = .next (((s.onFrame t s.arg.n fun x => { x with st := .live, pend := [] }).fireAll
            (arity0 t s.arg.n x e.block)).deliverAll .engine x.pend))
        ∧ (x.doomed = true → ∃ u, exec .frameBecomesLive s = .next u ∧ Ended u t s.arg.n))
    ∧ (∀ x, s.frame? t s.arg.n = some x → x.st = .ending → x.old = 0 → x.ost = 0 → x.ocp = 0 → x.oto = 0 → s.sw.cancels = [] →
        ∃ u, exec .frameReturnFree s = .next u ∧ (u.tile t).tags = { c.tags with back := c.tags.back ++ [s.arg.n] }
          ∧ (u.tile t).frames = Machine.AList.erase c.frames s.arg.n)

/-- R110 to R113, R138: a region with a transition armed whose conditions hold takes up its configuration when every placement has its
entry, else it begins to fetch the blocks that are missing; NEXT = 0x1FF ends its run. A fetched block that passes its checks is
kept, and with the last one its entry is written. -/
def Obligations.ConfigurationEvents : Prop :=
  ∀ (s : State) (x : Graph) (r : Region),
    let g := s.arg.n
    let v := s.arg.k
    s.graph? g = some x → s.region? g v = some r →
    let taken (c : Nat) (n : Cfg) (u : State) : Prop := ∃ r', u.region? g v = some r' ∧ r'.cfg = c ∧ r'.isc = n.iters
      ∧ r'.active = true ∧ r'.loading = false ∧ r'.armed = none ∧ r'.load = none
    let arrived (gbn : Nat) : Prop :=
      let va := addr (w64 x.img) + x.dir.getD gbn 0
      Ready s x.jid (w64 va) (blockSpan s x.jid va gbn) .x
    (∀ c, r.armed = some c → x.st = .bound → r.load = none → r.isc = 0 →
        (∀ t ∈ r.computeTiles, (∀ f ∈ (s.tile t).frames, f.2.ctx ≠ r.ctx) ∧ (s.tile t).allocOf r.ctx = []
          ∧ (∀ k ∈ (s.tile t).ksets, k.1.ctx ≠ r.ctx)) →
        (c = 0x1FF → ∃ u r', exec .configTransition s = .next u ∧ u.region? g v = some r' ∧ r'.active = false ∧ r'.armed = none
          ∧ r'.done = true)
        ∧ (c ≠ 0x1FF → ∀ n, r.cfgs[c]? = some n → (∀ t ∈ r.computeTiles, missing s r c t = []) →
            ∃ u, exec .configTransition s = .next u ∧ taken c n u)
        ∧ (c ≠ 0x1FF → (∃ t ∈ r.computeTiles, missing s r c t ≠ []) →
            ∃ u r' l, exec .configTransition s = .next u ∧ u.region? g v = some r' ∧ r'.active = false ∧ r'.loading = true
              ∧ r'.load = some l ∧ l.target = c ∧ l.got = [] ∧ l.failed = false
              ∧ ∀ b, b ∈ l.fetch ↔ ∃ t ∈ r.computeTiles, ∃ p ∈ missing s r c t, p.2 = b))
    ∧ (∀ l gbn b, r.load = some l → l.fetch[s.arg.v]? = some gbn → arrived gbn →
        fetchBlock s x.jid (addr (w64 x.img) + x.dir.getD gbn 0) gbn = .ok b →
        (1 < l.fetch.length → exec .configBlockFetched s = .next (s.onRegion g v fun r =>
          { r with load := some { l with fetch := dropNth l.fetch s.arg.v, got := l.got ++ [(gbn, b)] } }))
        ∧ (l.fetch.length = 1 → l.failed = true → exec .configBlockFetched s = .next (s.onRegion g v fun r =>
            { r with loading := false, load := none, armed := none })))
    ∧ (∀ l t blk gbn b n rest, r.load = some l → l.failed = false → l.tiles = [t] → missing s r l.target t = [(blk, gbn)] →
        r.cfgs[l.target]? = some n → (s.tile t).entries.length < 16 → (∃ i < 16, AList.get? (s.tile t).entries i = none) →
        (∀ b', l.got.find? (·.1 == gbn) = none → l.fetch = [gbn] → s.arg.v = 0 → (s.tile t).loadWait = [] → arrived gbn →
          fetchBlock s x.jid (addr (w64 x.img) + x.dir.getD gbn 0) gbn = .ok b' →
          ∃ u i, exec .configBlockFetched s = .next u ∧ taken l.target n u
            ∧ AList.get? (u.tile t).entries i = some { ctx := r.ctx, blk := blk, block := b' })
        ∧ (l.got.find? (·.1 == gbn) = some (gbn, b) → s.arg.tile = t → (s.tile t).loadWait = (g, v) :: rest →
            ∃ u i, exec .configLoadEntryWait s = .next u ∧ taken l.target n u ∧ (u.tile t).loadWait = rest
              ∧ AList.get? (u.tile t).entries i = some { ctx := r.ctx, blk := blk, block := b }))

/-! ## Row unit, handlers, matrix array -/

/-- R203, R205, R206: a row-unit instruction of one lane whose handles pass their checks, whose formats are of the class it takes and
whose sources have a shape that broadcasts, joins the operations of its tile, counted in OTO; so does one that takes poison, marked with
the record. -/
def Obligations.RowUnitIssue : Prop :=
  ∀ (s : State) (fr : Firing) (f : Fields) (a b c : Word) (k : Bool),
    let x := desc s fr a
    let y := desc s fr b
    let z := desc s fr c
    let i := rowIssued s fr f none
    let buf (h : Word) : Buf := bufOf s (tileDie fr.tile) h
    (One s fr →
      (Uses s fr 0 a true false → Uses s fr 1 b true false → Uses s fr 2 c true true → Fits z x → Fits z y →
        (Class k x → Class k y → Class k z →
          exec (.tadd f) s = .next i ∧ exec (.tsub f) s = .next i ∧ exec (.tmul f) s = .next i ∧ exec (.tfma f) s = .next i
            ∧ exec (.tminmax f) s = .next i)
        ∧ (Class k x → Class k y → MaskFmt z → exec (.tcmp f) s = .next i)
        ∧ (MaskFmt x → Class k y → Class k z → exec (.tmsel f) s = .next i)
        ∧ (Class false x → Class false y → Class false z → f.ar = 3 → (∀ w ∈ chainWords s fr f, stepOk true w = true) →
            exec (.tchain f) s = .next i))
      ∧ (Uses s fr 0 a true false → Uses s fr 1 b true true →
        (Fits y x → Class k x → Class k y → exec (.tscal f) s = .next i)
        ∧ (Fits y x → Class false x → Class false y → exec (.tact f) s = .next i)
        ∧ (Fits y x → Class false x → Class false y → f.ar = 2 → (∀ w ∈ chainWords s fr f, stepOk false w = true) →
            exec (.tchain f) s = .next i)
        ∧ (Class k x → Class k y →
            (if xbits f.x 4 1 = 0 then tRows y.shape = tRows x.shape ∧ tCols y.shape = 1
             else tCols y.shape = tCols x.shape ∧ tRows y.shape = 1) → exec (.tred f) s = .next i)
        ∧ (cvtFmtOk (buf a) = true → cvtFmtOk (buf b) = true → cvtScaleOk s (xbits f.x 4 1) (buf a) = true →
            cvtScaleOk s (xbits f.x 4 1) (buf b) = true → Fits y x → exec (.tcvt f) s = .next i)
        ∧ (field x.shape 26 6 = field y.shape 26 6 → tRows x.shape = tRows y.shape → tCols x.shape = tCols y.shape →
            (tBits x.shape = 8 ∨ tBits x.shape = 16 ∨ tBits x.shape = 32) → exec (.tperm f) s = .next i))
      ∧ ((∀ v < 64, ∃ n < 64, permAt (benPerm s fr f) n = v) → exec (.benset f) s = .next i))
    ∧ (∀ r, s.issuing = some fr → s.detected = [] → fr.rl = 1 → poisonAt fr.ops 0 = some r →
        ∀ o ∈ [Instr.tadd f, .tsub f, .tmul f, .tfma f, .tscal f, .tminmax f, .tact f, .tred f, .tcvt f, .tchain f, .benset f,
          .tperm f, .tcmp f, .tmsel f], exec o s = .next (rowIssued s fr f (some r)))

/-- R203 to R206: the oldest operation begins; when it completes, `rowPerform` has left its results in the destination, source references are
released, the destination's handle leaves on D0 and done on D1, and OTO falls. One that takes poison performs nothing and emits its record.
For an operation none of whose words the input reads earlier or writes later (R300; log entry 131). -/
def Obligations.RowUnitEvents : Prop :=
  ∀ (s : State) (t : Nat) (o : RuOp) (rest : List RuOp), s.arg.tile = t → (s.tile t).ruOps = o :: rest →
    s.early = [] → s.arg.words = [] → o.done = false →
    let fr := o.firing
    let f := o.f
    let die := tileDie t
    let s1 := s.onTile t fun c => { c with ruOps := rest }
    (o.started = false → exec .rowUnitOperationStart s = .next (s.onTile t fun c => { c with ruOps := { o with started := true } :: rest }))
    ∧ (o.started = true → fr.tile = t →
      (∀ r, o.bad = some r → exec .rowUnitOperationComplete s = .next
        ((((s1.releaseAll die (laneHandles fr o.lane)).emit1 fr f.d0 o.lane (.pois r)).emit1 fr f.d1 o.lane (.pois r)).uncount fr .oto))
      ∧ (∀ op g, o.bad = none → s.fieldsOf fr = some (op, g) →
        (op = 0x6A → fr.handles = [] → exec .rowUnitOperationComplete s = .next
          ((((rowPerform s1 op f fr).onTile t fun c => { c with ruops := c.ruops + 1 }).emit1 fr f.d1 o.lane .dn).uncount fr .oto))
        ∧ (∀ a b c, fr.handles = [a, b, c] → 0x60 ≤ op → op < 0x6E → op ≠ 0x6A → (rowPorts op f).2 = 2 →
          let u := ((rowPerform s1 op f fr).onTile t fun c => { c with ruops := c.ruops + 1 }).releaseAll die [a, b]
          exec .rowUnitOperationComplete s = .next (((u.emit1 fr f.d0 o.lane (.hand (rehandle u die c))).emit1 fr f.d1 o.lane .dn).uncount fr .oto))
        ∧ (∀ a b, fr.handles = [a, b] → 0x60 ≤ op → op < 0x6E → op ≠ 0x6A → (rowPorts op f).2 = 1 →
          let u := ((rowPerform s1 op f fr).onTile t fun c => { c with ruops := c.ruops + 1 }).releaseAll die [a]
          exec .rowUnitOperationComplete s = .next (((u.emit1 fr f.d0 o.lane (.hand (rehandle u die b))).emit1 fr f.d1 o.lane .dn).uncount fr .oto))))

/-- R201, R202, R209 to R217: the bytes that a completed row-unit operation leaves, for buffers with no uncorrectable word and no poison. TADD,
TSUB, TMUL, TFMA, TSCAL and TMINMAX give exact results, rounded once or taken modulo 2^32 or clamped; TCMP gives the relation and TMSEL
chooses; TACT applies its function, whose special values are the table's; TRED reduces rows or columns, written once all are read; TCVT
converts, with the scales of an MX source and one scale for each block of an MX target; TPERM permutes columns in groups of 64; TCHAIN runs
its steps, each rounded to FP32; BENSET sets its bank. -/
def Obligations.RowUnitValues : Prop :=
  (∀ (s : State) (f : Fields) (fr : Firing) (ha hb hc : Word) (q : Bool),
    let die := tileDie fr.tile
    let a := bufOf s die ha
    let b := bufOf s die hb
    let c := bufOf s die hc
    let m := RMode.ofCode (xbits f.x 0 3)
    let clean (x : Buf) : Prop := (s.mtile x.m).ue = [] ∧ (s.mtile x.m).poison? x.d = none
    let va (s : State) (r k : Nat) : Nat := cell s a r k
    let vb (s : State) (r k : Nat) : Nat := cell s b r k
    let vc (s : State) (r k : Nat) : Nat := (s.rowVals c.m c.x r).getD k 0
    let fa (s : State) (r k : Nat) : Ex := elemEx a.fmt (va s r k)
    let fb (s : State) (r k : Nat) : Ex := elemEx b.fmt (vb s r k)
    let fc (s : State) (r k : Nat) : Ex := elemEx c.fmt (vc s r k)
    let ia (s : State) (r k : Nat) : Int := intElem a.fmt (va s r k)
    let ib (s : State) (r k : Nat) : Int := intElem b.fmt (vb s r k)
    let ic (s : State) (r k : Nat) : Int := intElem c.fmt (vc s r k)
    let res (op : Nat) (e : State → Nat → Nat → Ex) (i : State → Nat → Nat → Int) : Prop :=
      rowPerform s op f fr = rowsDone c (fun s r k => if q then intRes c.fmt f (i s r k) else floatRes c.fmt f (e s r k)) s
    let steps := (List.range (xbits f.x 7 3 + 1)).map fun i => s.constOf fr (f.ck.toNat + i)
    fr.handles = [ha, hb, hc] → clean a → clean b → clean c →
    (Class q c.x →
      res 0x60 (fun s r k => exSum m [fa s r k, fb s r k]) (fun s r k => ia s r k + ib s r k)
      ∧ res 0x61 (fun s r k => exSum m [fa s r k, (fb s r k).neg]) (fun s r k => ia s r k - ib s r k)
      ∧ res 0x62 (fun s r k => (fa s r k).mul (fb s r k)) (fun s r k => ia s r k * ib s r k)
      ∧ res 0x63 (fun s r k => exSum m [(fa s r k).mul (fb s r k), fc s r k]) (fun s r k => ia s r k * ib s r k + ic s r k)
      ∧ (f.sub = 0 → res 0x65 (fun s r k => (fa s r k).min (fb s r k)) (fun s r k => min (ia s r k) (ib s r k)))
      ∧ (f.sub = 1 → res 0x65 (fun s r k => (fa s r k).max (fb s r k)) (fun s r k => max (ia s r k) (ib s r k)))
      ∧ (f.sub = 2 → res 0x65 (fun s r k => if fa s r k = .nan then fb s r k else if fb s r k = .nan then fa s r k else (fa s r k).min (fb s r k))
          (fun s r k => min (ia s r k) (ib s r k)))
      ∧ (f.sub = 3 → res 0x65 (fun s r k => if fa s r k = .nan then fb s r k else if fb s r k = .nan then fa s r k else (fa s r k).max (fb s r k))
          (fun s r k => max (ia s r k) (ib s r k)))
      ∧ (b.fmt ≠ c.fmt → rowPerform s 0x6D f fr = rowsDone c (fun s r k =>
          if va s r k = 0 then vc s r k else if q then intRes c.fmt f (ib s r k) else floatRes c.fmt f (fb s r k)) s))
    ∧ (Class false a.x → f.sub.toNat < 8 → rowPerform s 0x6C f fr = rowsDone c (fun s r k =>
        bit (if fa s r k = .nan ∨ fb s r k = .nan then f.sub.toNat == 1 || f.sub.toNat == 6
             else if f.sub.toNat = 6 then false else if f.sub.toNat = 7 then true
             else relates f.sub.toNat ((fa s r k).lt (fb s r k)) ((fa s r k).eq (fb s r k)) ((fb s r k).lt (fa s r k)))) s)
    ∧ (Class true a.x → f.sub.toNat < 8 → rowPerform s 0x6C f fr = rowsDone c (fun s r k =>
        bit (if f.sub.toNat = 6 then false else if f.sub.toNat = 7 then true
             else relates f.sub.toNat (decide (ia s r k < ib s r k)) (decide (ia s r k = ib s r k)) (decide (ib s r k < ia s r k)))) s)
    ∧ (b.fmt = c.fmt → rowPerform s 0x6D f fr = rowsDone c (fun s r k => if va s r k = 0 then vc s r k else vb s r k) s)
    ∧ (f.ar = 3 → rowPerform s 0x69 f fr = rowsDone c (fun s r k => floatRes c.fmt f
        (steps.foldl (fun v w => Fmt.f32.decode (Fmt.f32.encode .rn false (chainOp w v (fb s r k)))) (fa s r k))) s))
  ∧ (∀ (s : State) (f : Fields) (fr : Firing) (ha hb : Word) (q : Bool),
    let die := tileDie fr.tile
    let a := bufOf s die ha
    let b := bufOf s die hb
    let rm := xbits f.x 0 3
    let m := RMode.ofCode rm
    let dim := xbits f.x 4 1
    let w := (s.operand fr f 2 0).word
    let clean (x : Buf) : Prop := (s.mtile x.m).ue = [] ∧ (s.mtile x.m).poison? x.d = none
    let va (s : State) (r k : Nat) : Nat := cell s a r k
    let fa (s : State) (r k : Nat) : Ex := elemEx a.fmt (va s r k)
    let ia (s : State) (r k : Nat) : Int := intElem a.fmt (va s r k)
    let res (op : Nat) (e : State → Nat → Nat → Ex) (i : State → Nat → Nat → Int) : Prop :=
      rowPerform s op f fr = rowsDone b (fun s r k => if q then intRes b.fmt f (i s r k) else floatRes b.fmt f (e s r k)) s
    let steps := (List.range (xbits f.x 7 3 + 1)).map fun i => s.constOf fr (f.ck.toNat + i)
    fr.handles = [ha, hb] → clean a → clean b →
    (Class q b.x →
      (f.sub = 0 → res 0x64 (fun s r k => (fa s r k).mul (readF .f32 w)) (fun s r k => ia s r k * w.toInt))
      ∧ (f.sub = 1 → res 0x64 (fun s r k => exSum m [fa s r k, readF .f32 w]) (fun s r k => ia s r k + w.toInt))
      ∧ (f.sub = 2 → res 0x64 (fun s r k => exSum m [readF .f32 w, (fa s r k).neg]) (fun s r k => w.toInt - ia s r k)))
    ∧ rowPerform s 0x66 f fr = rowsDone b (fun s r k =>
        floatRes b.fmt f (actFn f.sub.toNat (BitVec.ofNat 64 (va s r k)) (fa s r k))) s
    ∧ (f.ar = 2 → rowPerform s 0x69 f fr = rowsDone b (fun s r k => floatRes b.fmt f
        (steps.foldl (fun v w => Fmt.f32.decode (Fmt.f32.encode .rn false (chainOp w v (.fin false 0 0)))) (fa s r k))) s)
    ∧ rowPerform s 0x6B f fr = rowsDone b (fun u r k =>
        (u.rowVals a.m a.x r).getD (k / 64 * 64 + permAt ((s.tile fr.tile).permOf fr.ctx (xbits f.x 6 1)) (k % 64)) 0) s
    ∧ (let acc := xbits f.x 5 1 = 1
       let els (i : Nat) : List Nat :=
         if dim = 0 then s.rowVals a.m a.x i else (List.range a.rows).map fun r => (s.rowVals a.m a.x r).getD i 0
       let old (i : Nat) : Nat := if dim = 0 then s.elemGet b.m b.x i 0 else s.elemGet b.m b.x 0 i
       let es (i : Nat) : List Ex := (els i).map (elemEx a.fmt) ++ if acc then [elemEx b.fmt (old i)] else []
       let is (i : Nat) : List Int := (els i).map (intElem a.fmt) ++ if acc then [intElem b.fmt (old i)] else []
       let mag (e : Ex) : Ex := if e.isNeg then e.neg else e
       let zero : Ex := .fin false 0 0
       let reds (i : Nat) : Ex := match f.sub.toNat with
         | 0 => exSum m (es i)
         | 1 => folded zero Ex.min (es i)
         | 2 => folded zero Ex.max (es i)
         | _ => folded zero Ex.max ((es i).map mag)
       let redi (i : Nat) : Int := match f.sub.toNat with
         | 0 => (is i).sum
         | 1 => folded 0 min (is i)
         | 2 => folded 0 max (is i)
         | _ => folded 0 max ((is i).map fun x => (x.natAbs : Int))
       let val (i : Nat) : Nat := if q then intRes b.fmt f (redi i) else floatRes b.fmt f (reds i)
       Class q a.x → Class q b.x → 0 < a.rows → 0 < a.cols →
       (dim = 0 → rowPerform s 0x67 f fr = (List.range a.rows).foldl (fun u i => u.rowPut b.m b.x i [val i]) s)
       ∧ (dim = 1 → rowPerform s 0x67 f fr = s.rowPut b.m b.x 0 ((List.range a.cols).map val)))
    ∧ (∀ p e : Buf, (isMx a.fmt = true → scaleOf s a = some p) → (isMx b.fmt = true → scaleOf s b = some e) →
       (∀ y, scaleOf s a = some y → clean y) →
       let mode := cvtMode rm (s.constOf fr f.ck.toNat)
       let val (u : State) (r k : Nat) : Ex := converted u a p dim r k
       (isMx b.fmt = false → rowPerform s 0x68 f fr = rowsDone b (fun u r k => elemEnc b.fmt (mode r k) (val u r k)) s)
       ∧ (isMx b.fmt = true → dim = 0 → rowPerform s 0x68 f fr = (List.range b.rows).foldl (fun u r =>
            let sc (j : Nat) : Nat := mxScale b.fmt ((((List.range b.cols).map (val u r)).drop (32 * j)).take 32)
            (List.range (ceilDiv b.cols 32)).foldl (fun w j => w.elemSet e.m e.x r j (sc j))
              (u.rowPut b.m b.x r ((List.range b.cols).map fun k => mxElem b.fmt (sc (k / 32)) (mode r k) (val u r k)))) s)
       ∧ (isMx b.fmt = true → dim = 1 → rowPerform s 0x68 f fr = (List.range (ceilDiv b.rows 32)).foldl (fun u g =>
            let rs := (List.range (min 32 (b.rows - 32 * g))).map (32 * g + ·)
            let sc (k : Nat) : Nat := mxScale b.fmt (rs.map fun r => val u r k)
            (List.range b.cols).foldl (fun w k => w.elemSet e.m e.x k g (sc k)) (rs.foldl (fun w r =>
              w.rowPut b.m b.x r ((List.range b.cols).map fun k => mxElem b.fmt (sc k) (mode r k) (val u r k))) u)) s)))
  ∧ (∀ (w : Word) (e : Int) (n : Bool) (k m : Nat), k < 10 →
      let out (v : Ex) : Nat := Fmt.f32.encode .rn false (actFn k w v)
      let row (l : List Nat) : Nat := l.getD k 0
      let nan := 0x7FC00000
      let one := 0x3F800000
      let inf := 0x7F800000
      let minus := 0x80000000
      out (.inf true) = row [0, minus, minus, 0, one + minus, 0, minus, nan, nan, nan]
      ∧ out (.inf false) = row [inf, inf, inf, inf, one, one, 0, 0, inf, inf]
      ∧ out (.fin false 0 e) = row [0, 0, 0, one, 0, 0x3F000000, inf, inf, inf + minus, 0]
      ∧ out (.fin true 0 e) = row [0, minus, minus, one, minus, 0x3F000000, inf + minus, inf + minus, inf + minus, minus]
      ∧ out .nan = nan
      ∧ (7 ≤ k → 0 < m → out (.fin true m e) = nan)
      ∧ (k = 0 → 0 < m → out (.fin n m e) = if n then 0 else Fmt.f32.encode .rn false (.fin n m e))
      ∧ (k = 9 → out (.fin n m e) = Fmt.f32.encode .rn false (Ex.fin n m e).sqrt))
  ∧ (∀ (s : State) (f : Fields) (fr : Firing),
      let c := (rowPerform s 0x6A f fr).tile fr.tile
      let bank := xbits f.x 6 1
      (∀ i < 64, permAt (c.permOf fr.ctx bank) i
        = ((List.range 6).map fun j => (s.constOf fr (f.ck.toNat + j)).toNat * 2 ^ (64 * j)).sum / 2 ^ (6 * i) % 64)
      ∧ (∀ x b, b < 2 → (x, b) ≠ (fr.ctx, bank) → c.permOf x b = (s.tile fr.tile).permOf x b))

/-- R218, R219, R223, R226 to R228: SOPSET takes a FREE handler, or waits for it; SOPGO raises PEND up to the steps left; SOPMASK and
SOPPRI set MASK and PRI; a handler that is not allotted is refused with 0x03, one that is not the context's with 0x05. -/
def Obligations.HandlerInstructions : Prop :=
  ∀ (s : State) (fr : Firing) (f : Fields), One s fr → s.early = [] →
    let m := memTileOf fr.tile (xbits f.x 4 1)
    let h := xbits f.x 0 4
    let c := s.mtile m
    let x := c.handler h
    let kind := f.sub.toNat
    let p := sopParams s fr f
    let n := (word s fr f (if f.kc then 1 else 0) 0).toNat
    let set (y : Hnd) : State := ((s.issued).onMtile m fun c => c.setHandler h (aged s x y)).emit1 fr f.d1 0 .dn
    (Shaped fr f.ar.toNat → c.allotted fr.ctx h = true →
      (∀ q < f.ar.toNat, ∃ b, Uses s fr q b true (decide (q ∈ sopDests kind)) ∧ home fr b = m) →
      sopOk s kind (fr.handles.map (bufOf s (tileDie m))) p.1 p.2 = true →
      (x.busy = false → (∀ w ∈ c.hwait, xbits w.f.x 0 4 ≠ h) → exec (.sopset f) s = .next (((counted s.issued fr .oto).onMtile m fun c =>
        c.setHandler h {
          kind := kind, busy := true, ctx := fr.ctx, holder := fr.tile % 1024, chn := xbits f.x 5 1 == 1,
          nexth := xbits f.x 6 4, total := sopTotal kind (fr.handles.map (bufOf s (tileDie m))), w0 := p.1, w1 := p.2,
          bound := fr.handles, firing := some fr, lane := 0, d1 := f.d1 }).emit1 fr f.d0 0 .dn))
      ∧ (x.busy = true → exec (.sopset f) s = .next ((counted s.issued fr .oto).onMtile m fun c =>
          { c with hwait := c.hwait ++ [{ firing := fr, f := f, lane := 0 }] })))
    ∧ (fr.handles = [] → c.allotted fr.ctx h = true → x.busy = true → x.ctx = fr.ctx →
        exec (.sopgo f) s = .next (set { x with pend := min (x.pend + n) (x.total - x.done) })
        ∧ exec (.sopmaskOff f) s = .next (set { x with mask := true })
        ∧ exec (.sopmaskOn f) s = .next (set { x with mask := false })
        ∧ exec (.soppri f) s = .next (set { x with pri := xbits f.x 5 2 }))
    ∧ (fr.handles = [] → ∀ i ∈ [Instr.sopgo f, .sopmaskOff f, .sopmaskOn f, .soppri f],
        (c.allotted fr.ctx h = false → exec i s = .next ((s.issued).raise fr { cause := 0x03 }))
        ∧ (c.allotted fr.ctx h = true → x.busy = false ∨ x.ctx ≠ fr.ctx → exec i s = .next ((s.issued).raise fr { cause := 0x05 })))

/-- R219 to R223, R226: a chained count word raises PEND of its context's BUSY handler, or is counted as discarded; a step lowers PEND,
raises DONE and writes what its kind says, row by row: COPY, GATHER, SCATTER, TRANSPOSE, WINDOW, BCAST, SPLIT, JOIN, CONVERT, REDUCE,
COMPRESS and EXPAND while source rows are left, with rows dropped or zeroed counted in OOB; a handler whose steps are done emits its count
and is FREE; a waiting SOPSET takes it. For steps none of whose words the input reads earlier or writes later (R300; log entry 131). -/
def Obligations.HandlerEvents : Prop :=
  ∀ (s : State) (m : Nat), s.arg.tile = m → s.early = [] → s.late = [] → s.arg.words = [] →
    let c := s.mtile m
    let h := s.arg.n
    (∀ w, c.hwords[h]? = some w →
        let x := c.handler w.h
        (x.busy = true → x.ctx = w.ctx → exec .handlerCountWord s = .next (s.onMtile m fun c =>
          { c with hwords := dropNth c.hwords h }.setHandler w.h (aged s x { x with pend := min (x.pend + w.count) (x.total - x.done) })))
        ∧ (x.busy = false ∨ x.ctx ≠ w.ctx → exec .handlerCountWord s = .next (s.onMtile m fun c =>
            { c with hwords := dropNth c.hwords h, hdisc := min (c.hdisc + 1) (2 ^ 27 - 1) })))
    ∧ (∀ n x fr, c.hnd = [(n, x)] → x.runnable = true → x.firing = some fr → s.isLive fr = true → s.frozenAt fr.tile fr.ctx = false →
        let buf (p : Nat) : Buf := (x.bound.map (bufOf s (tileDie m))).getD p { m := 0, d := 0, x := {} }
        let a := buf 0
        let b := buf 1
        let e := buf 2
        let k := x.kind
        let r := x.done
        let row (q : Buf) (i : Nat) : List Nat := s.rowVals q.m q.x i
        let zeros (q : Buf) : List Nat := List.replicate q.cols 0
        let index : Int := intElem e.fmt (if e.cols = 1 then s.elemGet e.m e.x r 0 else s.elemGet e.m e.x 0 r)
        let mask := s.elemGet e.m e.x 0 r
        let dim := field x.w0 0 1
        let pos := field x.w0 1 13
        let p := winOf x.w0 x.w1
        ∃ u, exec .handlerStep s = .next u ∧
          let y := (u.mtile m).handler n
          let put (l : List (Buf × Nat × List Nat)) : State := l.foldl (fun s w => s.rowPut w.1.m w.1.x w.2.1 w.2.2) s
          let writes (l : List (Buf × Nat × List Nat)) : Prop :=
            u.mem = (put l).mem ∧ y.oob = x.oob ∧ y.wrote = x.wrote + l.length
          let outside (l : List (Buf × Nat × List Nat)) : Prop := u.mem = (put l).mem ∧ y.oob = x.oob + 1 ∧ y.wrote = x.wrote
          y.done = x.done + 1 ∧ y.pend = x.pend - 1
          ∧ (k = 0 → writes [(b, r, row a r)])
          ∧ (k = 1 → 0 ≤ index ∧ index < a.rows → writes [(b, r, row a index.toNat)])
          ∧ (k = 1 → index < 0 ∨ (a.rows : Int) ≤ index → outside [(b, r, zeros b)])
          ∧ (k = 2 → 0 ≤ index ∧ index < b.rows → writes [(b, index.toNat, row a r)])
          ∧ (k = 2 → index < 0 ∨ (b.rows : Int) ≤ index → outside [])
          ∧ (k = 3 → writes [(b, r, (List.range b.cols).map fun j => s.elemGet a.m a.x j r)])
          ∧ (k = 4 → writes [(b, r, (List.range p.kh).flatMap fun ky => (List.range p.kw).flatMap fun kx =>
              let iy : Int := ((r / p.wo * p.sy + ky * p.dy : Nat) : Int) - p.pt
              let ix : Int := ((r % p.wo * p.sx + kx * p.dx : Nat) : Int) - p.pl
              if 0 ≤ iy ∧ iy < p.h ∧ 0 ≤ ix ∧ ix < p.w then row a (iy * p.w + ix).toNat else zeros a)])
          ∧ (k = 5 → writes [(b, r, (List.range b.cols).map (cell s a r))])
          ∧ (k = 6 → dim = 0 → writes [(b, r, (row a r).take pos), (e, r, (row a r).drop pos)])
          ∧ (k = 6 → dim = 1 → r < pos → writes [(b, r, row a r)])
          ∧ (k = 6 → dim = 1 → pos ≤ r → writes [(e, r - pos, row a r)])
          ∧ (k = 7 → dim = 0 → writes [(e, r, row a r ++ row b r)])
          ∧ (k = 7 → dim = 1 → r < pos → writes [(e, r, row a r)])
          ∧ (k = 7 → dim = 1 → pos ≤ r → writes [(e, r, row b (r - pos))])
          ∧ (k = 10 → mask = 0 → writes [] ∧ y.next = x.next)
          ∧ (k = 10 → mask ≠ 0 → x.next < b.rows → writes [(b, x.next, row a r)] ∧ y.next = x.next + 1)
          ∧ (k = 10 → mask ≠ 0 → b.rows ≤ x.next → outside [] ∧ y.next = x.next)
          ∧ (k = 11 → mask = 0 → writes [(b, r, zeros b)] ∧ y.next = x.next)
          ∧ (k = 11 → mask ≠ 0 → x.next < a.rows → writes [(b, r, row a x.next)] ∧ y.next = x.next + 1)
          ∧ (∀ q : Bool, k = 9 → Class q a.x → Class q b.x →
              let red (j : Nat) : Nat :=
                let v := (row a r).getD j 0
                let w := (row b r).getD j 0
                if q then
                  ((match field x.w0 0 2 with
                    | 0 => intElem a.fmt v + intElem b.fmt w
                    | 1 => min (intElem a.fmt v) (intElem b.fmt w)
                    | _ => max (intElem a.fmt v) (intElem b.fmt w)) % 2 ^ 32).toNat
                else (elemFmt b.fmt).encode .rn false (match field x.w0 0 2 with
                    | 0 => exSum .rn [elemEx a.fmt v, elemEx b.fmt w]
                    | 1 => (elemEx a.fmt v).min (elemEx b.fmt w)
                    | _ => (elemEx a.fmt v).max (elemEx b.fmt w))
              writes [(b, r, (List.range b.cols).map red)])
          ∧ (∀ c0 c1 : Buf, k = 8 → c.ue = [] → (isMx a.fmt = true → scaleOf s a = some c0) → (isMx b.fmt = true → scaleOf s b = some c1) →
              let d3 := field x.w0 3 1
              let mode := cvtMode (field x.w0 0 3) (BitVec.ofNat 64 (field x.w0 32 32)) r
              let val (r j : Nat) : Ex := converted s a c0 d3 r j
              y.oob = x.oob ∧ y.wrote = x.wrote + 1
              ∧ (isMx b.fmt = false → u.mem = (s.rowPut b.m b.x r ((List.range b.cols).map fun j => elemEnc b.fmt (mode j) (val r j))).mem)
              ∧ (isMx b.fmt = true → d3 = 0 →
                  let sc (j : Nat) : Nat := mxScale b.fmt ((((List.range b.cols).map (val r)).drop (32 * j)).take 32)
                  u.mem = ((List.range (ceilDiv b.cols 32)).foldl (fun w j => w.elemSet c1.m c1.x r j (sc j))
                    (s.rowPut b.m b.x r ((List.range b.cols).map fun j => mxElem b.fmt (sc (j / 32)) (mode j) (val r j)))).mem)
              ∧ (isMx b.fmt = true → d3 = 1 →
                  let sc (j : Nat) : Nat := mxScale b.fmt ((List.range (min 32 (b.rows - 32 * (r / 32)))).map fun i => val (32 * (r / 32) + i) j)
                  u.mem = ((List.range b.cols).foldl (fun w j => w.elemSet c1.m c1.x j (r / 32) (sc j))
                    (s.rowPut b.m b.x r ((List.range b.cols).map fun j => mxElem b.fmt (sc j) (mode j) (val r j)))).mem)))
    ∧ (∀ fr, (c.handler h).busy = true → (c.handler h).firing = some fr → (c.handler h).done = (c.handler h).total →
        let x := c.handler h
        exec .handlerComplete s = .next ((((s.onMtile m fun c => c.setHandler h
          { x with busy := false, firing := none, bound := [], d1 := none }).releaseAll (tileDie m) x.bound).emit1 fr x.d1 x.lane
            (.scal (BitVec.ofNat 64 x.wrote))).uncount fr .oto))
    ∧ (∀ w rest, c.hwait = w :: rest → xbits w.f.x 0 4 = h → s.isLive w.firing = true → s.frozenAt w.firing.tile w.firing.ctx = false →
        (c.handler h).busy = false → memTileOf w.firing.tile (xbits w.f.x 4 1) = m →
        ∃ u, exec .sopsetWaitEnd s = .next u ∧ (u.mtile m).hwait = rest ∧ ((u.mtile m).handler h).busy = true
          ∧ ((u.mtile m).handler h).firing = some w.firing ∧ ((u.mtile m).handler h).ctx = w.firing.ctx)

/-- R35, R235, R236, R458: an instruction of group 0x8 puts one message for each lane in the way of the array's inbox; the array accepts
the oldest while fewer than two wait and THAW has brought none back, checks it, and numbers it; one that fails raises its fault. -/
def Obligations.MatrixMessages : Prop :=
  ∀ (s : State),
    (∀ fr f, s.issuing = some fr → ∀ i ∈ [Instr.mma f, .mmas f, .mmac f, .mmsr f, .accld f, .accst f, .cbset f, .cbswap f, .mmprg f,
        .mmcfg f], exec i s = .next (messages s fr f))
    ∧ (∀ t g rest op f, s.arg.tile = t → (s.tile t).mxIn = g :: rest → (s.tile t).mxHalted = false → (s.tile t).mxInbox.length < 2 →
        backMsg s t = none → s.fieldsOf g.firing = some (op, f) → op ≠ 0xA1 →
        let g' : MxMsg := { g with
          id := (s.tile t).mxseq + 1, table := tableAhead (s.tile t) (mxOp s), ecm := ecmAhead s (s.tile t) (mxOp s) g.firing.ctx }
        (g.bad = none → mxCheck s t g' op = none → ∃ u, exec .engineMessageAccept s = .next u ∧ (u.tile t).mxIn = rest
          ∧ (u.tile t).mxInbox = (s.tile t).mxInbox ++ [g'] ∧ (u.tile t).mxseq = (s.tile t).mxseq + 1
          ∧ (0x80 ≤ op → op < 0x86 → ((u.tile t).opRec g.firing.ctx).state = 1 ∧ ((u.tile t).opRec g.firing.ctx).id = g'.id
              ∧ ((u.tile t).opRec g.firing.ctx).steps = mxSteps s t g' op))
        ∧ (∀ e, g.bad = none → mxCheck s t g' op = some e → ∃ u, exec .engineMessageAccept s = .next u
            ∧ (∀ x ∈ (u.tile t).mxIn, x.firing ≠ g.firing) ∧ (u.tile t).mxInbox = (s.tile t).mxInbox
            ∧ ∃ d, u.detected = s.detected ++ [d] ∧ d.cause = e.cause ∧ d.extra = e.extra))

/-- R231, R238, R243, R247 to R251: what the array does with the message at the head of its inbox: a product or an accumulator transfer
begins feeding, with CLR clearing its bank; CBSET writes the shadow table, CBSWAP exchanges the tables, MMPRG emits MXOPc, MMCFG sets the
mode. -/
def Obligations.MatrixTakes : Prop :=
  ∀ (s : State) (t : Nat) (g : MxMsg) (rest : List MxMsg) (op : Nat) (f : Fields),
    let c := s.tile t
    let fr := g.firing
    s.arg.tile = t → fr.tile = t → c.mxInbox = g :: rest → c.mxHalted = false → heldByFreeze s t g op = false → g.bad = none →
    s.fieldsOf fr = some (op, f) → op ≠ 0xA1 →
    let pop := s.onTile t fun c => { c with mxInbox := rest }
    let drop (k : State) : State := k.releaseAll (tileDie t) (laneHandles fr g.lane)
    let cb : State := messageEnds (drop (s.onTile t fun c => { c.setTab (1 - g.table) {
        valid := true, ctx := fr.ctx, bits := (word s fr g.f 0 g.lane).toNat + (word s fr g.f 1 g.lane).toNat * 2 ^ 64 } with mxInbox := rest })) g none
    (s.frozenAt t fr.ctx = false → (0x80 ≤ op ∧ op ≤ 0x83 ∧ (∀ o ∈ c.mxRun, o.steps ≤ o.prog)) ∨ ((op = 0x84 ∨ op = 0x85) ∧ c.mxRun = []) →
      ∃ u, exec .matrixFeedBegin s = .next u ∧ (u.tile t).mxInbox = rest
        ∧ (u.tile t).mxRun = c.mxRun ++ [{ msg := g, steps := mxSteps s t g op }]
        ∧ (0x80 ≤ op → op ≤ 0x83 → field (cmdWord s g op) 1 1 = 1 →
            let cleared : MxBank := { valid := true, ctx := fr.ctx, fill :=
              if op = 0x83 ∧ g.f.sub = 0 then 0x7F800000 else if op = 0x83 ∧ g.f.sub = 1 then 0xFF800000 else 0 }
            if op = 0x82 then (u.tile t).acc0 = cleared ∧ (u.tile t).acc1 = cleared
            else (u.tile t).bank (field (cmdWord s g op) 0 1) = cleared))
    ∧ (op = 0x86 → shadowBusy s c g = false → exec .matrixFeedBegin s = .next cb ∧ exec .cbsetWaitEnd s = .next cb)
    ∧ (op = 0x87 → exec .matrixFeedBegin s = .next (messageEnds (drop (pop.onTile t fun c => { c with cur := 1 - c.cur })) g none))
    ∧ (op = 0x88 → exec .matrixFeedBegin s = .next (((drop pop).emit1 fr g.f.d0 g.lane (.scal (c.opRec fr.ctx).word)).uncount fr .oto))
    ∧ (op = 0x89 → exec .matrixFeedBegin s = .next (messageEnds (drop (pop.onTile t fun c => { c with
        mxop := AList.set c.mxop fr.ctx { c.opRec fr.ctx with ecm := (cmdWord s g 0x89).getLsbD 0 } })) g none))

/-- R93, R96, R97, R236, R239 to R242, R247, R248: a k-step of MMA or MMAS adds its products, scales applied, to every latch of the window,
rounded once, and to no other; one of MMAC does so for the real and the imaginary parts; one of MMSR combines by min-plus, max-times or
or-and; ACCLD sets the latches of its bank from its buffer, and ACCST writes them to its buffer, rounded, and zeroes them with SUB 1; a
finished operation emits its status and done and releases its panels; a fetch that meets an uncorrectable word halts it with a record; the
halt ends by RESUME, by abort, or after MXHTO clk with the fault; a freeze wave stops it. For steps none of whose words the input reads
earlier or writes later (R300; log entry 131). -/
def Obligations.MatrixSteps : Prop :=
  ∀ (s : State) (t : Nat) (o : MxOp) (op : Nat) (f : Fields),
    let c := s.tile t
    let g := o.msg
    let fr := g.firing
    let w := cmdWord s g op
    s.arg.tile = t → c.mxRun = [o] → s.fieldsOf fr = some (op, f) → op ≠ 0xA1 → fr.tile = t →
    s.early = [] → s.late = [] → s.arg.words = [] →
    (o.prog < o.steps → o.halt = none → s.frozenAt t fr.ctx = false → fetchFails s t o = false →
        ∃ u, exec .matrixKstepFeed s = .next u ∧ (u.tile t).mxRun.map (fun o => (o.msg, o.steps, o.prog, o.halt)) = [(g, o.steps, o.prog + 1, none)])
    ∧ (∀ ha hb, 0x80 ≤ op → op ≤ 0x83 → fr.handles = [ha, hb] → o.prog < o.steps → o.halt = none → s.frozenAt t fr.ctx = false →
        (∀ k, (s.mtile k).ue = []) →
        let a := bufOf s (tileDie t) ha
        let b := bufOf s (tileDie t) hb
        let q := mxGroup op g.f.sub.toNat a b
        let ks := (List.range (min q (a.cols - q * o.prog))).map (q * o.prog + ·)
        let tab := (c.tab g.table).bits
        let mo := field w 2 6
        let no := field w 8 6
        let bk := field w 0 1
        mo + a.rows ≤ 64 → no + b.cols ≤ 64 →
        ∃ u, exec .matrixKstepFeed s = .next u ∧ (u.tile t).mxRun.map (·.prog) = [o.prog + 1]
          ∧ ∀ i < 64, ∀ j < 64, ∀ pa pb : Buf, (isMx a.fmt = true → scaleOf s a = some pa) → (isMx b.fmt = true → scaleOf s b = some pb) →
            let inside : Prop := mo ≤ i ∧ i < mo + a.rows ∧ no ≤ j ∧ j < no + b.cols
            let old := (c.bank bk).latch i j
            let new := ((u.tile t).bank bk).latch i j
            let x (k : Nat) : Ex := panelEx s tab a pa (i - mo) k true
            let y (k : Nat) : Ex := panelEx s tab b pb (j - no) k false
            (¬ inside → (u.tile t).acc0.latch i j = c.acc0.latch i j ∧ (u.tile t).acc1.latch i j = c.acc1.latch i j)
            ∧ (op ≠ 0x82 → ((u.tile t).bank (1 - bk)).latch i j = (c.bank (1 - bk)).latch i j)
            ∧ (op = 0x80 ∨ op = 0x81 → inside → new = f32 (exSum .rn (Fmt.f32.decode old :: ks.map fun k => (x k).mul (y k))))
            ∧ (op = 0x83 → g.f.sub = 0 → inside →
                new = f32 (ks.foldl (fun v k => v.min (Fmt.f32.decode (f32 (exSum .rn [x k, y k])))) (Fmt.f32.decode old)))
            ∧ (op = 0x83 → g.f.sub = 1 → inside →
                new = f32 (ks.foldl (fun v k => v.max (Fmt.f32.decode (f32 ((x k).mul (y k))))) (Fmt.f32.decode old)))
            ∧ (op = 0x83 → g.f.sub = 2 → inside →
                new = if old % 2 ^ 31 ≠ 0 ∨ (∃ k ∈ ks, s.elemGet a.m a.x (i - mo) k ≠ 0 ∧ s.elemGet b.m b.x k (j - no) ≠ 0) then 0x3F800000 else 0)
            ∧ (op = 0x82 → o.prog < a.cols → inside →
                let va := cplxEx a.fmt (s.elemGet a.m a.x (i - mo) o.prog)
                let vb := cplxEx b.fmt (s.elemGet b.m b.x o.prog (j - no))
                (u.tile t).acc0.latch i j
                    = f32 (exSum .rn [Fmt.f32.decode (c.acc0.latch i j), va.1.mul vb.1, (va.2.mul vb.2).neg])
                ∧ (u.tile t).acc1.latch i j
                    = f32 (exSum .rn [Fmt.f32.decode (c.acc1.latch i j), va.1.mul vb.2, va.2.mul vb.1])))
    ∧ (∀ h, op = 0x84 ∨ op = 0x85 → fr.handles = [h] → o.prog < o.steps → o.halt = none → s.frozenAt t fr.ctx = false →
        (∀ k, (s.mtile k).ue = []) →
        let a := bufOf s (tileDie t) h
        let mo := field w 0 6
        let no := field w 6 6
        let bk := accBank g.f
        let cplx : Prop := a.fmt = 22 ∨ a.fmt = 23
        mo + a.rows ≤ 64 → no + a.cols ≤ 64 →
        ∃ u, exec .matrixKstepFeed s = .next u ∧ (u.tile t).mxRun.map (·.prog) = [o.prog + 1]
          ∧ (op = 0x84 → u.mem = s.mem ∧
              let loaded (b : MxBank) (part : Nat → Ex) : Prop :=
                b.valid = true ∧ b.ctx = fr.ctx ∧ (if b.psn then some b.prec else none) = (s.mtile a.m).poison? a.d
                ∧ ∀ i < 64, ∀ j < 64, b.latch i j =
                    if mo ≤ i ∧ i < mo + a.rows ∧ no ≤ j ∧ j < no + a.cols then f32 (part (s.elemGet a.m a.x (i - mo) (j - no))) else 0
              (cplx → loaded (u.tile t).acc0 (fun v => (cplxEx a.fmt v).1) ∧ loaded (u.tile t).acc1 fun v => (cplxEx a.fmt v).2)
              ∧ (¬ cplx → loaded ((u.tile t).bank bk) (elemEx a.fmt) ∧ (u.tile t).bank (1 - bk) = c.bank (1 - bk)))
          ∧ (op = 0x85 →
              let rm := RMode.ofCode (xbits g.f.x 0 3)
              let val (b : MxBank) (r k : Nat) : Ex := Fmt.f32.decode (b.latch (mo + r) (no + k))
              let half := if a.fmt = 22 then Fmt.bf16 else Fmt.f16
              let out (r k : Nat) : Nat :=
                if a.fmt = 22 ∨ a.fmt = 23 then half.encode rm false (val c.acc0 r k) + half.encode rm false (val c.acc1 r k) * 2 ^ 16
                else elemEnc a.fmt rm (val (c.bank bk) r k)
              let left (b b' : MxBank) : Prop := ∀ i < 64, ∀ j < 64, b'.latch i j =
                if g.f.sub = 1 ∧ mo ≤ i ∧ i < mo + a.rows ∧ no ≤ j ∧ j < no + a.cols then 0 else b.latch i j
              u.mem = ((List.range a.rows).foldl (fun s r => s.rowPut a.m a.x r ((List.range a.cols).map (out r))) s).mem
              ∧ ((c.bank bk).psn = true → ((u.mtile a.m).poison? a.d).isSome = true)
              ∧ (cplx → left c.acc0 (u.tile t).acc0 ∧ left c.acc1 (u.tile t).acc1)
              ∧ (¬ cplx → left (c.bank bk) ((u.tile t).bank bk) ∧ (u.tile t).bank (1 - bk) = c.bank (1 - bk))))
    ∧ (o.prog = o.steps →
        ∃ u, exec .matrixOperationComplete s = .next u ∧ (u.tile t).mxRun = [] ∧ (u.tile t).mxops = c.mxops + 1
          ∧ ∃ k, (k.tile t).acc0 = c.acc0 ∧ (k.tile t).acc1 = c.acc1
            ∧ (0x80 ≤ op → op ≤ 0x83 → u = messageEnds k g (some (.scal (BitVec.ofNat 64 (o.prog * 2 ^ 32)))))
            ∧ (∀ h, fr.handles = [h] → op = 0x84 ∨ op = 0x85 → u = messageEnds k g (some (.hand (rehandle s (tileDie t) h)))))
    ∧ (o.prog < o.steps → o.halt = none → s.frozenAt t fr.ctx = false → fetchFails s t o = true →
        ∃ u, exec .operandFetchFault s = .next u
          ∧ (g.ecm = false → ∃ d p, u.detected = s.detected ++ [d] ∧ d.cause = 0x0D ∧ d.rsm = true
              ∧ d.extra = BitVec.ofNat 64 o.prog ∧ (u.tile t).mxRun = [{ o with halt := some (s.clk, p) }])
          ∧ (g.ecm = true → (u.tile t).mxRun = []
              ∧ ∃ k, u = messageEnds k g (some (.scal (BitVec.ofNat 64 (0x0D + o.prog * 2 ^ 32 + 2 ^ 63))))))
    ∧ (∀ k p, o.halt = some (k, p) →
        let aborts (u : State) : Prop := (u.tile t).mxRun = []
          ∧ ∃ d, u.detected = s.detected ++ [d] ∧ d.cause = 0x0D ∧ d.extra = BitVec.ofNat 64 o.prog ∧ d.rsm = false
        (∃ u, exec .mxctlResume s = .next u ∧ (u.tile t).mxRun = [{ o with halt := none }])
        ∧ (∃ u, exec .mxctlAbort s = .next u ∧ aborts u)
        ∧ (s.isLive fr = true → k + c.mxhto ≤ s.clk → ∃ u, exec .matrixHaltTimeout s = .next u ∧ aborts u)
        ∧ (s.isLive fr = false → ∃ u, exec .matrixHaltTimeout s = .next u ∧ (u.tile t).mxRun = [] ∧ u.detected = s.detected))
    ∧ (s.frozenAt t s.arg.n = true → fr.ctx = s.arg.n → g.bad = none → o.prog < o.steps → 0x80 ≤ op → op ≤ 0x85 → c.mxInbox = [] →
        ∃ u, exec .matrixFreezeStop s = .next u ∧ (u.tile t).mxRun = [] ∧ (u.tile t).mxFrozen = c.mxFrozen ++ [o])

/-! ## Memory, copies, ordering -/

/-- R135, R273, R274, R285, R286, R289: LD, ST and ARG of aligned addresses, and LDT, STT, LDG and STG with a checked buffer, an aligned
base and pitch or index, enter the port's issue list with one request for each granule, counted in OLD or OST. A streaming LD that finds
its line sends nothing and emits the slot's bytes at its type. -/
def Obligations.MemoryNodes : Prop :=
  ∀ (s : State) (fr : Firing) (f : Fields), s.issuing = some fr → 0 < fr.rl → Clean fr →
    let r := (s.issued).releaseOps fr
    let w (p i : Nat) : Word := word s fr f p i
    let n := (f.ty.width + 7) / 8
    let aligned : Prop := ∀ i < fr.rl, addr (opAt fr.ops 0 i).word % n = 0
    (aligned → (xbits f.x 1 2 ≠ 1 ∨ ∀ p ∈ (s.tile fr.tile).slots, p.2.valid = true → p.2.ctx = fr.ctx → p.2.ch ≠ xbits f.x 10 2) →
        exec (.ld f) s = .next (took r .old (portOp fr f 0x90
          (loadPieces ((List.range fr.rl).map fun i => (i, BitVec.ofNat 64 (addr (opAt fr.ops 0 i).word), n))) [])))
    ∧ (∀ k sl l d, aligned → One s fr → xbits f.x 1 2 = 1 → (s.tile fr.tile).slots = [(k, sl)] → sl.valid = true → sl.ctx = fr.ctx →
        sl.ch = xbits f.x 10 2 → sl.lines = [l] → l.bad = false → l.bytes = some d →
        addr l.va = granule (addr (opAt fr.ops 0 0).word) → fr.handles = [] → (∀ o ∈ (s.tile fr.tile).mops, o.id ≠ s.opno) →
        let v := BitVec.ofNat 64 (ofBytes ((d.drop (addr (opAt fr.ops 0 0).word % 64)).take n))
        ∃ u : State, exec (.ld f) s = .next ((u.emit fr f.d0 fr.lb [some (.runv (ext f.ty (arg f.ty v)))]).emit fr f.d1 fr.lb [some .dn])
          ∧ u.net = s.net ∧ u.mem = s.mem ∧ (u.frameOf fr).map (·.st) = (s.frameOf fr).map (·.st)
          ∧ ((u.tile fr.tile).slot k).hits = (sl.hits + 1) % 2 ^ 32)
    ∧ (aligned → exec (.st f) s = .next (took r .ost (portOp fr f 0x91
        (storePieces ((List.range fr.rl).map fun i => (i, BitVec.ofNat 64 (addr (opAt fr.ops 0 i).word), toBytes n (w 1 i).toNat))) [])))
    ∧ (∀ x l, s.frameOf fr = some x → (s.sw.launch.find? fun l => l.queue == x.unit.queue && l.entry == x.unit.entry) = some l →
        let a (i : Nat) : Nat := (x.argp.toNat + (fr.lb + i) * field (l.word 2) 0 16 + 8 * xbits f.x 0 6) % 2 ^ 57
        (∀ i < fr.rl, a i % 8 = 0) →
        exec (.arg f) s = .next (took s.issued .old (portOp fr f 0x0D
          (loadPieces ((List.range fr.rl).map fun i => (i, BitVec.ofNat 64 (a i), 8))) [])))
    ∧ (∀ h load, One s fr → Uses s fr 0 h true load → 0 < rowBytes (desc s fr h).shape →
        let x := desc s fr h
        let node (op : Nat) (v : Nat → Nat) : MemOp :=
          { portOp fr f op ((List.range (tRows x.shape)).flatMap fun i => rowPieces load i (v i) (rowBytes x.shape)) [] with
            row0 := BitVec.ofNat 64 (v 0) }
        (addr (w 1 0) % 16 = 0 → (w 2 0).toNat % 16 = 0 → rowBytes x.shape ≤ (w 2 0).toNat → (w 2 0).toNat < 2 ^ 32 →
          let v (i : Nat) : Nat := (addr (w 1 0) + i * (w 2 0).toNat) % 2 ^ 57
          (load = true → exec (.ldt f) s = .next (took s.issued .old (node 0x92 v)))
          ∧ (load = false → exec (.stt f) s = .next (took s.issued .ost (node 0x93 v))))
        ∧ (∀ hx, Uses s fr 1 hx true false → (s.mtile (home fr hx)).ue = [] → (s.mtile (home fr hx)).poison? (hDesc hx) = none →
            let y := bufOf s (tileDie fr.tile) hx
            let v (i : Nat) : Int := elemI y.fmt (if y.cols = 1 then s.elemGet y.m y.x i 0 else s.elemGet y.m y.x 0 i)
            addr (w 2 0) % 16 = 0 → idxOk y (tRows x.shape) = true → (∀ i < tRows x.shape, v i % 16 = 0) →
            let at' (i : Nat) : Nat := ((addr (w 2 0) + v i) % 2 ^ 57).toNat
            (load = true → exec (.ldg f) s = .next (took s.issued .old (node 0x94 at')))
            ∧ (load = false → exec (.stg f) s = .next (took s.issued .ost (node 0x95 at')))))

/-- R322 to R324, R328, R336, R338, R366: an instruction of group 0xB, BINIT, ARRIVE or BWAIT whose lanes name aligned addresses that it
may access sends one request for each lane, with the frame's outstanding operations as release set where RS or SUB names one. -/
def Obligations.HomeRequests : Prop :=
  ∀ (s : State) (fr : Firing) (f : Fields), s.issuing = some fr → 0 < fr.rl → Clean fr →
    let w (p i : Nat) : Word := word s fr f p i
    let n := if f.ty = .bf16 then 4 else (f.ty.width + 7) / 8
    let rs : Bool := decide (f.sub.toNat % 4 ≠ 0)
    let var := f.sub.toNat / 4
    let atom (op : Nat) (k : AKind) : State := homeAsked s fr f op .ost rs fun i => .atom k f.ty (w 1 i) (w 2 i)
    let float : Bool := decide (f.ty = .f32 ∨ f.ty = .bf16)
    let next (i : Instr) (t : State) : Prop := exec i s = .next t
    (Aligned s fr f n false →
      next (.aadd f) (atom 0xB0 .add) ∧ next (.afadd f) (atom 0xB1 .fadd) ∧ next (.amin f) (atom 0xB2 .min)
      ∧ next (.amax f) (atom 0xB3 .max)
      ∧ (var = 0 → next (.alog f) (atom 0xB4 .and)) ∧ (var = 1 → next (.alog f) (atom 0xB4 .or)) ∧ (var = 2 → next (.alog f) (atom 0xB4 .xor))
      ∧ next (.axch f) (atom 0xB5 .xch) ∧ next (.acas f) (atom 0xB6 .cas)
      ∧ (var = 0 → next (.ainc f) (atom 0xB7 .incWrap)) ∧ (var = 1 → next (.ainc f) (atom 0xB7 .incSat))
      ∧ next (.itake f) (homeAsked s fr f 0xBA .old rs fun _ => .itake)
      ∧ next (.iput f) (homeAsked s fr f 0xBB .ost rs fun i => .iput (w 1 i))
      ∧ next (.iread f) (homeAsked s fr f 0xBC .old rs fun _ => .iread)
      ∧ next (.iclr f) (homeAsked s fr f 0xBD .ost rs fun _ => .iclr)
      ∧ ((∀ i < fr.rl, vaG (w 0 i) = true) →
        (var = 0 → next (.ared f) (homeAsked s fr f 0xBE .ost rs fun i => .ared (if float then .fadd else .add) f.ty [w 1 i]))
        ∧ (var = 1 → next (.ared f) (homeAsked s fr f 0xBE .ost rs fun i => .ared .min f.ty [w 1 i]))
        ∧ (var = 2 → next (.ared f) (homeAsked s fr f 0xBE .ost rs fun i => .ared .max f.ty [w 1 i]))))
    ∧ (Aligned s fr f n true →
      let t := s.constOf fr f.ck.toNat
      next (.acask f) (homeAsked s fr f 0xB8 .ost rs fun i => .cask f.ty (w 1 i) (w 2 i) t)
      ∧ next (.aaddk f) (homeAsked s fr f 0xB9 .ost rs fun i => .caddk f.ty (w 1 i) (w 2 i) t))
    ∧ (Aligned s fr f 16 false →
      next (.binit f) (homeAsked s fr f 0xC4 .ost false fun i => .binit (w 1 i))
      ∧ next (.arrive f) (homeAsked s fr f 0xC5 .ost (decide (f.sub ≠ 3)) fun _ => .arrive)
      ∧ next (.bwait f) (homeAsked s fr f 0xC6 .old false fun i => .bwait (w 1 i)))
    ∧ (fr.rl = 1 → s.detected = [] → (s.tile fr.tile).mops = [] → addr (w 0 0) % n = 0 → vaG (w 0 0) = false →
        ∃ u d, exec (.ared f) s = .next u ∧ u.detected = [d] ∧ d.cause = 0x03 ∧ d.va = BitVec.ofNat 64 (addr (w 0 0)))
    ∧ (fr.rl = 1 → s.detected = [] → (s.tile fr.tile).mops = [] → addr (w 0 0) % n ≠ 0 →
        ∀ i ∈ [Instr.aadd f, .afadd f, .amin f, .amax f, .alog f, .axch f, .acas f, .ainc f, .acask f, .aaddk f, .itake f, .iput f,
          .iread f, .iclr f, .ared f],
        ∃ u d, exec i s = .next u ∧ u.detected = [d] ∧ d.cause = 0x04 ∧ d.va = BitVec.ofNat 64 (addr (w 0 0)))

/-- R359, R384: an instruction that acts at the switch die or a memory die sends its operand words, counted in OST, or in OLD where
it only reads. That it is one request for each lane is the model's reading (log entry 35). -/
def Obligations.SystemRequests : Prop :=
  ∀ (s : State) (fr : Firing) (f : Fields), s.issuing = some fr → 0 < fr.rl → Clean fr →
    let next (op : Nat) (k : Cnt) (i : Instr) : Prop := exec i s = .next (asked s fr f op k)
    let r := (s.issued).releaseOps fr
    next 0xC0 .ost (.qpush f) ∧ next 0xC1 .ost (.qpop f) ∧ next 0xC2 .old (.qcnt f) ∧ next 0xC3 .ost (.launch f)
    ∧ next 0xC7 .old (.cntrd f) ∧ next 0xC8 .ost (.cancel f)
    ∧ next 0xCA .ost (.qctlFreeze f) ∧ next 0xCA .ost (.qctlThaw f) ∧ next 0xCA .ost (.qctlDrain f) ∧ next 0xCA .ost (.qctlClose f)
    ∧ next 0xE1 .old (.sysrd f) ∧ next 0xE2 .ost (.syswr f) ∧ next 0xE3 .ost (.freeze f) ∧ next 0xE4 .ost (.thaw f)
    ∧ next 0xE6 .old (.maprdWord f) ∧ next 0xE6 .old (.maprdWait f) ∧ next 0xE7 .ost (.mapack f)
    ∧ next 0xE8 .ost (.scango f) ∧ next 0xE9 .ost (.scanabt f) ∧ next 0xEA .ost (.leaseAcq f) ∧ next 0xEA .ost (.leaseRel f)
    ∧ next 0xEB .ost (.relocBind f) ∧ next 0xEB .ost (.relocUnbind f) ∧ next 0xEC .ost (.tlbinvRange f) ∧ next 0xEC .ost (.tlbinvJob f)
    ∧ exec (.biasreq f) s = .next (took r .ost (portOp fr f 0xD2 ((List.range fr.rl).map fun i =>
        { va := 0, lane := i, acc := .sys 0xD2 f.sub.toNat (word s fr f (if f.kc then 1 else 0) i) 0 0 }) []))
    ∧ exec (.perfrdPc f) s = .next (took r .old (portOp fr f 0xD3
        [{ va := 0, acc := .sys 0xD3 1 (word s fr f 0 0) (BitVec.ofNat 64 (xbits f.x 0 4)) 0 }] []))
    ∧ exec (.xredCfg f) s = .next (took r .ost (portOp fr f 0xD4 ((List.range fr.rl).map fun i =>
        { va := 0, lane := i, acc := .sys 0xD4 0 (word s fr f 0 i) (BitVec.ofNat 64 (xredGroup f)) 0 }) []))
    ∧ (∀ h, One s fr → Uses s fr 0 h true false → exec (.xredAdd f) s = .next (took s.issued .ost (portOp fr f 0xD4
        [{ va := 0, acc := .sys 0xD4 1 h (BitVec.ofNat 64 (xredGroup f)) 0 }] [])))

/-- R281, R282, R287, R291 to R298, R313 to R315, R383, R415: ORD advances its chain and reports; REGION opens and closes a stream
slot; FENCE and WAITC join the fence list, a FENCE with the operations that it waits for; a copy of each lane goes to its channel,
counted in OCP; CPYWP emits WP, CPYWAIT reports at once or waits, CPYCAN cancels; PERFRD.TILE emits its counter; TRAP makes the
fault record. That TRAP makes one record for its firing, with the operand of its lowest lane (log entry 54), and that PERFRD.TILE,
CPYWP and ORD act as they execute (log entry 84), are the model's readings. -/
def Obligations.OrderingAndCopies : Prop :=
  ∀ (s : State) (fr : Firing) (f : Fields), s.issuing = some fr → Clean fr →
    let r := (s.issued).releaseOps fr
    let c := s.tile fr.tile
    let m := memTileOf fr.tile (xbits f.x 2 1)
    let k := xbits f.x 0 2
    let ch := (s.mtile m).chan k
    let allotted : Prop := (s.mtile m).chanAllot fr.ctx k = true
    let bare : Firing := { fr with ops := fr.ops.map fun o => o.map fun _ => .dn }
    let put (e : Fence) : State := r.onTile fr.tile fun c => { c with fences := c.fences ++ [e] }
    let copied (op : Nat) : State := (List.range fr.rl).foldl (fun s _ => counted s fr .ocp) { (s.issued).onMtile m (fun c => { c with
        cin := c.cin ++ (List.range fr.rl).map fun i =>
          { id := s.opno + i, firing := fr, f := f, op := op, jid := (s.jobOf fr).getD 0, lane := i, handle := 0 } }) with
      opno := s.opno + fr.rl }
    exec (.ord f) s = .next ((r.chainAdvance fr 0x97 f).emit fr f.d0 fr.lb (List.replicate fr.rl (some .dn)))
    ∧ (∀ w, One s fr → fr.handles = [] → c.opens = [] → (s.operand fr f 1 0).word = w → field w 37 27 = 0 → field w 0 32 ≠ 0 →
        s.isLive fr = true → s.frozenAt fr.tile fr.ctx = false → (∃ j < 8, (c.slot j).valid = false) →
        ∃ u j, j < 8 ∧ exec (.regionOpen f) s = .next u ∧ (u.tile fr.tile).opens = [] ∧ (u.tile fr.tile).slot j =
          { valid := true, ctx := fr.ctx, ch := xbits f.x 10 2, win := field w 32 5 + 1, nextj := 0, count := field w 0 32,
            base := word s fr f 0 0, stride := word s fr f 2 0, hits := (c.slot j).hits, misses := (c.slot j).misses, epoch := s.opno })
    ∧ (One s fr → fr.handles = [] → c.opens = [] → exec (.regionClose f) s = .next (((s.issued).onTile fr.tile fun c => { c with
        slots := c.slots.map fun p => if p.2.valid = true ∧ p.2.ctx = fr.ctx ∧ p.2.ch = xbits f.x 10 2 then
          (p.1, { p.2 with valid := false, lines := [] }) else p }).emit1 fr f.d1 0 .dn))
    ∧ exec (.waitc f) s = .next (put { firing := bare, f := f, waitc := true })
    ∧ (∀ x, s.frameOf fr = some x → exec (.fence f) s = .next (put { firing := bare, f := f, waitc := false, mem := (x.outl.filter fun e => decide (f.sub ≠ 0) || e.2 == .ocp || e.2 == .oto).map (·.1) }))
    ∧ exec (.cpyIn f) s = .next (copied 0xA0) ∧ exec (.cpyOut f) s = .next (copied 0xA0) ∧ exec (.cpym f) s = .next (copied 0xA1)
    ∧ (One s fr → fr.handles = [] → allotted →
        exec (.cpywp f) s = .next ((s.issued).emit1 fr f.d0 0 (.scal (BitVec.ofNat 64 ch.wp)))
        ∧ (let t := (word s fr f 0 0).toNat % 2 ^ 32
           (reached ch.wp t = false → (∀ w ∈ ch.waits, reached ch.wp w.2.2.1 = false) → ch.waits.length < 16 → ch.wq = [] → exec (.cpywait f) s = .next
             ((counted s.issued fr .ocp).onMtile m fun x => x.setChan k { x.chan k with waits := ch.waits ++ [(fr, f, t, 0)] }))
           ∧ (reached ch.wp t = true → ch.waits = [] → ch.wq = [] → ∃ u, exec (.cpywait f) s = .next u ∧ ((u.mtile m).chan k).waits = []
               ∧ ((u.frameOf fr).map (·.ocp)) = ((s.frameOf fr).map (·.ocp))))
        ∧ (∃ u, exec (.cpycan f) s = .next u ∧ ∀ y ∈ ((u.mtile m).chan k).copies, y.firing.ctx = fr.ctx →
            s.jobAt y.firing.tile fr.ctx = s.jobOf fr → y.cancel = true))
    ∧ exec (.perfrdTile f) s = .next (r.emit fr f.d0 fr.lb (List.replicate fr.rl (some (.scal (perfTile s fr (xbits f.x 0 4))))))
    ∧ (let d : FaultInfo := {
         cause := 0x10, tile := fr.tile, fi := fr.fi, w1 := placeWord fr.tile fr.ctx fr.fi fr.blk fr.ix 3 fr.lb, va := 0
         extra := word s fr f 0 0, defer := false, tcode := xbits f.x 0 12, mapv := s.version, time := s.clk }
       exec (.trapEnd f) s = .next { r with detected := r.detected ++ [d] }
       ∧ exec (.trapLog f) s = .next { r with detected := r.detected ++ [{ d with log := true, after := some ({ fr with ops := [] }, f.d1) }] })

/-- R273, R277, R281, R283, R289, R313 to R315: the port sends the oldest operation's next request; the last reply of an LD of one lane ends
it, its counter falls and its value leaves; read-ahead fetches the next line of a slot and keeps the bytes that come; a FENCE leaves when
none of its members is outstanding, a WAITC when the counters are within its limits. That a flush and its return are two events of one
kind is the model's choice (log entry 99). -/
def Obligations.PortEvents : Prop :=
  ∀ (s : State) (t : Nat), s.arg.tile = t →
    let c := s.tile t
    let n := s.arg.n
    (∀ o p rest, s.outstanding t < 256 → c.mops = [o] → o.pieces = p :: rest → o.lent = false → (charged o.op = false ∨ c.hasCredit o.jid = true) →
        (∀ b, p.acc ≠ .writeRow b) → c.pissue.1 ≤ s.clk → s.maySend t p = true → ∃ u, exec .memoryPortIssue s = .next u
          ∧ u.net = s.net ++ [{ id := s.reqno, src := .port t, own := o.id, jid := o.jid, piece := p, place := o.firing.place 0 p.lane,
                                via := s.nSel (tileDie t) p.target }]
          ∧ (u.tile t).mops = [{ o with pieces := rest, out := o.out + 1 }] ∧ u.reqno = s.reqno + 1)
    ∧ (∀ r i o v, s.nthRep (Rep.forPort t) n = some (r, i) → c.mops = [o] → o.id = r.req.own → o.op = 0x90 → o.firing.rl = 1 → o.errs = [] →
        o.vals = [] → o.pieces = [] → o.out = 1 → o.lent = false → xbits o.f.x 1 2 ≠ 2 → o.cnt = some .old → r.cause = 0 →
        r.vals = [(0, .runv v, .dn)] → (∀ k, r.req.piece.acc ≠ .readRow k) → o.firing.tile = t → o.land = [] →
        let k := (({ s with reps := dropNth s.reps i }.onTile t fun c => { c with mops := [] }).uncount o.firing .old)
        exec .memoryReplyArrive s = .next ((k.emit o.firing o.f.d0 o.firing.lb [some (.runv (ext o.f.ty (arg o.f.ty v)))]).emit
          o.firing o.f.d1 o.firing.lb [some .dn]))
    ∧ (∀ o w rest, s.nthRep (Rep.forPort t) n = none → c.mops = [o] → o.land = w :: rest → rest ≠ [] →
        exec .memoryReplyArrive s = .next ((s.padWrite (o.buf s).m w.1 w.2).onTile t fun c => { c with mops := [{ o with land := rest }] }))
    ∧ (let sl := c.slot n
       let line := granule (((addr sl.base : Int) + sl.nextj * sl.stride.toInt) % 2 ^ 57).toNat
       sl.valid = true → sl.nextj < sl.count → (∀ l, sl.lines.getLast? = some l → addr l.va ≠ line) → sl.lines.length < sl.win →
       s.outstanding t < 256 → c.hasCredit ((s.jobAt t sl.ctx).getD 0) = true → s.spokeOpen (tileDie t) (BitVec.ofNat 64 line) s.reqno = true →
       ∃ u, exec .streamReadaheadFetch s = .next u
         ∧ (u.tile t).slot n = { sl with nextj := sl.nextj + 1, lines := sl.lines ++ [{ va := BitVec.ofNat 64 line }] }
         ∧ u.net = s.net ++ [{
             id := s.reqno, src := .slot t n, own := sl.epoch, jid := (s.jobAt t sl.ctx).getD 0, piece := ({ va := BitVec.ofNat 64 line, acc := .readRow 64 } : Piece),
             via := s.nSel (tileDie t) (BitVec.ofNat 64 line) }])
    ∧ (∀ r i k l, s.nthRep (Rep.forSlot t) n = some (r, i) → r.req.src = .slot t k → (c.slot k).valid = true → (c.slot k).epoch = r.req.own →
        (c.slot k).lines = [l] → l.va = r.req.piece.va → l.bytes = none → l.bad = false →
        ∃ u, exec .streamReadaheadReply s = .next u ∧ u.reps = dropNth s.reps i
          ∧ (u.tile t).slot k = { c.slot k with lines := [if r.cause = 0 then { l with bytes := some r.bytes } else { l with bad := true }] })
    ∧ (∀ e x, c.fences[n]? = some e → s.frameOf e.firing = some x → x.st = .live → Clean e.firing →
        let out := List.replicate e.firing.rl (some LVal.dn)
        let k := s.onTile t fun c => { c with fences := dropNth c.fences n }
        let left : State := (k.emit e.firing e.f.d0 e.firing.lb out).emit e.firing e.f.d1 e.firing.lb out
        (e.waitc = false → (∀ p ∈ x.outl, p.1 ∈ e.mem → e.f.sub = 0 ∧ p.2 ≠ .ocp ∧ p.2 ≠ .oto) →
          ((e.f.sub = 3 ∨ e.f.sub = 4 → e.flush = true) → (e.f.sub = 4 → ∀ r ∈ s.sw.areds, r.id ∉ e.ahead) → exec .fenceRelease s = .next left)
          ∧ (e.f.sub = 4 → e.flush = true → (∃ r ∈ s.sw.areds, r.id ∈ e.ahead) → exec .fenceRelease s = .next s)
          ∧ (e.f.sub = 3 → e.flush = false → exec .fenceRelease s = .next (s.onTile t fun c => { c with
              fences := setNth c.fences n { e with flush := true } }))
          ∧ (e.f.sub = 4 → e.flush = false → ∃ u, exec .fenceRelease s = .next u ∧ u.sw.aredGo = s.sw.areds.map (·.id)
              ∧ (u.tile t).fences = setNth c.fences n { e with flush := true, ahead := s.sw.areds.map (·.id) }))
        ∧ (e.waitc = false → (∃ p ∈ x.outl, p.1 ∈ e.mem ∧ e.f.sub ≠ 0) → exec .fenceRelease s = .next s)
        ∧ (e.waitc = true → x.old ≤ xbits e.f.x 9 3 → x.ost ≤ xbits e.f.x 6 3 → x.ocp ≤ xbits e.f.x 3 3 → x.oto ≤ xbits e.f.x 0 3 →
            exec .waitcRelease s = .next left)
        ∧ (e.waitc = true → xbits e.f.x 9 3 < x.old ∨ xbits e.f.x 6 3 < x.ost ∨ xbits e.f.x 3 3 < x.ocp ∨ xbits e.f.x 0 3 < x.oto →
            exec .waitcRelease s = .next s))

/-- R259, R289, R320: a load that performs answers with the bytes at its physical address and changes no byte; a store writes its bytes and no
other; a page without the permission, or with no lease, answers with the cause. That the lanes of one request perform together, and that a
flush and its return are two events of one kind, are the model's choices (log entries 117 and 99). -/
def Obligations.LoadsAndStores : Prop :=
  ∀ (s : State) (n : Nat) (r : Req) (d pa : Nat) (e : LEnt), s.arg.n = n → s.MemOk →
    let p := r.piece
    let r' := located r d pa
    (Performs s n r d pa e →
      (∀ l, p.acc = .loads l → ∃ u, exec .homeSlicePerform s = .next u ∧ u.net = dropNth s.net n ∧ u.mem = s.mem ∧ u.reps = s.reps ++ [{
          req := r', vals := l.map fun q => (q.1, .runv (BitVec.ofNat 64 (s.readN (hbmAt d (pa + (addr q.2.1 - addr p.va))) q.2.2)), .dn) }])
      ∧ (∀ k, p.acc = .readRow k → pa % 8 + k ≤ 8 → ∃ u, exec .homeSlicePerform s = .next u ∧ u.net = dropNth s.net n ∧ u.mem = s.mem
          ∧ u.reps = s.reps ++ [{ req := r', bytes := s.readBytes (hbmAt d pa) k }])
      ∧ (p.isRow = true → 1 < (p.split pa).length → exec .homeSlicePerform s = .next (splitReq s n r' d pa false))
      ∧ (∀ i va bs, p.acc = .stores [(i, va, bs)] → bs.length ≤ 8 → addr va % 64 + bs.length ≤ 64 → pa % 64 = addr p.va % 64 →
          ∃ u, exec .homeSlicePerform s = .next u
            ∧ u.net = dropNth s.net n ∧ u.reps = s.reps ++ [{ req := r', vals := [(i, .dn, .dn)] }]
            ∧ Wrote s u (hbmAt d (pa / 64 * 64 + addr va % 64)) bs.length (ofBytes bs))
      ∧ (∀ bs, p.acc = .writeRow bs → pa % 8 + bs.length ≤ 8 → ∃ u, exec .homeSlicePerform s = .next u ∧ u.net = dropNth s.net n
          ∧ u.reps = s.reps ++ [{ req := r' }] ∧ Wrote s u (hbmAt d pa) bs.length (ofBytes bs)))
    ∧ (p.acc = .readRow 64 → pa % 8 = 0 → p.split pa = (List.range 8).map fun i =>
        { p with va := BitVec.ofNat 64 (addr p.va + 8 * i), acc := .readRow 8, off := 8 * i })
    ∧ (∀ k id a, Arrives s n r → r.loc = some (d, pa, false) → Open s d pa → r.part = some id → AList.get? s.asm id = some a → a.cause = 0 →
        p.acc = .readRow k → pa % 8 + k ≤ 8 →
        let got := AList.set a.bytes p.off (s.readBytes (hbmAt d pa) k)
        (1 < a.left → ∃ u, exec .homeSlicePerform s = .next u ∧ u.net = dropNth s.net n ∧ u.mem = s.mem ∧ u.reps = s.reps
          ∧ AList.get? u.asm id = some { a with left := a.left - 1, bytes := got })
        ∧ (a.left = 1 → a.req.src ≠ .outside → a.req.piece.whole = false → ∃ u, exec .homeSlicePerform s = .next u ∧ u.net = dropNth s.net n
            ∧ u.mem = s.mem ∧ u.reps = s.reps ++ [{ req := a.req, vals := a.vals, bytes := got.flatMap (·.2) }]))
    ∧ (∀ t o, s.net[n]? = some r → r.held = false → earlierSame s n r = false → relWaits s r = false → r.src = .port t →
        (s.tile t).mop? r.own = some o → 0xB0 ≤ o.op → o.op < 0xBF → 2 ≤ o.f.sub.toNat % 4 → o.flush = false →
        exec .homeSlicePerform s = .next (s.onTile t fun c => c.onMop o.id fun o => { o with flush := true }))
    ∧ (Arrives s n r → r.loc = none → r.part = none → ownerOf s p.va = .ok (some d) → s.spokeOpen d p.va r.id = true →
        (∀ op sub a b c, p.acc ≠ .sys op sub a b c) →
        let out (cause : Nat) : State := ({ s with net := dropNth s.net n, reps := s.reps ++ [{ req := r, cause := cause }] } : State).onMdie d
          fun c => { c with ltflt := c.ltflt + 1 }
        ((s.mdie d).leaseOf r.jid (addr p.va) = none → exec .homeSlicePerform s = .next (out 0x01))
        ∧ (∀ k x, (s.mdie d).leaseOf r.jid (addr p.va) = some (k, x) → p.acc.need.ok x.perm = false →
            exec .homeSlicePerform s = .next (out 0x03)))

/-- R325, R326, R338, R339: an atomic answers with the word it read, at its type, and leaves the new word of the table in its place, the
halves of a bf16 pair each on its own; contributions of ARED leave the sum, least or greatest of the word and their values, a float sum
rounded once; nothing else in memory changes. -/
def Obligations.Atomics : Prop :=
  (∀ (s : State) (n : Nat) (r : Req) (d pa : Nat) (e : LEnt) (k : AKind) (ty : Ty) (b c : Word),
    s.arg.n = n → s.MemOk → Performs s n r d pa e → r.piece.acc = .atom k ty b c →
    (ty = .va →
      let m := s.readWord (hbmAt d pa)
      let leaves (y : Word) : Prop := ∃ u, exec .homeSlicePerform s = .next u
        ∧ Answered s u n (located r d pa) (.runv (BitVec.ofNat 64 (addr m))) .dn ∧ Wrote s u (hbmAt d pa) 8 y.toNat
      (k = .xch → leaves (BitVec.ofNat 64 (addr b))) ∧ (k = .cas → leaves (if addr m = addr b then BitVec.ofNat 64 (addr c) else m)))
    ∧ (ty = .bf16 → k = .fadd →
      let m := BitVec.ofNat 64 (s.readN (hbmAt d pa) 4)
      ∃ u, exec .homeSlicePerform s = .next u ∧ Answered s u n (located r d pa) (.runv m) .dn
        ∧ Wrote s u (hbmAt d pa) 4 (bfHalves (exSum .rn) [m, b]).toNat)
    ∧ (ty ≠ .bf16 → 8 ≤ ty.width → ty.width % 8 = 0 →
    let w := ty.width
    let m : BitVec w := BitVec.ofNat w (s.readN (hbmAt d pa) (w / 8))
    let v : BitVec w := arg ty b
    let x : BitVec w := arg ty c
    let less (a b : BitVec w) : Bool := if isSigned ty then a.slt b else a.ult b
    let leaves (y : BitVec w) : Prop := ∃ u, exec .homeSlicePerform s = .next u ∧ Answered s u n (located r d pa) (.runv (ext ty m)) .dn
      ∧ Wrote s u (hbmAt d pa) (w / 8) y.toNat
    (k = .add → leaves (m + v)) ∧ (k = .and → leaves (m &&& v)) ∧ (k = .or → leaves (m ||| v)) ∧ (k = .xor → leaves (m ^^^ v))
    ∧ (k = .xch → leaves v) ∧ (k = .cas → leaves (if m = v then x else m))
    ∧ (k = .incWrap → leaves (if v ≤ m then 0 else m + 1)) ∧ (k = .incSat → leaves (if v ≤ m then m else m + 1))
    ∧ (k = .min → ty ≠ .f32 → leaves (if less v m then v else m)) ∧ (k = .max → ty ≠ .f32 → leaves (if less m v then v else m))
    ∧ (k = .fadd → ty = .f32 → leaves (BitVec.ofNat w (Fmt.f32.encode .rn false
        (exSum .rn [Fmt.f32.decode m.toNat, Fmt.f32.decode v.toNat]))))))
  ∧ (∀ (s : State) (n : Nat) (r : Req) (d pa : Nat) (e : LEnt) (k : AKind) (ty : Ty) (vs : List Word),
    s.arg.n = n → s.MemOk → Comes s n r d pa e → r.piece.acc = .ared k ty vs →
    let w := if ty = .bf16 then 32 else ty.width
    let m := BitVec.ofNat 64 (s.readN (hbmAt d pa) (w / 8))
    let dec (v : Word) : Ex := Fmt.f32.decode (v.toNat % 2 ^ 32)
    let leaves (y : Word) : Prop := ∃ u, exec .homeSlicePerform s = .next u ∧ u.net = dropNth s.net n ∧ u.reps = s.reps
      ∧ u.sw.areds = s.sw.areds.filter (fun x => !(x.held && x.own == r.id)) ∧ Wrote s u (hbmAt d pa) (w / 8) y.toNat
    (ty = .n64 ∨ ty = .i64 ∨ ty = .n32 ∨ ty = .i32 →
      (k = .add → leaves (m + vs.sum))
      ∧ (k = .min → leaves (vs.foldl (fun a v => if int ty v < int ty a then v else a) m))
      ∧ (k = .max → leaves (vs.foldl (fun a v => if int ty a < int ty v then v else a) m)))
    ∧ (ty = .f32 →
      (k = .fadd → leaves (BitVec.ofNat 64 (f32 (exSum .rn ((m :: vs).map dec)))))
      ∧ (k = .min → leaves (vs.foldl (fun a v => BitVec.ofNat 64 (f32 ((dec a).min (dec v)))) m))
      ∧ (k = .max → leaves (vs.foldl (fun a v => BitVec.ofNat 64 (f32 ((dec a).max (dec v)))) m)))
    ∧ (ty = .bf16 →
      (k = .fadd → leaves (bfHalves (exSum .rn) (m :: vs)))
      ∧ (k = .min → leaves (vs.foldl (fun a v => bfHalves (folded .nan Ex.min) [a, v]) m))
      ∧ (k = .max → leaves (vs.foldl (fun a v => bfHalves (folded .nan Ex.max) [a, v]) m))))

/-- R328, R335, R336, R366: a continuation's condition decides whether it leaves a shuttle entry; an I-structure read waits for a full word
and a write for an empty one, a take empties it, a clear too; BINIT sets a barrier, ARRIVE counts and with the last arrival begins the
next round, BWAIT waits for a round that has not passed. -/
def Obligations.Synchronization : Prop :=
  ∀ (s : State) (n : Nat) (r : Req) (d pa : Nat) (e : LEnt), s.arg.n = n → s.MemOk → Performs s n r d pa e →
    let acc := r.piece.acc
    let q := waiting s d pa
    let zone : Prop := pa < (s.mdie d).npg * 2 ^ 18
    let full : Bool := (s.mdie d).tags.contains (pa / 8)
    let word : Word := s.readWord (hbmAt d pa)
    let round : Word := s.readWord (hbmAt d (pa + 8))
    let ran (v0 v1 : LVal) (g : State → Prop) : Prop :=
      ∃ u, exec .homeSlicePerform s = .next u ∧ Answered s u n (located r d pa) v0 v1 ∧ g u
    let waits : Prop := ∃ u, exec .homeSlicePerform s = .next u ∧ u.net = dropNth s.net n ∧ u.reps = s.reps ∧ u.mem = s.mem
      ∧ waiting u d pa = q ++ [(pa, located r d pa)]
    (∀ ty b c t, acc = .cask ty b c t ∨ acc = .caddk ty b c t → ty.width % 32 = 0 →
        let w := ty.width
        let m : BitVec w := BitVec.ofNat w (s.readN (hbmAt d pa) (w / 8))
        let entry (y : BitVec w) : ShEnt := { place := r.place, jid := r.jid, va := r.piece.va, old := ext ty m, new := ext ty y, tmpl := t }
        let sh (u : State) : List ShEnt := ((u.mdie d).slice (sliceOf pa)).sh
        let left (c : Bool) (y : BitVec w) : Prop := ran (.runv (ext ty m)) (.runv (truth c)) fun u =>
          Wrote s u (hbmAt d pa) (w / 8) y.toNat ∧ sh u = sh s ++ if c then [entry y] else []
        (acc = .cask ty b c t →
          (m ≠ arg ty b → left false m) ∧ (m = arg ty b → (sh s).length < 64 → left true (arg ty c)))
        ∧ (acc = .caddk ty b c t →
          (m + arg ty b ≠ arg ty c → left false (m + arg ty b)) ∧ (m + arg ty b = arg ty c → (sh s).length < 64 → left true (m + arg ty b))))
    ∧ (∀ b c t, acc = .cask .va b c t → ((s.mdie d).slice (sliceOf pa)).sh.length < 64 →
        ran (.runv (BitVec.ofNat 64 (addr word))) (.runv (truth (addr word = addr b))) fun u =>
          Wrote s u (hbmAt d pa) 8 (if addr word = addr b then addr c else word.toNat))
    ∧ (zone → q = [] →
        (acc = .itake → full = true → ran (.runv word) (.runv 1) fun u => u.mem = s.mem ∧ (u.mdie d).tags.contains (pa / 8) = false)
        ∧ (acc = .iread → full = true → ran (.runv word) (.runv 1) fun u => u.mem = s.mem ∧ (u.mdie d).tags = (s.mdie d).tags)
        ∧ (∀ v, acc = .iput v → full = false → ran .dn (.runv 1) fun u => Wrote s u (hbmAt d pa) 8 v.toNat ∧ (u.mdie d).tags.contains (pa / 8) = true)
        ∧ (acc = .iclr → ran .dn .dn fun u => u.mem = s.mem ∧ (u.mdie d).tags.contains (pa / 8) = false)
        ∧ ((acc = .itake ∨ acc = .iread) → full = false → waits)
        ∧ (∀ v, acc = .iput v → full = true → waits))
    ∧ (q = [] →
        (∀ b, acc = .binit b → b.toNat % 2 ^ 32 ≠ 0 → field b 32 32 = 0 →
            ran .dn .dn fun u => u.readWord (hbmAt d pa) = b ∧ u.readWord (hbmAt d (pa + 8)) = 0)
        ∧ (acc = .arrive → field word 32 32 + 1 < field word 0 32 →
            ran (.runv round) .dn fun u => u.readWord (hbmAt d (pa + 8)) = round
              ∧ u.readWord (hbmAt d pa) = BitVec.ofNat 64 (field word 0 32 + (field word 32 32 + 1) * 2 ^ 32))
        ∧ (acc = .arrive → field word 32 32 + 1 = field word 0 32 →
            ran (.runv round) .dn fun u => u.readWord (hbmAt d (pa + 8)) = round + 1 ∧ u.readWord (hbmAt d pa) = BitVec.ofNat 64 (field word 0 32))
        ∧ (∀ b, acc = .bwait b → (round - b - 1).toNat < 2 ^ 63 → ran (.runv round) (.runv 1) fun u => u.mem = s.mem)
        ∧ (∀ b, acc = .bwait b → 2 ^ 63 ≤ (round - b - 1).toNat → waits))

/-- R316, R327 to R331, R334, R337: a deferred continuation is evaluated again and leaves its shuttle entry; a request of a frame that has
ended leaves unperformed; a shuttle entry reads its template, advances RSEQ and writes its record, then pushes its card; a write to
ISCFG sets the zone or is rejected; the clearing ends; a flip of a page to host bias completes. -/
def Obligations.SliceEvents : Prop :=
  ∀ (s : State) (d : Nat), s.arg.die = d →
    let c := s.mdie d
    let sl (k : Nat) : Slice := c.slice k
    (∀ pa r b w t, s.MemOk → s.arg.n = sliceOf pa → (sl (sliceOf pa)).df = [(pa, r)] → r.piece.acc = .cask .b64 b w t → r.src ≠ .outside → r.part = none →
        (sl (sliceOf pa)).sh.length < 64 → s.abBad d pa = false → s.arg.flag = false → s.readWord (hbmAt d pa) = b →
        ∃ u, exec .deferredContinuationRetry s = .next u ∧ u.reps = s.reps ++ [{ req := r, vals := [(r.piece.lane, .runv b, .runv 1)] }]
          ∧ Wrote s u (hbmAt d pa) 8 w.toNat ∧ ((u.mdie d).slice (sliceOf pa)).df = []
          ∧ ((u.mdie d).slice (sliceOf pa)).sh = (sl (sliceOf pa)).sh ++
              [{ place := r.place, jid := r.jid, va := r.piece.va, old := b, new := w, tmpl := t }])
    ∧ (∀ e k r o, s.sw.mwaits = [] → s.sw.heldp = [] → findDeferred s s.arg.n = some (e, k, r) → s.opOf r = some o →
        s.isEnding o.firing = true → ((s.mdie e).slice k).df = [] → r.part = none →
        exec .requestWithdrawal s = .next { s.onSlice e k (fun x => { x with
          idq := x.idq.filter (fun g => g.2.id != r.id), wdrs := x.wdrs + 1 }) with reps := s.reps ++ [{ req := r }] })
    ∧ (∀ k e rest td tpa rd rpa, s.arg.k = k → s.arg.n = 0 → (sl k).sh = e :: rest → e.push = none → addr e.tmpl % 32 = 0 →
        contLocate s e.jid e.tmpl = some (td, tpa) → s.abBad td tpa = false →
        let w (i : Nat) : Word := s.readWord (hbmAt td (tpa + 8 * i))
        let seq := field (w 0) 32 32
        let ring : Word := BitVec.ofNat 64 (field (w 3) 5 52 * 32 + 32 * (seq % 2 ^ field (w 0) 28 4))
        let q := field (w 0) 0 15
        tmplGood ((List.range 4).map w) e.jid = true → contLocate s e.jid ring = some (rd, rpa) →
        (s.queue q).kind = 0 → (s.queue q).jid = e.jid → e.jid ≠ 0 → Ready s e.jid e.tmpl 32 .rw true → Ready s e.jid ring 32 .rw true →
        let s1 := (s.atomDone td tpa true).dramWord td tpa (BitVec.ofNat 64 (field (w 0) 0 32 + (seq + 1) % 2 ^ 32 * 2 ^ 32))
        let s2 := (s1.dramWrite rd rpa ([e.old, e.new, BitVec.ofNat 64 (addr e.va), w 2].flatMap fun x => toBytes 8 x.toNat)).demand rd rpa
        exec .shuttleDrain s = .next (s2.onSlice d k fun x => { x with sh := setNth x.sh 0 { e with push := some (q, ring, w 1) } }))
    ∧ (∀ k e rest q ring entry bs qd qpa, s.arg.k = k → s.arg.n = 0 → (sl k).sh = e :: rest → e.push = some (q, ring, entry) →
        (s.queue q).dv = true → jobRead s (s.queue q).jid (BitVec.ofNat 64 ((s.queue q).def6 * 64)) 64 = .ok bs →
        let card := contCard ((wordNats bs 8).map (BitVec.ofNat 64)) ring entry
        cardBad card = false → Pushable s q qd qpa → shuttleTurn s q = true → Ready s (s.queue q).jid (BitVec.ofNat 64 ((s.queue q).def6 * 64)) 64 .r true →
        exec .shuttlePush s = .next (((pushedTo s q qd qpa (card.flatMap fun w => toBytes 8 w.toNat)).onQueue q fun x =>
          { x with prank := 1 }).onSlice d k fun x => { x with sh := dropNth x.sh 0, conts := x.conts + 1 }))
    ∧ (memDies.contains d = true → 0 < c.pinned → exec .iscfgWrite s = .next (s.onMdie d fun c => { c with isrej := true }))
    ∧ (memDies.contains d = true → c.pinned = 0 →
        let npg := field s.arg.w 0 20
        exec .iscfgWrite s = .next (((((s.onMdie d fun c => { c with npg := npg, isbusy := true, isrej := false, tags := [] }).catchAll d).setCap d
          (s.capOf d + ceilDiv c.npg 64 - ceilDiv npg 64)).advanceMap 10 false (d * 2 ^ 10) 0)))
    ∧ (c.isbusy = true → (∀ k < 128, (sl k).idq = []) → ∃ u, exec .iscfgClearDone s = .next u ∧ (u.mdie d).isbusy = false
        ∧ (u.mdie d).tags = [] ∧ u.mem = s.mem ∧ ∀ k < 128,
          let l := (zoneGranules c.npg k).map fun g => (g, true)
          ((u.mdie d).slice k).ab = l.drop (l.length - 64))
    ∧ (∀ r op a b w k e, s.arg.n = 0 → c.flips = [r] → r.piece.acc = .sys op 0 a b w → r.src ≠ .outside → r.part = none →
        flipPage s d r = some (k, e) → pageBusy s d e = false → nbits e.perm 4 1 = 0 →
        let t := setBias (s.onMdie d fun c => { c with flips := [] }) d r.jid a e true
        ∃ u, exec .biasFlipComplete s = .next u ∧ u.md = (t.onMdie d fun c => { c with bfcnt := c.bfcnt + 1 }).md ∧ u.mem = t.mem
          ∧ u.reps = s.reps ++ [{ req := r, vals := [(r.piece.lane, .scal (BitVec.ofNat 64 (e.size * 2 ^ 8)), .dn)] }])

/-- R291 to R296: a channel accepts a copy that passes its checks, with its span of WP and its END on D1; the port sends the copy's next
request, which carries the bytes that an outgoing copy reads; with the last reply WP reaches END and the handle leaves on D0; the
multiplication that follows a CPYM enters the matrix queue. -/
def Obligations.CopyEvents : Prop :=
  ∀ (s : State) (m : Nat), s.arg.tile = m →
    let x := s.mtile m
    (∀ c b base pitch, s.arg.n = 0 → x.cin = [c] → c.op = 0xA0 → c.cancel = false → copyCheck s m c = .ok (b, base, pitch) →
        poisonPort c.firing 3 c.lane = none →
        let k := xbits c.f.x 0 2
        let ch := x.chan k
        let start := if ch.copies = [] then ch.wp else ch.stop
        let stop := (start + b.rows * rowBytes b.x.shape) % 2 ^ 32
        ch.copies.length < 8 →
        exec .copyAccept s = .next ((((s.onMtile m fun x => { x with cin := [] }).onChan m k fun ch => { ch with
          stop := stop, copies := ch.copies ++ [{ c with
            handle := (opAt c.firing.ops 0 c.lane).word, start := start, stop := stop, pieces := copyPieces c b base pitch }] }).onTile
              c.firing.tile fun t => t.markActive (some c.jid)).emit1 c.firing c.f.d1 c.lane (.scal (BitVec.ofNat 64 stop))))
    ∧ (∀ n c p q, chanReady s m n = some (c, p) → n = (x.crr + 1) % 4 →
        let b := bufOf s (tileDie m) c.handle
        (∃ j, p.acc = .readRow j ∧ q = p) ∨ (∃ bs, p.acc = .writeRow bs ∧ x.ue = [] ∧ b.m = m ∧ x.poison? b.d = none ∧ s.early = []
          ∧ q = { p with acc := .writeRow (s.readBytes (padAddr m (b.x.rowOff p.row + p.off)) bs.length) }) →
        ∃ u, exec .copyRequestIssue s = .next u ∧ u.reqno = s.reqno + 1 ∧ (u.mtile m).crr = n ∧ u.mem = s.mem
          ∧ u.net = s.net ++ [{
              id := s.reqno, src := .chan m n, own := c.id, jid := c.jid, piece := q, place := c.firing.place 0 c.lane,
              via := s.nSel (tileDie m) q.target }]
          ∧ ((u.mtile m).chan n).copies = (x.chan n).copies.map fun y => if y.id = c.id then { y with sent := y.sent + 1 } else y)
    ∧ (∀ k c, (x.chan k).copies = [c] → (x.chan k).waits = [] → (x.chan k).wq = [] → (x.chan k).cans = [] → c.cancel = false → c.op = 0xA0 →
        let ends (u : State) : Prop := ((u.mtile m).chan k).wp = c.stop ∧ ((u.mtile m).chan k).copies = []
          ∧ ∃ j : State, (u = ((j.emit1 c.firing c.f.d0 c.lane (.hand (rehandle s (tileDie m) c.handle))).uncount c.firing .ocp).onChan m k fun x =>
              { x with cans := [] })
            ∧ (j.frameOf c.firing).map (·.st) = (s.frameOf c.firing).map (·.st)
        let b := bufOf s (tileDie m) c.handle
        (∀ r i, s.nthRep (Rep.forChan m) s.arg.n = some (r, i) → r.req.src = .chan m k → r.cause = 0 → c.id = r.req.own →
          let p := r.req.piece
          (c.f.sub = 0 → exec .copyReplyLand s = .next ({ s with reps := dropNth s.reps i }.onChan m k fun x => { x with
            land := x.land ++ landWords c.id p.lane (b.x.rowOff p.row + p.off) (landPart s b p.row p.off r.bytes) }))
          ∧ (c.f.sub ≠ 0 → c.done.length + 1 = c.sent → c.sent = c.pieces.length → ∃ u, exec .copyReplyLand s = .next u ∧ ends u
              ∧ u.reps = dropNth s.reps i ∧ u.mem = s.mem ∧ ((u.mtile m).chan k).bytes = (x.chan k).bytes + BitVec.ofNat 64 p.bytes))
        ∧ (∀ off bs p, s.nthRep (Rep.forChan m) s.arg.n = none → k < 4 → (∀ j < k, (x.chan j).land = []) → (x.chan k).land = [(c.id, off, bs, some p)] →
            c.done.length + 1 = c.sent → c.sent = c.pieces.length → ∃ u, exec .copyReplyLand s = .next u ∧ ends u
              ∧ u.mem = (s.padWrite m off bs).mem ∧ ((u.mtile m).chan k).bytes = (x.chan k).bytes + BitVec.ofNat 64 bs.length))
    ∧ (∀ k c, ((List.range 4).flatMap fun k => (x.chan k).mma.map fun c => (k, c))[s.arg.n]? = some (k, c) →
        s.isEnding c.firing = false → (s.tile c.firing.tile).qmat.ents.length < 2 → s.frozenAt c.firing.tile c.firing.ctx = false →
        exec .cpymMmaDeliver s = .next ((s.onChan m k fun x => { x with mma := x.mma.filter fun y => y.id != c.id }).onTile c.firing.tile
          fun t => { t with qmat := { t.qmat with ents := t.qmat.ents ++ [(s.clk, followFiring s c)] } }))

/-- R262, R264, R265, R342 to R357, R364, R423: a push, of the host, of QPUSH or LAUNCH, puts one entry at TAIL, or counts in DROP, or is held
when the queue of a LAUNCH is full; a write of STATE; the command processor pops a card, which faults, or waits at the phase gate; a die
grants a lease request; a launch with every grant is admitted, is dealt frame by frame, and when it has ended is known by its status. That
a flush and its return are two events of one kind (log entry 99), and that word 1 of the completion record counts the records of units
that a fault or a CANCEL has ended (log entry 89), are the model's choices. -/
def Obligations.QueuesAndLaunches : Prop :=
  ∀ (s : State),
    let n := s.arg.n
    let bs := s.arg.data.getD []
    let q := n / 64
    let x := s.queue q
    ((n % 64 ≠ 0 ∨ bs.length ≠ 64 ∨ 2 ^ 21 ≤ n → exec .hostQueuePush s = .next (s.onSw fun w => { w with badw := min (w.badw + 1) 31 }))
      ∧ (n % 64 = 0 → bs.length = 64 → n < 2 ^ 21 → x.slot ≠ s.clk + 1 →
        exec .hostQueuePush s = .next (({ s with reqno := s.reqno + 1 } : State).onSw fun w => { w with pushes := w.pushes ++ [{
          queue := q, entry := bs, clk := s.clk, rank := 0
          req := { id := s.reqno, src := .outside, own := 0, jid := 0,
                   piece := { va := 0, acc := .sys 0xC0 0 (BitVec.ofNat 64 (addr s.arg.w)) 0 0 } } }] })))
    ∧ (∀ p, s.sw.pushes[n]? = some p → pushNext s n p = true → s.sw.snoops = [] → s.lineDone = s → (s.queue p.queue).ctl = none →
        let s1 := s.onSw fun w => { w with pushes := dropNth w.pushes n }
        let y := s.queue p.queue
        let told (k : State) (v : Word) : State :=
          let k := k.onQueue p.queue fun x => { x with prank := p.rank }
          if p.req.src = .outside then k else k.answerSys p.req v
        let met (x : Queue) : Queue := { x with slot := s.clk + 1 }
        let dropped (x : Queue) : Queue := { met x with drop := (x.drop + 1) % 2 ^ 32 }
        (∀ d pa, Pushable s p.queue d pa → exec .queuePushApply s =
          .next (told (nameCard (pushedTo s1 p.queue d pa p.entry) p.queue (.ok y.tail) p.va) (BitVec.ofNat 64 (y.tail * 2 ^ 32))))
        ∧ (p.isLaunch = true → y.state = 1 → y.full = true → exec .queuePushApply s = .next (s1.onSw fun w => { w with heldp := w.heldp ++ [p] }))
        ∧ (p.isLaunch = true → y.state ≠ 1 → exec .queuePushApply s = .next (told (s1.onQueue p.queue met) 2))
        ∧ (p.isLaunch = false → y.state = 1 → y.full = true →
            exec .queuePushApply s = .next (told (s1.onQueue p.queue fun x => { dropped x with refused := s.clk + 1 }) 1))
        ∧ (p.isLaunch = false → y.state ≠ 1 → exec .queuePushApply s = .next (told (s1.onQueue p.queue dropped) 2)))
    ∧ (∀ p, s.sw.heldp[n]? = some p → (∀ y ∈ s.sw.heldp.take n, y.queue ≠ p.queue) → s.sw.snoops = [] → (s.queue p.queue).ctl = none →
        s.lineDone = s → (s.queue p.queue).slot ≠ s.clk + 1 → p.req.src ≠ .outside → p.isLaunch = true →
        let s1 := s.onSw fun w => { w with heldp := dropNth w.heldp n }
        let y := s.queue p.queue
        let told (k : State) (v : Word) : State := (k.onQueue p.queue fun x => { x with prank := p.rank }).answerSys p.req v
        (∀ d pa, Pushable s p.queue d pa → exec .heldLaunchPush s =
          .next (told (nameCard (pushedTo s1 p.queue d pa p.entry) p.queue (.ok y.tail) p.va) (BitVec.ofNat 64 (y.tail * 2 ^ 32))))
        ∧ (y.state = 1 → y.full = true → exec .heldLaunchPush s = .next s)
        ∧ (y.state ≠ 1 → exec .heldLaunchPush s = .next (told (s1.onQueue p.queue fun x => { x with slot := s.clk + 1 }) 2)))
    ∧ (let y := s.queue n
       let v := s.arg.v
       (∀ c, y.ctl = some c → c.clk ≠ s.clk) →
       (y.state = 0 → v = 1 → 6 ≤ y.dlog → y.dlog ≤ 16 → (s.job y.jid).valid = true →
         exec .qcfgStateWrite s = .next (s.onQueue n fun x => { x with
           state := 1, head := 0, tail := 0, epoch := x.epoch + (if x.head = 0 then 0 else 1) }))
       ∧ (y.state = 0 → v = 1 → y.dlog < 6 ∨ 16 < y.dlog ∨ (s.job y.jid).valid = false → exec .qcfgStateWrite s = .next s)
       ∧ (y.state ≠ 0 ∨ v ≠ 1 → exec .qcfgStateWrite s = .next (s.onQueue n fun x =>
           { x with state := if v = 3 ∧ x.occ = 0 then 0 else v % 4 })))
    ∧ (∀ p g cs, (∀ k, s.sw.popclk = some k → k + 4 ≤ s.clk) → s.sw.launch.length < 16384 → choosePop s = some (p, g) →
        let y := s.queue p
        let s1 := s.onSw fun w => { w with popclk := some s.clk, popg := g, poplast := AList.set w.poplast y.pri p }
        jobRead s y.jid (y.slotVa y.head) 64 = .ok cs → y.state = 1 → y.popEmpty s.clk = false → y.ctl = none → s.sw.marks = [] →
        cardGate s p = (s, true) → s.sw.snoops = [] → s.lineDone = s → s.sw.cancd = [] →
        let l : Launch := { launchOf s1 p y.head cs with entry := y.head + 2 ^ 32 * y.epoch }
        let s2 := (s1.onQueue p fun x => { x with
            head := (x.head + 1) % 2 ^ 32, epoch := x.epoch + (x.head + 1) / 2 ^ 32, since := s.clk }).onSw fun w => { w with
          named := w.named.filter fun c => !(c.1 == p && c.2.1 == y.head) }
        (∀ k, checkCard s2 l = .ok k → exec .cardPop s = .next (openGate (s2.onSw fun w => { w with launch := w.launch ++ [k] }) l.jid))
        ∧ (∀ r, checkCard s2 l = .error r → ∃ t, exec .cardPop s = .next t ∧ (t.queue p).state = 2
            ∧ t.sw.launch = s.sw.launch ++ [{ l with stage := .ended, stop := true, st := 5 }]
            ∧ t.sw.recs = s.sw.recs ++ [{
                jid := y.jid, fq := l.fq s2, words := launchRecord s2 p l.entry ((s2.queue p).slotVa l.entry) r }]))
    ∧ (∀ d r p i e a b, s.arg.die = d → s.dieUp d = true → (s.mdie d).lreq = [r] → (s.mdie d).pgpend = [] → s.sw.binds = [] →
        r.who = .launch a b → r.pages = [p] → (s.mdie d).lt.find? (fun e => e.2.covers r.jid (addr (pageVa p))) = some (i, e) →
        e.drain = false → ltRoom (s.mdie d) [e.age] 0 = true →
        exec .leaseRequestServe s = .next ((s.onMdie d fun c => { c with
            lreq := [], lt := c.lt.map fun x => if x.2.age = e.age then (x.1, { x.2 with lcnt := x.2.lcnt + 1 }) else x }).onLaunch a b fun l =>
              { l with need := l.need.filter (· != d), ents := l.ents ++ [(d, e.age)] }))
    ∧ (∀ l, s.sw.launch[n]? = some l → l.stage = .leasing → l.need = [] → l.stop = false →
        exec .launchAdmit s = .next ((s.onLaunch l.queue l.entry fun l => { l with stage := .running, adm := s.sw.admno }).onSw fun w =>
          { w with admno := w.admno + 1 }))
    ∧ (∀ d c id is r, s.arg.die = d → n = 0 → s.md = [(d, c)] → c.inv = [(id, is)] → (∀ e ∈ c.lt, e.2.age ∈ is → e.2.lcnt + e.2.ecnt = 0) →
        s.sw.waits = [r] → r.id = id → r.part = none →
        ∃ u, exec .tlbinvDrainComplete s = .next u ∧ (u.mdie d).lt = c.lt.filter (fun e => !is.contains e.2.age) ∧ (u.mdie d).inv = []
          ∧ u.sw.waits = [] ∧ (r.src ≠ .outside → u.reps = s.reps ++ [{ req := r, vals := [(r.piece.lane, .dn, .dn)] }]))
    ∧ (∀ l g r v a b t e, s.sw.launch = [l] → n = 0 → s.arg.k = v → l.stage = .running → l.stop = false → l.serves v = true →
        s.graph? l.gnum = some g → s.region? l.gnum v = some r → r.done = false → regionOpen s g r l.cfg = true →
        let ts := dealTiles r l.blk
        l.sheaf = [(v, a, b)] → ts[r.rr % ts.length]? = some t →
        ((s.tile t).allocOf r.ctx).length < 16 → (s.tile t).entry r.ctx l.blk = some e → e.block.cells ≤ (s.tile t).quotaOf r.ctx →
        b - a ≤ e.block.lw → a < b →
        let slot := ((l.slots.find? fun p => p.1 == v).map (·.2)).getD 0
        exec .sheafDeal s = .next (((s.request t (dealRequest l r t slot a (b - a))).onRegion l.gnum v fun r =>
          { r with rr := (r.rr + 1) % ts.length }).onLaunch l.queue l.entry fun l =>
            freeSlots { l with units := l.units ++ [(l.unitNo, b - a, v)], unitNo := l.unitNo + 1, sheaf := [] }))
    ∧ (∀ l, s.sw.launch = [l] → n = 0 → l.isOver = true → l.flush = false → l.unk = false → l.ents = [] → addr (l.word 5) = 0 →
        s.sw.cancels = [] → s.sw.unbinds = [] →
        ∃ u, exec .launchComplete s = .next u ∧ u.sw.launch = [] ∧ u.mem = s.mem ∧ u.reps = s.reps
          ∧ u.sw.known = (l.queue, l.entry % 2 ^ 32, l.st, l.rcount - l.comp) ::
              s.sw.known.filter fun k => !(k.1 == l.queue && k.2.1 == l.entry % 2 ^ 32))
    ∧ (∀ l d pa e, s.sw.launch = [l] → n = 0 → s.MemOk → l.isOver = true → l.ents = [] → addr (l.word 5) ≠ 0 → addr (l.word 5) % 16 = 0 →
        let at' (k : Nat) : Word := BitVec.ofNat 64 (addr (l.word 5) + k)
        let found (k : Nat) : Prop := s.tlbGate l.jid (addr (l.word 5) + k) 8 .aw = (s, true) ∧ s.sw.snoops = []
          ∧ s.lineDone = s ∧ vaG (at' k) = false ∧ ownerOf s (at' k) = .ok (some d) ∧ tlbLook s d l.jid (at' k) = (.ok e, s) ∧ Need.aw.ok e.perm = true
          ∧ s.chanDead d pa = false ∧ s.abBad d pa = false ∧ xlate e.size e.w2 e.w3 (addr (at' k)) = pa
        (l.flush = false → found 8 → ∃ u, exec .launchComplete s = .next u
          ∧ u.sw.launch.map (·.flush) = [true]
          ∧ Wrote s u (hbmAt d pa) 8 (l.st + l.comp % 2 ^ 32 * 2 ^ 32))
        ∧ (l.flush = true → found 0 → ∃ u, exec .launchComplete s = .next u ∧ u.sw.launch = []
            ∧ Wrote s u (hbmAt d pa) 8 (s.readN (hbmAt d pa) 8 + 1)))

/-- R372, R374, R377, R383, R394 to R398, R402, R403: a fault ends its unit, freezes the supplying queue and stops the launch, and its record
waits; a record is pushed to its fault queue, or is lost and counted; a freeze wave that is complete freezes its frames; a deadline that
has passed suspends its job, and a write of 0 to SUSP resumes it; a scan test passes, fails, or is aborted. The patterns and signatures of
a scan test are open (log entry 9). That a flush and its return are two events of one kind (log entry 99), that a fault freezes the supplying
queue from any STATE (log entry 53), that a write of 0 to SUSP sets ACKV whether or not the job is suspended (log entry 65), that the record
of a resumed operation waits for the unit's accesses (log entry 119) and that a fault of no frame counts in FLTSUP (log entry 20) are the
model's choices. -/
def Obligations.FaultsAndTests : Prop :=
  ∀ (s : State),
    let n := s.arg.n
    let t := s.arg.tile
    (∀ e rest, s.detected = e :: rest →
      let s1 : State := { s with detected := rest }
      (s.frame? e.tile e.fi = none → exec .instructionFault s = .next (s1.onSw fun w => { w with fltsup := w.fltsup + 1 }))
      ∧ (∀ x l, s.frame? e.tile e.fi = some x → s1.launchOf x.unit = some l →
          let note : PendRec := { jid := (s.jobAt e.tile x.ctx).getD l.jid, fq := l.fq s, words := faultWords e x.unit l.cardVA }
          (e.rsm = true ∨ e.log = true → exec .instructionFault s = .next (s1.onSw fun w => { w with
              recs := w.recs ++ [{ note with after := e.after, mem := unitAccesses s1 x.unit e.rsm }] }))
          ∧ (e.rsm = false → e.log = false → unitEnding s1 x.unit = true → exec .instructionFault s = .next ((killUnit s1 x.unit).onSw fun w =>
              { w with fltsup := w.fltsup + 1 }))
          ∧ (e.rsm = false → e.log = false → unitEnding s1 x.unit = false → (∀ c, (s.queue x.unit.queue).ctl = some c → c.clk ≠ s.clk) →
            exec .instructionFault s = .next
              ((((killUnit s1 x.unit).onQueue x.unit.queue fun q => { q with state := 2 }).onLaunch x.unit.queue x.unit.entry fun l =>
                freeSlots { l with stop := true, st := 5, sheaf := [] }).onSw fun w => { w with recs := w.recs ++ [{ note with unit := some x.unit }] }))))
    ∧ (∀ r, s.sw.recs = [r] → n = 0 → (∀ u, r.unit = some u → s.unitFrames u = []) → (r.unit = none → ∀ e ∈ r.mem, s.stillOut e = false) →
      (r.flush = false → exec .faultRecordDelivery s = .next (s.onSw fun w => { w with recs := [{ r with flush := true }] })))
    ∧ (∀ r, s.sw.recs = [r] → n = 0 → (∀ u, r.unit = some u → s.unitFrames u = []) → (r.unit = none → ∀ e ∈ r.mem, s.stillOut e = false) →
      r.flush = true → r.after = none → (s.queue r.fq).slot ≠ s.clk + 1 →
      let s1 := s.onSw fun w => { w with recs := [] }
      let j := s.job r.jid
      let f := AList.getD s.sw.fltj r.jid (0, 0)
      (∀ d pa, (s.queue r.fq).kind = 1 → (s.queue r.fq).jid = r.jid → Pushable s1 r.fq d pa →
        let w0 : Word := BitVec.ofNat 64 ((r.words.headD 0).toNat + (if j.ovf then 2 ^ 15 else 0))
        exec .faultRecordDelivery s = .next (((pushedTo s1 r.fq d pa ((w0 :: r.words.drop 1).flatMap fun w => toBytes 8 w.toNat)).onJob r.jid
          fun j => { j with ovf := false }).onSw fun w => { w with
            fltj := AList.set w.fltj r.jid (((AList.getD w.fltj r.jid (0, 0)).1 + 1) % 2 ^ 32, (AList.getD w.fltj r.jid (0, 0)).2)
            msi1 := w.msi1 + 1 }))
      ∧ ((s.queue r.fq).kind ≠ 1 ∨ (s.queue r.fq).jid ≠ r.jid ∨ (s.queue r.fq).state ≠ 1 ∨ (s.queue r.fq).full = true →
        exec .faultRecordDelivery s = .next ((s1.onJob r.jid fun j => { j with ovf := true }).onSw fun w => { w with
          flost := min (w.flost + 1) 31, fltj := AList.set w.fltj r.jid (f.1, (f.2 + 1) % 2 ^ 32) })))
    ∧ (∀ g, s.graph? n = some g → g.st = .freezing → s.sw.freezes = [] → s.late = [] →
        (waveDone s g = false → exec .freezeWaveComplete s = .next s)
        ∧ (waveDone s g = true → ∃ u, exec .freezeWaveComplete s = .next u ∧ (u.graph? n).map (·.st) = some .frozen ∧ u.mem = s.mem
            ∧ ∀ p ∈ g.slots, ∀ f ∈ (u.tile p.1).frames, f.2.ctx = p.2 → f.2.st = .frozen))
    ∧ (∀ v k rest, (s.job n).dls = (v, k) :: rest → (s.job n).valid = true → (s.job n).susp = false →
        (s.clk ≤ k → exec .ackDeadlineExpiry s = .next s)
        ∧ (k < s.clk → (∀ q ∈ s.sw.queues, ∀ c, q.2.ctl = some c → c.clk ≠ s.clk) → ∃ u r, exec .ackDeadlineExpiry s = .next u ∧ (u.job n).susp = true ∧ (u.job n).cause = 1 ∧ (u.job n).dls = []
            ∧ u.sw.queues = (s.sw.queues.map fun q => if q.2.kind = 0 ∧ q.2.jid = n then (q.1, { q.2 with state := 2 }) else q)
            ∧ u.sw.recs = s.sw.recs ++ [r] ∧ r.jid = n ∧ r.fq = (s.job n).fq ∧ r.unit = none
            ∧ field (r.words.getD 0 0) 0 11 = 0x412 ∧ r.words[5]? = some (BitVec.ofNat 64 v)))
    ∧ exec .mapjSuspClear s = .next (s.onJob n fun j => { j with susp := false, ackv := s.version, dls := [] })
    ∧ (let c := (s.tile t).scan
       let sig := Config.scanSig t c.done
       let asks (r : Req) : Prop := r.src ≠ .outside ∧ r.part = none
       let told (code : Word) (a : Req) : Rep := { req := a, vals := [(a.piece.lane, .scal code, .dn)] }
       let ends (last code : Nat) (r : Req) (k : State) : Prop := k.reps = s.reps ++ [{
           req := r, vals := [(r.piece.lane, .scal (BitVec.ofNat 64 code), .scal sig)] }]
         ∧ (k.tile t).scan = { c with state := 0, last := last, sig := sig, done := c.done + 1, auto := false, go := none, ended := false }
       (c.state = 1 ∨ c.state = 2 ∧ c.abtAt = s.clk + 1 → c.ended = false → (∀ a ∈ c.abts, asks a) → ∃ u, exec .scanPatternEnd s = .next u
           ∧ (u.tile t).scan = { c with state := 1, ended := true, abts := [], abtAt := 0 } ∧ u.reps = s.reps ++ c.abts.map (told 2))
       ∧ (∀ r, c.ended = true → c.go = some r → asks r →
         (sig = scanExpOf s t → ∃ u, exec .scanPatternEnd s = .next u ∧ ends 1 0 r u)
         ∧ (sig ≠ scanExpOf s t → ∃ k, exec .scanPatternEnd s = .next (tileFailure k t) ∧ ends 2 1 r k))
       ∧ (c.state = 1 → c.ended = false → c.auto = true → wantOf s t ≠ none → exec .scanAutoAbort s =
           .next (s.onTile t fun x => { x with scan := { x.scan with state := 2 } }))
       ∧ (∀ r, c.state = 2 → c.go = some r → asks r → (∀ a ∈ c.abts, asks a) → ∃ u, exec .scanAbortRestore s = .next u
           ∧ (u.tile t).scan = { c with state := 0, last := 3, auto := false, go := none, abts := [], abtAt := 0 }
           ∧ u.reps = s.reps ++ { req := r, vals := [(r.piece.lane, .scal 2, .scal 0)] } :: c.abts.map (told 0)))

/-- R255, R381, R387 to R393, R402, R417: each event of the map publishes a version with its record, and leaves its entry as the table of
events says: a reset die is NOTREADY with its tiles at reset, a part is READY, a failed tile is not LIVE, a lost die is DEAD, as is a memory die
that was not READY in time, a link is restored, a channel is lost, a UCIe module is narrowed or lost. Which of the two becomes of a UCIe
module is the input's (log entry 66); that STATE READY or DEGRADED is computed anew (log entry 64), what a reset leaves of a tile (log
entry 62), and that the power-on test of a compute tile is read as its signature (log entry 129) are the model's choices. -/
def Obligations.MapEvents : Prop :=
  ∀ (s : State), Sorted s.sw.map → s.version + 1 < 2 ^ 64 →
    let d := s.arg.die
    let n := s.arg.n
    let k := s.arg.k
    (d < 8 → s.dieState d ≠ 3 → ∃ u, exec .computeDieReset s = .next u ∧ Published s u 11 false (d * 2 ^ 10) 0 ∧ u.dieState d = 0
        ∧ (∀ t, tileDie t = d → u.tile t = { scan := { done := (s.tile t).scan.done } } ∧ u.mtile t = {}))
    ∧ (∀ a g live, s.arg.part = .die a g live → a < 12 → s.dieState a = 0 → (s.fw a).state = 2 → (s.heat a).off = false → s.switchRuns = true →
        let some1 : Prop := if a < 8 then ∃ b, 0 < liveCount (liveWords s a live) b
          else ∃ i < 4, field (s.mapWord (296 + (4 * (a - 8) + i))) 0 2 ≠ 3
        ∃ u, exec .dieReady s = .next u ∧ Published s u 1 false (a * 2 ^ 10) 0 ∧ u.gradeOf a = g % 4
          ∧ (some1 → u.dieUp a = true) ∧ (¬some1 → u.dieState a = 3))
    ∧ (∀ l lanes rate, s.arg.part = .link l lanes rate → l ≤ 192 → field (s.mapWord (linkMix l)) 0 2 = 0 → s.switchRuns = true →
        ∃ u, exec .dieReady s = .next u ∧ Published s u 1 false l 1 ∧ u.mapWord (linkMix l) = linkWord 1 (min lanes (linkFull l).1) rate)
    ∧ (∀ a live, s.arg.part = .stack a live → a < 16 → field (s.mapWord (296 + a)) 0 2 = 0 → live < 2 ^ 32 → s.switchRuns = true →
        ∃ u, exec .dieReady s = .next u ∧ Published s u 1 false (a * 2 ^ 10) 2 ∧ field (u.mapWord (296 + a)) 2 32 = live)
    ∧ (let t := s.arg.tile
       isTile t = true → s.dieUp (tileDie t) = true → s.tileLive t = true →
        ∃ u, exec .tileFailure s = .next u ∧ Published s u 2 true t 0 ∧ u.tileLive t = false)
    ∧ (d < 12 → s.dieState d ≠ 3 → ∃ u, exec .dieLost s = .next u ∧ Published s u 3 true (d * 2 ^ 10) 0 ∧ u.dieState d = 3)
    ∧ (8 ≤ d → d < 12 → s.dieState d = 0 →
        (4800000000 ≤ s.clk → ∃ u, exec .memoryDieBootTimeout s = .next u ∧ Published s u 3 true (d * 2 ^ 10) 0 ∧ u.dieState d = 3)
        ∧ (s.clk < 4800000000 → exec .memoryDieBootTimeout s = .next s))
    ∧ (n ≤ 192 → field (s.mapWord (linkMix n)) 0 2 = 1 ∨ field (s.mapWord (linkMix n)) 0 2 = 2 →
        let lanes := min k (linkFull n).1
        ∃ u, exec .linkRestore s = .next u ∧ Published s u 8 false n 1
          ∧ u.mapWord (linkMix n) = linkWord (if (lanes, s.arg.v) = linkFull n then 1 else 2) lanes s.arg.v)
    ∧ (n < 16 → k < 32 → field (s.mapWord (296 + n)) 0 2 = 1 ∨ field (s.mapWord (296 + n)) 0 2 = 2 → field (s.mapWord (296 + n)) (2 + k) 1 = 1 →
        ∃ u, exec .channelLost s = .next u ∧ Published s u 9 true (n * 2 ^ 10 + k) 2 ∧ field (u.mapWord (296 + n)) (2 + k) 1 = 0)
    ∧ (n < 160 → field (s.mapWord (linkMix n)) 0 2 = 1 ∨ field (s.mapWord (linkMix n)) 0 2 = 2 →
        (s.arg.flag = true → ∃ u, exec .ucieLaneLost s = .next u ∧ Published s u 6 true n 1
          ∧ u.mapWord (linkMix n) = linkWord 2 32 (field (s.mapWord (linkMix n)) 10 8))
        ∧ (s.arg.flag = false → ∃ u, exec .ucieLaneLost s = .next u ∧ Published s u 7 true n 1 ∧ u.mapWord (linkMix n) = linkWord 3 0 0))

/-- R441, R442: a compute die at 100 °C falls one grade, and one more for each further 10 ms; above the power cap PWRNOW is set, and OVER
with every compute die at grade 3; 100 ms below 90 °C and under the cap raise a grade; a compute die at 110 °C is reset and held until it is
below 90 °C; a memory die or the switch die at 110 °C powers the module off. That device memory keeps its bytes through a power-off (log
entry 26), and that the time of a raise begins anew where a lowering falls in its clk (log entry 130), are the model's choices. -/
def Obligations.PowerEvents : Prop :=
  ∀ (s : State), Sorted s.sw.map → s.version + 1 < 2 ^ 64 →
    let d := s.arg.die
    let v := s.arg.v
    let h := s.heat d
    let lower (u : State) : Prop := Published s u 4 true (d * 2 ^ 10) 0 ∧ u.gradeOf d = s.gradeOf d + 1
    (d < 13 → v < 100 → ∃ u, exec .thermalThreshold s = .next u ∧ (u.heat d).temp = v ∧ (u.heat d).max = max h.max v ∧ u.sw.map = s.sw.map
        ∧ (u.heat d).hot = none)
    ∧ (d < 8 → 100 ≤ v → v < 110 → h.hot = none → s.dieUp d = true → s.gradeOf d < 3 → h.low ≠ some s.clk →
        ∃ u, exec .thermalThreshold s = .next u ∧ lower u)
    ∧ (∀ c, d < 8 → h.hot = some c →
        (c + 24000000 ≤ s.clk → s.dieUp d = true → s.gradeOf d < 3 → h.low ≠ some s.clk → ∃ u, exec .heatStepTimer s = .next u ∧ lower u)
        ∧ (s.clk < c + 24000000 → exec .heatStepTimer s = .next s))
    ∧ ((∀ c, s.sw.pwrhot = some c → c + 2400000 ≤ s.clk) → v < 2 ^ 16 →
        (v ≤ s.sw.pwrcap → ∃ u, exec .powerCapTimer s = .next u ∧ u.sw.pwrnow = v ∧ u.over = false ∧ u.sw.map = s.sw.map)
        ∧ (s.sw.pwrcap < v → (∀ d < 8, s.dieUp d = true → s.gradeOf d = 3) →
            ∃ u, exec .powerCapTimer s = .next u ∧ u.sw.pwrnow = v ∧ u.over = true ∧ u.sw.map = s.sw.map))
    ∧ (∀ c, d < 8 → h.cool = some c → c + 240000000 ≤ s.clk → (∀ x ∈ s.agenda.head?, x.dt ≠ 0) →
        ((∀ e < 8, (s.heat e).low ≠ some s.clk) → s.dieUp d = true → 0 < s.gradeOf d →
          ∃ u, exec .gradeRaiseTimer s = .next u ∧ Published s u 5 false (d * 2 ^ 10) 0 ∧ u.gradeOf d = s.gradeOf d - 1)
        ∧ (∀ e < 8, (s.heat e).low = some s.clk →
          ∃ u, exec .gradeRaiseTimer s = .next u ∧ u.sw.map = s.sw.map ∧ u.heat d = { h with cool := some s.clk }))
    ∧ (d < 13 → 110 ≤ v → h.off = false →
        exec .thermalThreshold s = if d < 8 then exec .overheatDieReset s else exec .overheatPowerOff s)
    ∧ (d < 8 → 110 ≤ v → h.off = false → s.dieState d ≠ 3 →
        ∃ u, exec .overheatDieReset s = .next u ∧ Published s u 11 false (d * 2 ^ 10) 0 ∧ u.dieState d = 0 ∧ (u.heat d).off = true)
    ∧ (h.off = true → (v < 90 → ∃ u, exec .computeDieCooled s = .next u ∧ (u.heat d).off = false ∧ (u.heat d).temp = v)
        ∧ (90 ≤ v → exec .computeDieCooled s = .next s))
    ∧ (8 ≤ d → d < 13 → 110 ≤ v → ∃ u, exec .overheatPowerOff s = .next u ∧ u.sw.powered = false ∧ u.ct = [] ∧ u.mt = [] ∧ u.md = [] ∧ u.net = []
        ∧ u.reps = [] ∧ u.mem = s.mem.filter (fun c => !(2 ^ 41 ≤ c.1 && c.1 < 2 ^ 41 + 2 ^ 35)) ∧ u.sw.queues = [] ∧ u.sw.jobs = [])

/-- R7, R310, R338, R339, R420 to R434: a switch forwards a contribution, and another module acknowledges it; a window's registration is
acknowledged; an audit finds the counts of a channel to agree unless an error has changed FSC, which starts a resync, as a stall does; a
third failed resync narrows the link or loses it; the host reads and writes registers and device memory; a load or store of host memory
performs there, lane by lane, a row of more than one word as one request for each word; an access of another module sets out; a round of the
edge adders ends. That an acknowledgement comes as a later event of the same kind (log entry 108), the numbers of an audit and how long a
channel stands still (log entry 75), what becomes of an access that is refused to another module (log entry 78), when a contribution is
acknowledged (log entry 76), what the elements of an aborted round's DEST hold (log entry 79), where the host window lies in the model's memory
(log entry 29) and that a host's answer to a snoop is one event (log entry 92) are the model's choices. -/
def Obligations.ModuleEvents : Prop :=
  ∀ (s : State),
    let n := s.arg.n
    let g := s.group n
    let x := s.rwin n
    let l := s.link n
    let resync (fails : List Nat) (u : State) : Prop := (u.link n).rsync = (l.rsync + 1) % 2 ^ 16 ∧ (u.link n).vcs = []
      ∧ (u.link n).sync = some s.clk ∧ (u.link n).fresh = true ∧ (u.link n).fails = fails
    (∀ r k ty vs, s.sw.areds = [r] → n = 0 → s.arg.words = [] → r.piece.acc = .ared k ty vs →
        (r.held = false → ∃ u, exec .aredMergeForward s = .next u ∧ u.sw.areds = [{ r with held := true, own := s.reqno }]
          ∧ (vaDev r.piece.va = s.sw.fabid →
              u.net = s.net ++ [{ id := s.reqno, src := .outside, own := 0, jid := r.jid, piece := r.piece, place := r.place }])
          ∧ (vaDev r.piece.va ≠ s.sw.fabid → u.net = s.net))
        ∧ (r.held = true → vaDev r.piece.va ≠ s.sw.fabid → ∃ u, exec .aredMergeForward s = .next u ∧ u.sw.areds = [] ∧ u.net = s.net))
    ∧ (x.pend = true → x.v = true → ∃ u, exec .reductionWindowAck s = .next u ∧ u.rwin n = { x with act := true, pend := false })
    ∧ (n < 64 →
        let w := s.arg.w
        ∃ u, exec .rwinWrite s = .next u ∧ u.rwin n = {
          v := field w 0 1 = 1, act := false, jid := field w 2 12, dev := field w 14 10, hold := field w 24 8, len := field w 32 32
          base := field s.arg.w2 0 40, pend := field w 0 1 = 1 })
    ∧ (∀ a b c d e, linkUp s n = true → s.arg.words = [a, b, c, d, e] → l.vcs = [] → l.last < s.clk / 4096 →
        (∀ t, l.sync = some t → s.clk < t + 65536) →
        let cap := if n ≤ 192 then 32 else 16
        let sent := min (field b 0 16) cap
        let got := min (field c 0 16) sent
        let freed := min (field d 0 16) got
        let v : LinkVc := { fsc := cap - sent, ss := sent, sr := got, cr := freed, fr := cap - got + freed, dry := if cap < field b 0 16 then some s.clk else none }
        (field e 0 16 = 0 → ∃ u, exec .linkAudit s = .next u ∧ u.link n = { l with
          audit := (l.audit + 1) % 2 ^ 40, sync := none, fresh := false, last := s.clk / 4096, vcs := [(0, v)] })
        ∧ (field e 0 16 ≠ 0 → l.fresh = false → ∃ u, exec .linkAudit s = .next u ∧ resync l.fails u ∧ (u.link n).audit = (l.audit + 1) % 2 ^ 40))
    ∧ (linkUp s n = true → l.sync = none →
        ((∃ v ∈ l.vcs, ∃ t, v.2.dry = some t ∧ t + 65536 ≤ s.clk) → ∃ u, exec .linkStallTimeout s = .next u ∧ resync l.fails u)
        ∧ ((∀ v ∈ l.vcs, ∀ t, v.2.dry = some t → s.clk < t + 65536) → exec .linkStallTimeout s = .next s))
    ∧ (∀ c, linkUp s n = true → l.sync = some c →
        (c + 65536 ≤ s.clk → l.fails = [] → l.since = [] → ∃ u, exec .resyncTimeout s = .next u ∧ resync [s.clk] u)
        ∧ (s.clk < c + 65536 → exec .resyncTimeout s = .next s)
        ∧ (∀ t1 t2, c + 65536 ≤ s.clk → l.since = [t1, t2] → s.clk < t1 + 2400000000 → s.clk < t2 + 2400000000 → n ≤ 192 →
            Sorted s.sw.map → s.version + 2 < 2 ^ 64 →
            let half := field (s.mapWord (linkMix n)) 2 8 / 2
            let rate := field (s.mapWord (linkMix n)) 10 8
            (s.arg.flag = true → ∃ u, exec .resyncTimeout s = .next u ∧ Published s u 6 true n 1 ∧ u.mapWord (linkMix n) = linkWord 2 half rate)
            ∧ (s.arg.flag = false → ∃ t u, exec .resyncTimeout s = .next u ∧ Published s t 6 true n 1
                ∧ t.mapWord (linkMix n) = linkWord 2 half rate ∧ Published t u 7 true n 1 ∧ u.mapWord (linkMix n) = linkWord 3 0 0)))
    ∧ (∀ w off, sraOf s.arg.w = some (w, off) → regDead s w off = false →
        (s.arg.words = [] → exec .hostBar0Access s = .next (s.onSw fun y => { y with toHost := y.toHost ++ [(toBytes 8 (regRead s w off).toNat, false)] }))
        ∧ (∀ v rest, s.arg.words = v :: rest → exec .hostBar0Access s = .next (regWrite s w off v)))
    ∧ (sraOf s.arg.w = none ∨ (∃ w off, sraOf s.arg.w = some (w, off) ∧ regDead s w off = true) →
        (s.arg.words = [] → exec .hostBar0Access s = .next (s.onSw fun y => { y with toHost := y.toHost ++ [(List.replicate 8 0xFF, false)] }))
        ∧ (s.arg.words ≠ [] → exec .hostBar0Access s = .next s))
    ∧ (∀ w off, sraOf s.arg.w = some (w, off) → regDead s w off = false →
        ((w, off) ≠ (.sw, 0x9900) → exec .registerWrite s = .next (plainWrite s w off s.arg.w2))
        ∧ ((w, off) = (.sw, 0x9900) → ∃ u, exec .registerWrite s = .next u
            ∧ u.sw.pwrcap = max 3000 (min 8000 (field s.arg.w2 0 16)) ∧ u.sw.map = s.sw.map))
    ∧ (∀ d pa t,
        let ap := AList.getD s.sw.adpap (nbits n 40 2) 0
        let va : Word := BitVec.ofNat 64 (field ap 40 17 * 2 ^ 40 + n % 2 ^ 40)
        let len (k : Nat) : Nat := min k (64 - n % 64)
        s.sw.hdm = [] → field ap 0 1 = 1 → ownerWaits s s.sw.adpjid va = false →
        (s.arg.data = none → tlbLocate s s.sw.adpjid va .r = (.ok (.dram d pa), t) → t.lineHeld d pa (len s.arg.k) = false →
          t.lineTake 2 d pa (len s.arg.k) = t → t.abBad d pa = false →
          exec .hostHdmAccess s = .next ((t.onSw fun y => { y with
            toHost := y.toHost ++ [(t.readBytes (hbmAt d pa) (len s.arg.k), false)] }).demand d pa))
        ∧ (∀ bs, s.arg.data = some bs → tlbLocate s s.sw.adpjid va .w = (.ok (.dram d pa), t) → t.lineHeld d pa (len bs.length) = false →
          t.lineTake 2 d pa (len bs.length) = t →
          exec .hostHdmAccess s = .next ((t.dramWrite d pa (bs.take (len bs.length))).demand d pa)))
    ∧ (∀ r, s.net[n]? = some r → vaG r.piece.va = false → vaHome r.piece.va = 0x20 → earlierSame s n r = false → relWaits s r = false →
        s.arg.data = none → r.src ≠ .outside → r.part = none →
        let off := addr r.piece.va % 2 ^ 50
        let at' (va : Word) : Nat := hostAddr s.sw.hwbase + addr va % 2 ^ 50
        let out : State := { s with net := dropNth s.net n }
        (∀ k (p : Nat → AccOp), r.piece.acc = .readRow k ∧ (p = fun j => .readRow (min 8 (k - 8 * j)))
            ∨ (∃ bs, r.piece.acc = .writeRow bs ∧ k = bs.length ∧ p = fun j => .writeRow ((bs.drop (8 * j)).take 8)) →
          off % 8 = 0 → 8 < k → ∃ u, exec .hostWindowAccess s = .next u ∧ u.mem = s.mem ∧ u.reps = s.reps ∧ u.net.length = s.net.length + (k - 1) / 8
            ∧ ∀ j, 8 * j < k → u.net[n + j]? = some { r with
                id := s.reqno + j, part := some r.id
                piece := { r.piece with va := BitVec.ofNat 64 (addr r.piece.va + 8 * j), acc := p j, off := 8 * j } })
        ∧ (jobBit s.sw.adphj r.jid = true →
          (∀ k, r.piece.acc = .readRow k → off % 8 = 0 → k ≤ 8 → off + k ≤ s.sw.hwsize →
            exec .hostWindowAccess s = .next { out with reps := s.reps ++ [{ req := r, bytes := s.readBytes (at' r.piece.va) k }] })
          ∧ (∀ bs, r.piece.acc = .writeRow bs → off % 8 = 0 → bs.length ≤ 8 → off + bs.length ≤ s.sw.hwsize →
            exec .hostWindowAccess s = .next { (out.writeBytes (at' r.piece.va) bs) with reps := s.reps ++ [{ req := r }] })
          ∧ (∀ i va k, r.piece.acc = .loads [(i, va, k)] → vaG va = false →
            (addr va % 2 ^ 50 < s.sw.hwsize → exec .hostWindowAccess s = .next { out with
              reps := s.reps ++ [{ req := r, vals := [(i, .runv (BitVec.ofNat 64 (s.readN (at' va) k)), .dn)] }] })
            ∧ (s.sw.hwsize ≤ addr va % 2 ^ 50 → exec .hostWindowAccess s = .next { out with reps := s.reps ++ [{ req := r, cause := 0x03 }] }))
          ∧ (∀ i va bs, r.piece.acc = .stores [(i, va, bs)] → vaG va = false → addr va % 2 ^ 50 < s.sw.hwsize →
            exec .hostWindowAccess s = .next { (out.writeBytes (at' va) bs) with reps := s.reps ++ [{ req := r, vals := [(i, .dn, .dn)] }] }))
        ∧ (jobBit s.sw.adphj r.jid = false → r.isSys = false →
            (r.piece.split (addr r.piece.va)).length ≤ 1 ∨ r.piece.isRow = false →
          exec .hostWindowAccess s = .next { out with reps := s.reps ++ [{ req := r, cause := 0x03 }] }))
    ∧ (let f := s.arg.fab
       vaG f.va = false → (s.job f.jid).valid = true → (∀ op sub a b c, f.acc ≠ .sys op sub a b c) → (∀ t b c d, f.acc ≠ .cask t b c d) →
       (∀ t b c d, f.acc ≠ .caddk t b c d) →
       (jobBit s.sw.faben f.jid = true → exec .fabricAccess s = .next { s with
          net := s.net ++ [{ id := s.reqno, src := .outside, own := 0, jid := f.jid, piece := { va := f.va, acc := f.acc } }]
          reqno := s.reqno + 1 })
       ∧ (jobBit s.sw.faben f.jid = false → exec .fabricAccess s = .next s))
    ∧ (∀ r d pa k, s.net[n]? = some r → r.held = true → r.loc = some (d, pa, k) →
        (s.arg.data = none → exec .hostSnoopResponse s = .next { s with net := setNth s.net n { r with held := false, snooped := true } })
        ∧ (∀ bs, s.arg.data = some bs → bs.length = 64 → exec .hostSnoopResponse s =
            .next { (s.dramWrite d (granule pa) bs) with net := setNth s.net n { r with held := false, snooped := true } }))
    ∧ (∀ d pa, s.net.length ≤ n → s.sw.snoops[n - s.net.length]? = some (d, pa, false) → s.arg.data = none →
        exec .hostSnoopResponse s = .next (s.onSw fun y => { y with snoops := setNth y.snoops (n - s.net.length) (d, pa, true) }))
    ∧ (∀ d es r t, g.chain = [d] → g.conts = [(d, es, r)] → g.later = [] → es ≠ [] → r.src ≠ .outside → r.part = none →
        destGate s g = (s, true) → s.sw.snoops = [] → s.lineDone = s →
        let after (u : State) : Prop := (u.group n).round = (g.round + 1) % 2 ^ 42 ∧ (u.group n).conts = []
        (g.armed = true → s.dieState d ≠ 3 → es.length ≤ 16 → jobWrite s g.jid (BitVec.ofNat 64 (addr g.dest)) (es.flatMap fun e => toBytes 4 e) = .ok t →
          ∃ u, exec .xredRoundComplete s = .next u ∧ u.mem = t.mem ∧ u.reps = s.reps ++ [roundReply r 0] ∧ after u)
        ∧ (s.dieState d = 3 → ∃ u, exec .xredRoundAbort s = .next u ∧ after u ∧ u.reps = s.reps ++ [roundReply r 1]))

/-- R21, R387, R407 to R411, R435 to R440: the Deuri link trains and the switch die verifies its image; a die is sent the image of its class and
verifies it, or is refused with the reason of the first check that fails; a report is refused for want of a certificate or a leaf; REFDEBT
rises every tREFI, and a channel without demand refreshes with each rise; a
controller's refresh, RFM, activation and column access; the gleaner's next read; the credit of a job's only account. What a signature or
a certificate verifies to is open (log entry 10). That refreshes and gleaner reads fall due from the die's coming into service (log entry
118), the order of ATTCTL's checks (log entry 80), that periods without an update are taken up by the next one (log entry 70) and what stays
through a retraining of the link (log entry 26) are the model's readings. -/
def Obligations.ChannelsAndFirmware : Prop :=
  ∀ (s : State),
    let d := s.arg.die
    let n := s.arg.n
    let image (k : Nat) : List Byte := s.arg.data.getD (s.flash (if k < 8 then 0 else if k < 12 then 1 else 2))
    let c := s.mdie d
    let p := s.pcNow d n
    let y := s.pcNow d (twin n)
    let up : Prop := 8 ≤ d ∧ d < 12 ∧ n < 256 ∧ s.dieUp d = true
    let boot (u : State) (k : Nat) (i : List Byte) : Prop :=
      firstFailed k i = 0 ∧ u.fw k = { state := 2, svn := bytesNat i 0x06 2, wdig := (i.drop 0x10).take 48 }
      ∨ firstFailed k i ≠ 0 ∧ u.fw k = { state := 3, reason := firstFailed k i }
    (s.sw.trained = false → ∃ u, exec .deuriLinkTrain s = .next u ∧ boot u 12 (image 12) ∧ u.clk = 0 ∧ u.ct = [] ∧ u.mt = [] ∧ u.md = []
        ∧ u.sw.trained = true ∧ u.sw.powered = true ∧ u.sw.resets = s.sw.resets + 1
        ∧ (firstFailed 12 (image 12) ≠ 0 → u.version = 0 ∧ u.dieState 12 = 0 ∧ u.sw.idleaf = s.sw.idleaf)
        ∧ (firstFailed 12 (image 12) = 0 → u.version = 1 ∧ u.sw.msi0 = 1
            ∧ (s.sw.idleaf < 2 ^ 15 → u.sw.idleaf = s.sw.idleaf + 1 ∧ u.sw.cert.length = 0xB80
                ∧ bytesNat u.sw.cert 0 4 = 0x4E414331 ∧ bytesNat u.sw.cert 4 4 = s.sw.idleaf)
            ∧ (2 ^ 15 ≤ s.sw.idleaf → u.sw.idleaf = s.sw.idleaf ∧ u.sw.cert = [])))
    ∧ exec .deuriLinkDown s = .next (s.onSw fun w => { w with trained := false })
    ∧ (d < 12 → s.dieState d = 0 → (s.heat d).off = false → s.switchRuns = true →
        ((s.fw d).state = 0 → ∃ u, exec .firmwareVerify s = .next u ∧ u.fw d = { state := 1, img := image d } ∧ u.sw.map = s.sw.map)
        ∧ ((s.fw d).state = 1 → ∃ u, exec .firmwareVerify s = .next u ∧ boot u d (s.fw d).img ∧ u.sw.map = s.sw.map))
    ∧ (let w := s.arg.w
       let j : State := s.onSw fun x => { x with attjid := field w 4 12 }
       (field w 0 1 = 0 ∨ s.sw.attrep ≠ none → exec .attctlGo s = .next j)
       ∧ (field w 0 1 = 1 → s.sw.attrep = none →
           (s.sw.cert = [] → exec .attctlGo s = .next (j.onSw fun x => { x with attcode := 3 }))
           ∧ (s.sw.cert ≠ [] → 32768 ≤ s.sw.attleaf → exec .attctlGo s = .next (j.onSw fun x => { x with attcode := 2 }))
           ∧ (s.sw.cert ≠ [] → s.sw.attleaf < 32768 → s.sw.attdst % 64 ≠ 0 →
               exec .attctlGo s = .next (j.onSw fun x => { x with attcode := 1, attleaf := x.attleaf + 1 }))
           ∧ (s.sw.cert ≠ [] → s.sw.attleaf < 32768 → ∃ u, exec .attctlGo s = .next u ∧ u.sw.attleaf = s.sw.attleaf + 1
               ∧ u.sw.attjid = field w 4 12 ∧ u.ct = s.ct ∧ u.mt = s.mt ∧ u.sw.cert = s.sw.cert)))
    ∧ (let q := c.pc n
       let z := c.pc (twin n)
       let start := max q.refdue c.rbase
       let k := (s.clk - start) / 9360
       up → c.glintv = 0 →
        (∀ e, q.dem = e :: q.dem.tail → ∃ u, exec .refreshTick s = .next u
            ∧ (u.mdie d).pc n = if k = 0 then q else { q with debt := min 8 (q.debt + k), refdue := start + k * 9360 })
        ∧ (q.dem = [] → q.owed = [] → q.debt = -8 → z.dem = [] → z.owed = [] → z.debt = -8 → max z.refdue c.rbase = start →
            q.next ≤ start + 9360 → z.next ≤ start + 9360 → q.busR ≤ start → q.busC ≤ start → z.busR ≤ start → z.busC ≤ start →
            start + 9361 < s.clk → s.clk < start + 2 * 9360 →
            ∃ u, exec .refreshTick s = .next u ∧ ((u.mdie d).pc n).ref = q.ref + 1 ∧ ((u.mdie d).pc n).debt = -8
              ∧ ((u.mdie d).pc n).refdue = start + 9360 ∧ ((u.mdie d).pc n).openr = []))
    ∧ (let did (x : PChan) : Prop := ∃ u, exec .controllerCommandSelect s = .next u ∧ (u.mdie d).pc n = x
       let row (x : PChan) (k : Nat) : PChan := { x with next := s.clk + k, denyR := 0, gotR := true, busR := s.clk + 1 }
       up → p.next ≤ s.clk → y.wants s.clk = none → p.busR ≠ s.clk + 1 → p.busC ≠ s.clk + 1 → y.busR ≠ s.clk + 1 → y.busC ≠ s.clk + 1 →
        (p.warm = false ∨ p.dem = [] →
          (p.debt = 8 → did (row { p with ref := p.ref + 1, debt := 7, openr := [] } 840))
          ∧ (∀ b r rest, p.debt ≠ 8 → p.owed = (b, r) :: rest → did (row { p with
              rfm := p.rfm + 1, boc := p.boc + 456, owed := rest, counts := AList.set p.counts (65536 * b + r) 0, openr := [] } 456)))
        ∧ (∀ b r rest, p.dem = (b, r) :: rest → p.warm = true ∨ p.debt ≠ 8 ∧ p.owed = [] ∧ AList.get? p.openr b = some r →
            let q := if p.warm then p else { p.learn b r with hit := p.hit + 1 }
            did { q with
              dem := rest, warm := false, openr := if 2 ≤ q.policyOf b r then q.openr else Machine.AList.erase q.openr b
              next := s.clk + 1, denyC := 0, gotC := true, busC := s.clk + 1 })
        ∧ (∀ b r rest, p.warm = false → p.debt ≠ 8 → p.owed = [] → p.dem = (b, r) :: rest → AList.get? p.openr b ≠ some r →
            let k := AList.getD p.counts (65536 * b + r) 0 + 1
            did (row { p.learn b r with
              act := p.act + 1, conf := if AList.get? p.openr b = none then p.conf else p.conf + 1, warm := true
              openr := AList.set p.openr b r, lastr := AList.set p.lastr b r, counts := AList.set p.counts (65536 * b + r) k
              alrt := if k = c.rhth then p.alrt + 1 else p.alrt, owed := if k = c.rhth then [(b, r)] else [] } 1)))
    ∧ (let cap := 16 * s.capOf d
       let at' := pcGranule n (p.glnext % cap)
       let due := max p.gldue c.rbase
       let rd : State := (s.catchPc d n).onMdie d fun c => { c with pcs := AList.set c.pcs n { p with
         glnext := (p.glnext % cap + 1) % cap, gldue := due + c.glintv, busR := s.clk + 1, busC := s.clk + 1 } }
       up → c.glintv ≠ 0 → cap ≠ 0 → due ≤ s.clk → gleanerTurn s d n = true →
        (at' ∈ c.ue → exec .gleanerRead s = .next (rd.onMdie d fun c => { c with glue := (c.glue + 1) % 2 ^ 32, gllog := at' }))
        ∧ (at' ∉ c.ue → at' ∈ c.ce → exec .gleanerRead s = .next (rd.onMdie d fun c => { c with
            glce := (c.glce + 1) % 2 ^ 32, ce := c.ce.filter (· != at') }))
        ∧ (at' ∉ c.ue → at' ∉ c.ce → exec .gleanerRead s = .next rd))
    ∧ (let t := s.arg.tile
       let now := s.clk / 1024 * 1024
       let gone := s.clk / 1024 - (s.tile t).bwlast / 1024
       (∀ k a, (s.tile t).accts = [(k, a)] → a.active = true → (s.tile t).bwlast < now →
          exec .bandwidthUpdate s = .next (s.onTile t fun c => { c with
            bwlast := now, accts := [(k, { a with
              active := jobQueued s t a.jid, credit := min 32768 (a.credit + 16384 * (if jobQueued s t a.jid then gone else 1)) })] }))
       ∧ (now ≤ (s.tile t).bwlast → exec .bandwidthUpdate s = .next s))

/-! ## The machine as a whole -/

/-- R107, R109, R177, R299, R342, R387, R389, R396, R413, R443: what registers read after reset, as the Reset columns say; memory is in its
canonical form, and nothing is in motion. -/
def Obligations.ResetState : Prop :=
  let s := State.reset
  s.MemOk ∧ s.issuing = none ∧ s.detected = [] ∧ s.net = [] ∧ s.reps = [] ∧ Sorted s.sw.map
  ∧ (∀ t, regRead s (.comp t) 0x0000 = 8192 ∧ regRead s (.comp t) 0x0090 = 16 ∧ regRead s (.comp t) 0x0158 = 0x00249F00
      ∧ regRead s (.comp t) 0x0280 = BitVec.ofNat 64 (8 * 2 ^ 23) ∧ (∀ n < 16, regRead s (.comp t) (0x0010 + 8 * n) = 8192)
      ∧ (∀ n < 4096, ∀ w < 8, regRead s (.comp t) (0x40000 + 64 * n + 8 * w) = 0))
  ∧ (∀ m, regRead s (.mtile m) 0x0000 = BitVec.ofNat 64 (512 + 512 * 2 ^ 20)
      ∧ ∀ n < 16, regRead s (.mtile m) (0x0008 + 8 * n) = 512 ∧ regRead s (.mtile m) (0x0090 + 8 * n) = 0xFFFF
        ∧ regRead s (.mtile m) (0x0110 + 8 * n) = 0xF)
  ∧ (∀ d, regRead s (.mdie d) 0x0000 = 0 ∧ regRead s (.mdie d) 0xC000 = 1024 ∧ regRead s (.mdie d) 0xC008 = 8192)
  ∧ regRead s .sw 0x8000 = 1 ∧ regRead s .sw 0x8008 = 0x00075300 ∧ regRead s .sw (0x8000 + 8 * 288) = 0x20041
  ∧ (∀ d < 13, regRead s .sw (0x8000 + 8 * (2 + d)) = if d = 12 then 1 else 0)
  ∧ regRead s .sw 0x9900 = 8000 ∧ regRead s .sw 0xA008 = 1
  ∧ (∀ q < 32768, regRead s .sw (0x100000 + 40 * q) = BitVec.ofNat 64 (6 * 2 ^ 6))

/-- R47 to R52: words laid out field by field decode to the instructions that they stand for. -/
def Obligations.WordsDecode : Prop :=
  let d (ix port : Nat) : Option Dest := some { ix := BitVec.ofNat 7 ix, port := BitVec.ofNat 2 port }
  let f (sub : Nat) (ty : Ty) (ar : Nat) (kc : Bool) (sl ck : Nat) (d0 d1 : Option Dest) (x : Nat) : Fields :=
    { sub := BitVec.ofNat 4 sub, ty := ty, ar := BitVec.ofNat 2 ar, kc := kc, sl := BitVec.ofNat 7 sl, ck := BitVec.ofNat 6 ck,
      d0 := d0, d1 := d1, x := BitVec.ofNat 12 x }
  decode (laid 0x10 0 3 2 0 0 0 0b1000000100 0 0) = .ok (.add (f 0 .i32 2 false 0 0 (d 1 0) none 0))
  ∧ decode (laid 0x33 1 11 2 1 2 1 0b1000010100 0 0) = .ok (.ffma (f 1 .f32 2 true 2 1 (d 5 0) none 0))
  ∧ decode (laid 0x07 0 0 1 0 0 1 0b1000010100 0 0) = .ok (.enter (f 0 .b64 1 false 0 1 (d 5 0) none 0))
  ∧ decode (laid 0x54 0 13 1 1 0 1 0b1000110001 0b1000000100 0) = .ok (.tview (f 0 .h 1 true 0 1 (d 12 1) (d 1 0) 0))
  ∧ decode (laid 0x70 4 13 2 0 0 0 0 0b1000100100 2) = .ok (.sopset (f 4 .h 2 false 0 0 none (d 9 0) 2))
  ∧ decode (laid 0x80 0 13 2 1 0 0 0b1000010100 0b1000011000 0) = .ok (.mma (f 0 .h 2 true 0 0 (d 5 0) (d 6 0) 0))
  ∧ decode (laid 0x90 0 11 1 0 0 0 0b1000011100 0 0x414) = .ok (.ld (f 0 .f32 1 false 0 0 (d 7 0) none 0x414))
  ∧ decode (laid 0xB9 1 8 3 0 0 2 0 0b1000100100 0x14) = .ok (.aaddk (f 1 .n64 3 false 0 2 none (d 9 0) 0x14))
  ∧ decode (laid 0xC3 0 15 2 0 0 0 0 0b1000010000 0) = .ok (.launch (f 0 .va 2 false 0 0 none (d 4 0) 0))
  ∧ decode (laid 0xD0 2 0 2 0 3 0 0b1000011000 0 0) = .ok (.fence (f 2 .b64 2 false 3 0 (d 6 0) none 0))
  ∧ decode (laid 0xE6 1 8 1 0 0 0 0b1000001000 0 0) = .ok (.maprdWait (f 1 .n64 1 false 0 0 (d 2 0) none 0))

/-- R27, R43, R108: a step runs the instruction that the word named by the issued firing decodes to. The order around it is the model's
(log entry 1): a detected fault is handled first, and with nothing issued the next happening of the input takes place; with the power off
none does but the training of the Deuri link (R435, R442). -/
def Obligations.StepRunsInstruction : Prop :=
  ∀ (s : State),
    (∀ fr b w i, s.detected = [] → s.issuing = some fr → s.blockOf fr = some b → b.words[fr.ix]? = some w → decode w = .ok i →
      step s = exec i s)
    ∧ (s.detected ≠ [] → step s = exec .instructionFault s)
    ∧ (∀ h rest, s.detected = [] → s.issuing = none → s.agenda = h :: rest →
        (s.sw.powered = true → step s = exec h.ev (s.happen h rest))
        ∧ (s.sw.powered = false → h.ev = .deuriLinkTrain → step s = exec h.ev { s with agenda := rest, arg := h.arg })
        ∧ (s.sw.powered = false → h.ev ≠ .deuriLinkTrain → step s = .next { s with agenda := rest }))
    ∧ (∀ n w i, decode (BitVec.ofNat 64 w) = .ok i → step (s.withFetchWord n w) = exec i (s.withFetchWord n w))

/-- R47 to R53: every well-formed instruction, with every operand at every value that its encoding admits, is what its word decodes to. -/
def Obligations.DecodeEncode : Prop := ∀ (i : Instr) (w : Word), i.wf = true → encode i = some w → decode w = .ok i

/-- R47 to R53: a word that decodes is the word of what it decodes to, and that is well formed; a word with an opcode that R52 does not
assign is rejected by its opcode. -/
def Obligations.EncodeDecode : Prop :=
  ∀ (w : Word), (∀ i, decode w = .ok i → i.wf = true ∧ encode i = some w)
    ∧ (assigned (opOf w) = false → decode w = .error .op)

/-- Every step keeps memory in its canonical form (the model's form, log entry 3): addresses strictly rising, and no byte listed that equals what an unlisted address
reads as. -/
def Obligations.MemoryStep : Prop := ∀ (s t : State), s.MemOk → step s = .next t → t.MemOk

/-- R42: bytes read as they were last written, the lowest address least significant; a write changes nothing else. A row of a buffer, and an
element of it, read as they were written (R83, R176). -/
def Obligations.MemoryReadsBack : Prop :=
  ∀ (s : State), s.MemOk →
    (∀ a n x, Wrote s (s.writeN a n x) a n x ∧ (s.writeN a n x).MemOk)
    ∧ (∀ a (bs : List Byte), (s.writeBytes a bs).readBytes a bs.length = bs)
    ∧ (∀ m (x : Desc) r c v, r < tRows x.shape → c < tCols x.shape →
        (∀ i < tRows x.shape, ∀ j < tRows x.shape, i < j → x.rowOff i + rowBytes x.shape ≤ x.rowOff j) →
        (s.elemSet m x r c v).elemGet m x r c = v % 2 ^ tBits x.shape
        ∧ ∀ i < tRows x.shape, ∀ j < tCols x.shape, (i, j) ≠ (r, c) → (s.elemSet m x r c v).elemGet m x i j = s.elemGet m x i j)

/-- R118, R139, R142: an instruction of the lane unit touches no memory, no other tile, and nothing of its own tile but the results that wait
to leave; the references of the handles that it takes are released; at most it detects a fault. -/
def Obligations.LaneFrame : Prop :=
  ∀ (s t : State) (fr : Firing) (f : Fields) (i : Instr), s.issuing = some fr → i ∈ laneInstrs f → exec i s = .next t →
    t.mem = s.mem ∧ t.mt = (s.releaseOps fr).mt ∧ t.md = s.md ∧ t.sw = s.sw ∧ t.net = s.net ∧ t.reps = s.reps ∧ t.clk = s.clk
    ∧ t.opno = s.opno ∧ t.free = s.free ∧ t.issuing = none ∧ (∀ u, u ≠ fr.tile → t.tile u = s.tile u)
    ∧ (∃ ks, (t.tile fr.tile) = { s.tile fr.tile with laneOut := (s.tile fr.tile).laneOut ++ ks }
        ∧ ((ks ≠ [] ∧ t.detected = s.detected) ∨ (ks = [] ∧ ∃ d, t.detected = s.detected ++ [d] ∧ d.cause = 0x08)))
end

