-- ==== Sys2Proof/Laws/State.lean ====
section
/-! SUPPORT. What one update of State leaves in each field: one lemma per field and update, so that no proof unfolds a
record update. -/

namespace Sys2Proof.Machine

/-! ## Updates of one field -/

@[simp] theorem State.setByte_clk (s : State) (a : Nat) (b : Byte) : (s.setByte a b).clk = s.clk := rfl
@[simp] theorem State.setByte_agenda (s : State) (a : Nat) (b : Byte) : (s.setByte a b).agenda = s.agenda := rfl
@[simp] theorem State.setByte_arg (s : State) (a : Nat) (b : Byte) : (s.setByte a b).arg = s.arg := rfl
@[simp] theorem State.setByte_issuing (s : State) (a : Nat) (b : Byte) : (s.setByte a b).issuing = s.issuing := rfl
@[simp] theorem State.setByte_detected (s : State) (a : Nat) (b : Byte) : (s.setByte a b).detected = s.detected := rfl
@[simp] theorem State.setByte_mem (s : State) (a : Nat) (b : Byte) : (s.setByte a b).mem = cellSet s.mem a b := rfl
@[simp] theorem State.setByte_ct (s : State) (a : Nat) (b : Byte) : (s.setByte a b).ct = s.ct := rfl
@[simp] theorem State.setByte_mt (s : State) (a : Nat) (b : Byte) : (s.setByte a b).mt = s.mt := rfl
@[simp] theorem State.setByte_md (s : State) (a : Nat) (b : Byte) : (s.setByte a b).md = s.md := rfl
@[simp] theorem State.setByte_sw (s : State) (a : Nat) (b : Byte) : (s.setByte a b).sw = s.sw := rfl
@[simp] theorem State.setByte_net (s : State) (a : Nat) (b : Byte) : (s.setByte a b).net = s.net := rfl
@[simp] theorem State.setByte_asm (s : State) (a : Nat) (b : Byte) : (s.setByte a b).asm = s.asm := rfl
@[simp] theorem State.setByte_reps (s : State) (a : Nat) (b : Byte) : (s.setByte a b).reps = s.reps := rfl
@[simp] theorem State.setByte_early (s : State) (a : Nat) (b : Byte) : (s.setByte a b).early = s.early := rfl
@[simp] theorem State.setByte_late (s : State) (a : Nat) (b : Byte) : (s.setByte a b).late = s.late := rfl
@[simp] theorem State.setByte_reqno (s : State) (a : Nat) (b : Byte) : (s.setByte a b).reqno = s.reqno := rfl
@[simp] theorem State.setByte_opno (s : State) (a : Nat) (b : Byte) : (s.setByte a b).opno = s.opno := rfl
@[simp] theorem State.setByte_free (s : State) (a : Nat) (b : Byte) : (s.setByte a b).free = s.free := rfl

@[simp] theorem State.useFree_clk (s : State) (n : Nat) : (s.useFree n).clk = s.clk := rfl
@[simp] theorem State.useFree_agenda (s : State) (n : Nat) : (s.useFree n).agenda = s.agenda := rfl
@[simp] theorem State.useFree_arg (s : State) (n : Nat) : (s.useFree n).arg = s.arg := rfl
@[simp] theorem State.useFree_issuing (s : State) (n : Nat) : (s.useFree n).issuing = s.issuing := rfl
@[simp] theorem State.useFree_detected (s : State) (n : Nat) : (s.useFree n).detected = s.detected := rfl
@[simp] theorem State.useFree_mem (s : State) (n : Nat) : (s.useFree n).mem = s.mem := rfl
@[simp] theorem State.useFree_ct (s : State) (n : Nat) : (s.useFree n).ct = s.ct := rfl
@[simp] theorem State.useFree_mt (s : State) (n : Nat) : (s.useFree n).mt = s.mt := rfl
@[simp] theorem State.useFree_md (s : State) (n : Nat) : (s.useFree n).md = s.md := rfl
@[simp] theorem State.useFree_sw (s : State) (n : Nat) : (s.useFree n).sw = s.sw := rfl
@[simp] theorem State.useFree_net (s : State) (n : Nat) : (s.useFree n).net = s.net := rfl
@[simp] theorem State.useFree_asm (s : State) (n : Nat) : (s.useFree n).asm = s.asm := rfl
@[simp] theorem State.useFree_reps (s : State) (n : Nat) : (s.useFree n).reps = s.reps := rfl
@[simp] theorem State.useFree_early (s : State) (n : Nat) : (s.useFree n).early = s.early := rfl
@[simp] theorem State.useFree_late (s : State) (n : Nat) : (s.useFree n).late = s.late := rfl
@[simp] theorem State.useFree_reqno (s : State) (n : Nat) : (s.useFree n).reqno = s.reqno := rfl
@[simp] theorem State.useFree_opno (s : State) (n : Nat) : (s.useFree n).opno = s.opno := rfl
@[simp] theorem State.useFree_free (s : State) (n : Nat) : (s.useFree n).free = s.free + n := rfl

@[simp] theorem State.setTile_clk (s : State) (t : Nat) (c : CTile) : (s.setTile t c).clk = s.clk := rfl
@[simp] theorem State.setTile_agenda (s : State) (t : Nat) (c : CTile) : (s.setTile t c).agenda = s.agenda := rfl
@[simp] theorem State.setTile_arg (s : State) (t : Nat) (c : CTile) : (s.setTile t c).arg = s.arg := rfl
@[simp] theorem State.setTile_issuing (s : State) (t : Nat) (c : CTile) : (s.setTile t c).issuing = s.issuing := rfl
@[simp] theorem State.setTile_detected (s : State) (t : Nat) (c : CTile) : (s.setTile t c).detected = s.detected := rfl
@[simp] theorem State.setTile_mem (s : State) (t : Nat) (c : CTile) : (s.setTile t c).mem = s.mem := rfl
@[simp] theorem State.setTile_ct (s : State) (t : Nat) (c : CTile) : (s.setTile t c).ct = AList.set s.ct t c := rfl
@[simp] theorem State.setTile_mt (s : State) (t : Nat) (c : CTile) : (s.setTile t c).mt = s.mt := rfl
@[simp] theorem State.setTile_md (s : State) (t : Nat) (c : CTile) : (s.setTile t c).md = s.md := rfl
@[simp] theorem State.setTile_sw (s : State) (t : Nat) (c : CTile) : (s.setTile t c).sw = s.sw := rfl
@[simp] theorem State.setTile_net (s : State) (t : Nat) (c : CTile) : (s.setTile t c).net = s.net := rfl
@[simp] theorem State.setTile_asm (s : State) (t : Nat) (c : CTile) : (s.setTile t c).asm = s.asm := rfl
@[simp] theorem State.setTile_reps (s : State) (t : Nat) (c : CTile) : (s.setTile t c).reps = s.reps := rfl
@[simp] theorem State.setTile_early (s : State) (t : Nat) (c : CTile) : (s.setTile t c).early = s.early := rfl
@[simp] theorem State.setTile_late (s : State) (t : Nat) (c : CTile) : (s.setTile t c).late = s.late := rfl
@[simp] theorem State.setTile_reqno (s : State) (t : Nat) (c : CTile) : (s.setTile t c).reqno = s.reqno := rfl
@[simp] theorem State.setTile_opno (s : State) (t : Nat) (c : CTile) : (s.setTile t c).opno = s.opno := rfl
@[simp] theorem State.setTile_free (s : State) (t : Nat) (c : CTile) : (s.setTile t c).free = s.free := rfl

@[simp] theorem State.onTile_clk (s : State) (t : Nat) (g : CTile → CTile) : (s.onTile t g).clk = s.clk := rfl
@[simp] theorem State.onTile_agenda (s : State) (t : Nat) (g : CTile → CTile) : (s.onTile t g).agenda = s.agenda := rfl
@[simp] theorem State.onTile_arg (s : State) (t : Nat) (g : CTile → CTile) : (s.onTile t g).arg = s.arg := rfl
@[simp] theorem State.onTile_issuing (s : State) (t : Nat) (g : CTile → CTile) : (s.onTile t g).issuing = s.issuing := rfl
@[simp] theorem State.onTile_detected (s : State) (t : Nat) (g : CTile → CTile) : (s.onTile t g).detected = s.detected := rfl
@[simp] theorem State.onTile_mem (s : State) (t : Nat) (g : CTile → CTile) : (s.onTile t g).mem = s.mem := rfl
@[simp] theorem State.onTile_ct (s : State) (t : Nat) (g : CTile → CTile) : (s.onTile t g).ct = AList.set s.ct t (g (s.tile t)) := rfl
@[simp] theorem State.onTile_mt (s : State) (t : Nat) (g : CTile → CTile) : (s.onTile t g).mt = s.mt := rfl
@[simp] theorem State.onTile_md (s : State) (t : Nat) (g : CTile → CTile) : (s.onTile t g).md = s.md := rfl
@[simp] theorem State.onTile_sw (s : State) (t : Nat) (g : CTile → CTile) : (s.onTile t g).sw = s.sw := rfl
@[simp] theorem State.onTile_net (s : State) (t : Nat) (g : CTile → CTile) : (s.onTile t g).net = s.net := rfl
@[simp] theorem State.onTile_asm (s : State) (t : Nat) (g : CTile → CTile) : (s.onTile t g).asm = s.asm := rfl
@[simp] theorem State.onTile_reps (s : State) (t : Nat) (g : CTile → CTile) : (s.onTile t g).reps = s.reps := rfl
@[simp] theorem State.onTile_early (s : State) (t : Nat) (g : CTile → CTile) : (s.onTile t g).early = s.early := rfl
@[simp] theorem State.onTile_late (s : State) (t : Nat) (g : CTile → CTile) : (s.onTile t g).late = s.late := rfl
@[simp] theorem State.onTile_reqno (s : State) (t : Nat) (g : CTile → CTile) : (s.onTile t g).reqno = s.reqno := rfl
@[simp] theorem State.onTile_opno (s : State) (t : Nat) (g : CTile → CTile) : (s.onTile t g).opno = s.opno := rfl
@[simp] theorem State.onTile_free (s : State) (t : Nat) (g : CTile → CTile) : (s.onTile t g).free = s.free := rfl

@[simp] theorem State.setMtile_clk (s : State) (m : Nat) (c : MTile) : (s.setMtile m c).clk = s.clk := rfl
@[simp] theorem State.setMtile_agenda (s : State) (m : Nat) (c : MTile) : (s.setMtile m c).agenda = s.agenda := rfl
@[simp] theorem State.setMtile_arg (s : State) (m : Nat) (c : MTile) : (s.setMtile m c).arg = s.arg := rfl
@[simp] theorem State.setMtile_issuing (s : State) (m : Nat) (c : MTile) : (s.setMtile m c).issuing = s.issuing := rfl
@[simp] theorem State.setMtile_detected (s : State) (m : Nat) (c : MTile) : (s.setMtile m c).detected = s.detected := rfl
@[simp] theorem State.setMtile_mem (s : State) (m : Nat) (c : MTile) : (s.setMtile m c).mem = s.mem := rfl
@[simp] theorem State.setMtile_ct (s : State) (m : Nat) (c : MTile) : (s.setMtile m c).ct = s.ct := rfl
@[simp] theorem State.setMtile_mt (s : State) (m : Nat) (c : MTile) : (s.setMtile m c).mt = AList.set s.mt m c := rfl
@[simp] theorem State.setMtile_md (s : State) (m : Nat) (c : MTile) : (s.setMtile m c).md = s.md := rfl
@[simp] theorem State.setMtile_sw (s : State) (m : Nat) (c : MTile) : (s.setMtile m c).sw = s.sw := rfl
@[simp] theorem State.setMtile_net (s : State) (m : Nat) (c : MTile) : (s.setMtile m c).net = s.net := rfl
@[simp] theorem State.setMtile_asm (s : State) (m : Nat) (c : MTile) : (s.setMtile m c).asm = s.asm := rfl
@[simp] theorem State.setMtile_reps (s : State) (m : Nat) (c : MTile) : (s.setMtile m c).reps = s.reps := rfl
@[simp] theorem State.setMtile_early (s : State) (m : Nat) (c : MTile) : (s.setMtile m c).early = s.early := rfl
@[simp] theorem State.setMtile_late (s : State) (m : Nat) (c : MTile) : (s.setMtile m c).late = s.late := rfl
@[simp] theorem State.setMtile_reqno (s : State) (m : Nat) (c : MTile) : (s.setMtile m c).reqno = s.reqno := rfl
@[simp] theorem State.setMtile_opno (s : State) (m : Nat) (c : MTile) : (s.setMtile m c).opno = s.opno := rfl
@[simp] theorem State.setMtile_free (s : State) (m : Nat) (c : MTile) : (s.setMtile m c).free = s.free := rfl

@[simp] theorem State.onMtile_clk (s : State) (m : Nat) (g : MTile → MTile) : (s.onMtile m g).clk = s.clk := rfl
@[simp] theorem State.onMtile_agenda (s : State) (m : Nat) (g : MTile → MTile) : (s.onMtile m g).agenda = s.agenda := rfl
@[simp] theorem State.onMtile_arg (s : State) (m : Nat) (g : MTile → MTile) : (s.onMtile m g).arg = s.arg := rfl
@[simp] theorem State.onMtile_issuing (s : State) (m : Nat) (g : MTile → MTile) : (s.onMtile m g).issuing = s.issuing := rfl
@[simp] theorem State.onMtile_detected (s : State) (m : Nat) (g : MTile → MTile) : (s.onMtile m g).detected = s.detected := rfl
@[simp] theorem State.onMtile_mem (s : State) (m : Nat) (g : MTile → MTile) : (s.onMtile m g).mem = s.mem := rfl
@[simp] theorem State.onMtile_ct (s : State) (m : Nat) (g : MTile → MTile) : (s.onMtile m g).ct = s.ct := rfl
@[simp] theorem State.onMtile_mt (s : State) (m : Nat) (g : MTile → MTile) : (s.onMtile m g).mt = AList.set s.mt m (g (s.mtile m)) := rfl
@[simp] theorem State.onMtile_md (s : State) (m : Nat) (g : MTile → MTile) : (s.onMtile m g).md = s.md := rfl
@[simp] theorem State.onMtile_sw (s : State) (m : Nat) (g : MTile → MTile) : (s.onMtile m g).sw = s.sw := rfl
@[simp] theorem State.onMtile_net (s : State) (m : Nat) (g : MTile → MTile) : (s.onMtile m g).net = s.net := rfl
@[simp] theorem State.onMtile_asm (s : State) (m : Nat) (g : MTile → MTile) : (s.onMtile m g).asm = s.asm := rfl
@[simp] theorem State.onMtile_reps (s : State) (m : Nat) (g : MTile → MTile) : (s.onMtile m g).reps = s.reps := rfl
@[simp] theorem State.onMtile_early (s : State) (m : Nat) (g : MTile → MTile) : (s.onMtile m g).early = s.early := rfl
@[simp] theorem State.onMtile_late (s : State) (m : Nat) (g : MTile → MTile) : (s.onMtile m g).late = s.late := rfl
@[simp] theorem State.onMtile_reqno (s : State) (m : Nat) (g : MTile → MTile) : (s.onMtile m g).reqno = s.reqno := rfl
@[simp] theorem State.onMtile_opno (s : State) (m : Nat) (g : MTile → MTile) : (s.onMtile m g).opno = s.opno := rfl
@[simp] theorem State.onMtile_free (s : State) (m : Nat) (g : MTile → MTile) : (s.onMtile m g).free = s.free := rfl

@[simp] theorem State.setMdie_clk (s : State) (d : Nat) (c : MDie) : (s.setMdie d c).clk = s.clk := rfl
@[simp] theorem State.setMdie_agenda (s : State) (d : Nat) (c : MDie) : (s.setMdie d c).agenda = s.agenda := rfl
@[simp] theorem State.setMdie_arg (s : State) (d : Nat) (c : MDie) : (s.setMdie d c).arg = s.arg := rfl
@[simp] theorem State.setMdie_issuing (s : State) (d : Nat) (c : MDie) : (s.setMdie d c).issuing = s.issuing := rfl
@[simp] theorem State.setMdie_detected (s : State) (d : Nat) (c : MDie) : (s.setMdie d c).detected = s.detected := rfl
@[simp] theorem State.setMdie_mem (s : State) (d : Nat) (c : MDie) : (s.setMdie d c).mem = s.mem := rfl
@[simp] theorem State.setMdie_ct (s : State) (d : Nat) (c : MDie) : (s.setMdie d c).ct = s.ct := rfl
@[simp] theorem State.setMdie_mt (s : State) (d : Nat) (c : MDie) : (s.setMdie d c).mt = s.mt := rfl
@[simp] theorem State.setMdie_md (s : State) (d : Nat) (c : MDie) : (s.setMdie d c).md = AList.set s.md d c := rfl
@[simp] theorem State.setMdie_sw (s : State) (d : Nat) (c : MDie) : (s.setMdie d c).sw = s.sw := rfl
@[simp] theorem State.setMdie_net (s : State) (d : Nat) (c : MDie) : (s.setMdie d c).net = s.net := rfl
@[simp] theorem State.setMdie_asm (s : State) (d : Nat) (c : MDie) : (s.setMdie d c).asm = s.asm := rfl
@[simp] theorem State.setMdie_reps (s : State) (d : Nat) (c : MDie) : (s.setMdie d c).reps = s.reps := rfl
@[simp] theorem State.setMdie_early (s : State) (d : Nat) (c : MDie) : (s.setMdie d c).early = s.early := rfl
@[simp] theorem State.setMdie_late (s : State) (d : Nat) (c : MDie) : (s.setMdie d c).late = s.late := rfl
@[simp] theorem State.setMdie_reqno (s : State) (d : Nat) (c : MDie) : (s.setMdie d c).reqno = s.reqno := rfl
@[simp] theorem State.setMdie_opno (s : State) (d : Nat) (c : MDie) : (s.setMdie d c).opno = s.opno := rfl
@[simp] theorem State.setMdie_free (s : State) (d : Nat) (c : MDie) : (s.setMdie d c).free = s.free := rfl

@[simp] theorem State.onMdie_clk (s : State) (d : Nat) (g : MDie → MDie) : (s.onMdie d g).clk = s.clk := rfl
@[simp] theorem State.onMdie_agenda (s : State) (d : Nat) (g : MDie → MDie) : (s.onMdie d g).agenda = s.agenda := rfl
@[simp] theorem State.onMdie_arg (s : State) (d : Nat) (g : MDie → MDie) : (s.onMdie d g).arg = s.arg := rfl
@[simp] theorem State.onMdie_issuing (s : State) (d : Nat) (g : MDie → MDie) : (s.onMdie d g).issuing = s.issuing := rfl
@[simp] theorem State.onMdie_detected (s : State) (d : Nat) (g : MDie → MDie) : (s.onMdie d g).detected = s.detected := rfl
@[simp] theorem State.onMdie_mem (s : State) (d : Nat) (g : MDie → MDie) : (s.onMdie d g).mem = s.mem := rfl
@[simp] theorem State.onMdie_ct (s : State) (d : Nat) (g : MDie → MDie) : (s.onMdie d g).ct = s.ct := rfl
@[simp] theorem State.onMdie_mt (s : State) (d : Nat) (g : MDie → MDie) : (s.onMdie d g).mt = s.mt := rfl
@[simp] theorem State.onMdie_md (s : State) (d : Nat) (g : MDie → MDie) : (s.onMdie d g).md = AList.set s.md d (g (s.mdie d)) := rfl
@[simp] theorem State.onMdie_sw (s : State) (d : Nat) (g : MDie → MDie) : (s.onMdie d g).sw = s.sw := rfl
@[simp] theorem State.onMdie_net (s : State) (d : Nat) (g : MDie → MDie) : (s.onMdie d g).net = s.net := rfl
@[simp] theorem State.onMdie_asm (s : State) (d : Nat) (g : MDie → MDie) : (s.onMdie d g).asm = s.asm := rfl
@[simp] theorem State.onMdie_reps (s : State) (d : Nat) (g : MDie → MDie) : (s.onMdie d g).reps = s.reps := rfl
@[simp] theorem State.onMdie_early (s : State) (d : Nat) (g : MDie → MDie) : (s.onMdie d g).early = s.early := rfl
@[simp] theorem State.onMdie_late (s : State) (d : Nat) (g : MDie → MDie) : (s.onMdie d g).late = s.late := rfl
@[simp] theorem State.onMdie_reqno (s : State) (d : Nat) (g : MDie → MDie) : (s.onMdie d g).reqno = s.reqno := rfl
@[simp] theorem State.onMdie_opno (s : State) (d : Nat) (g : MDie → MDie) : (s.onMdie d g).opno = s.opno := rfl
@[simp] theorem State.onMdie_free (s : State) (d : Nat) (g : MDie → MDie) : (s.onMdie d g).free = s.free := rfl

@[simp] theorem State.onSw_clk (s : State) (g : Switch → Switch) : (s.onSw g).clk = s.clk := rfl
@[simp] theorem State.onSw_agenda (s : State) (g : Switch → Switch) : (s.onSw g).agenda = s.agenda := rfl
@[simp] theorem State.onSw_arg (s : State) (g : Switch → Switch) : (s.onSw g).arg = s.arg := rfl
@[simp] theorem State.onSw_issuing (s : State) (g : Switch → Switch) : (s.onSw g).issuing = s.issuing := rfl
@[simp] theorem State.onSw_detected (s : State) (g : Switch → Switch) : (s.onSw g).detected = s.detected := rfl
@[simp] theorem State.onSw_mem (s : State) (g : Switch → Switch) : (s.onSw g).mem = s.mem := rfl
@[simp] theorem State.onSw_ct (s : State) (g : Switch → Switch) : (s.onSw g).ct = s.ct := rfl
@[simp] theorem State.onSw_mt (s : State) (g : Switch → Switch) : (s.onSw g).mt = s.mt := rfl
@[simp] theorem State.onSw_md (s : State) (g : Switch → Switch) : (s.onSw g).md = s.md := rfl
@[simp] theorem State.onSw_sw (s : State) (g : Switch → Switch) : (s.onSw g).sw = g s.sw := rfl
@[simp] theorem State.onSw_net (s : State) (g : Switch → Switch) : (s.onSw g).net = s.net := rfl
@[simp] theorem State.onSw_asm (s : State) (g : Switch → Switch) : (s.onSw g).asm = s.asm := rfl
@[simp] theorem State.onSw_reps (s : State) (g : Switch → Switch) : (s.onSw g).reps = s.reps := rfl
@[simp] theorem State.onSw_early (s : State) (g : Switch → Switch) : (s.onSw g).early = s.early := rfl
@[simp] theorem State.onSw_late (s : State) (g : Switch → Switch) : (s.onSw g).late = s.late := rfl
@[simp] theorem State.onSw_reqno (s : State) (g : Switch → Switch) : (s.onSw g).reqno = s.reqno := rfl
@[simp] theorem State.onSw_opno (s : State) (g : Switch → Switch) : (s.onSw g).opno = s.opno := rfl
@[simp] theorem State.onSw_free (s : State) (g : Switch → Switch) : (s.onSw g).free = s.free := rfl

@[simp] theorem State.issued_clk (s : State) : s.issued.clk = s.clk := rfl
@[simp] theorem State.issued_agenda (s : State) : s.issued.agenda = s.agenda := rfl
@[simp] theorem State.issued_arg (s : State) : s.issued.arg = s.arg := rfl
@[simp] theorem State.issued_issuing (s : State) : s.issued.issuing = none := rfl
@[simp] theorem State.issued_detected (s : State) : s.issued.detected = s.detected := rfl
@[simp] theorem State.issued_mem (s : State) : s.issued.mem = s.mem := rfl
@[simp] theorem State.issued_ct (s : State) : s.issued.ct = s.ct := rfl
@[simp] theorem State.issued_mt (s : State) : s.issued.mt = s.mt := rfl
@[simp] theorem State.issued_md (s : State) : s.issued.md = s.md := rfl
@[simp] theorem State.issued_sw (s : State) : s.issued.sw = s.sw := rfl
@[simp] theorem State.issued_net (s : State) : s.issued.net = s.net := rfl
@[simp] theorem State.issued_asm (s : State) : s.issued.asm = s.asm := rfl
@[simp] theorem State.issued_reps (s : State) : s.issued.reps = s.reps := rfl
@[simp] theorem State.issued_early (s : State) : s.issued.early = s.early := rfl
@[simp] theorem State.issued_late (s : State) : s.issued.late = s.late := rfl
@[simp] theorem State.issued_reqno (s : State) : s.issued.reqno = s.reqno := rfl
@[simp] theorem State.issued_opno (s : State) : s.issued.opno = s.opno := rfl
@[simp] theorem State.issued_free (s : State) : s.issued.free = s.free := rfl

@[simp] theorem State.taken_clk (s : State) (n : Nat) : (s.taken n).clk = s.clk := rfl
@[simp] theorem State.taken_agenda (s : State) (n : Nat) : (s.taken n).agenda = s.agenda := rfl
@[simp] theorem State.taken_arg (s : State) (n : Nat) : (s.taken n).arg = s.arg := rfl
@[simp] theorem State.taken_issuing (s : State) (n : Nat) : (s.taken n).issuing = s.issuing := rfl
@[simp] theorem State.taken_detected (s : State) (n : Nat) : (s.taken n).detected = s.detected := rfl
@[simp] theorem State.taken_mem (s : State) (n : Nat) : (s.taken n).mem = s.mem := rfl
@[simp] theorem State.taken_ct (s : State) (n : Nat) : (s.taken n).ct = s.ct := rfl
@[simp] theorem State.taken_mt (s : State) (n : Nat) : (s.taken n).mt = s.mt := rfl
@[simp] theorem State.taken_md (s : State) (n : Nat) : (s.taken n).md = s.md := rfl
@[simp] theorem State.taken_sw (s : State) (n : Nat) : (s.taken n).sw = s.sw := rfl
@[simp] theorem State.taken_net (s : State) (n : Nat) : (s.taken n).net = dropNth s.net n := rfl
@[simp] theorem State.taken_asm (s : State) (n : Nat) : (s.taken n).asm = s.asm := rfl
@[simp] theorem State.taken_reps (s : State) (n : Nat) : (s.taken n).reps = s.reps := rfl
@[simp] theorem State.taken_early (s : State) (n : Nat) : (s.taken n).early = s.early := rfl
@[simp] theorem State.taken_late (s : State) (n : Nat) : (s.taken n).late = s.late := rfl
@[simp] theorem State.taken_reqno (s : State) (n : Nat) : (s.taken n).reqno = s.reqno := rfl
@[simp] theorem State.taken_opno (s : State) (n : Nat) : (s.taken n).opno = s.opno := rfl
@[simp] theorem State.taken_free (s : State) (n : Nat) : (s.taken n).free = s.free := rfl

end Sys2Proof.Machine
end

