-- ==== Sys2Proof/Laws/Memory.lean ====
section
/-! SUPPORT. Memory: every write keeps the canonical form, a byte reads as it was written, and every other byte as before. -/

namespace Sys2Proof.Machine

theorem cellsAbove_mono {a b : Nat} {l : List Host.Cell} (h : a ≤ b) (hl : cellsAbove b l = true) : cellsAbove a l = true := by
  cases l with
  | nil => rfl
  | cons e l => obtain ⟨k, v⟩ := e; simp [cellsAbove] at *; omega

/-- An address below every listed one is not listed. -/
theorem cellGet_of_above {l : List Host.Cell} {a : Nat} (h : cellsAbove a l = true) : cellGet l a = memDefault := by
  cases l with
  | nil => rfl
  | cons e l =>
    obtain ⟨k, v⟩ := e
    simp only [cellsAbove, decide_eq_true_eq] at h
    simp [cellGet, h, show k ≠ a by omega]

theorem cellsAbove_cellSet {l : List Host.Cell} {c a : Nat} (b : Byte) (h : cellsAbove c l = true) (hw : Memory.wf l = true) (ha : c < a) :
    cellsAbove c (cellSet l a b) = true := by
  cases l with
  | nil => by_cases hb : b = memDefault <;> simp [cellSet, hb, cellsAbove, ha]
  | cons e l =>
    obtain ⟨k, v⟩ := e
    simp only [Memory.wf, Bool.and_eq_true] at hw
    have hk : c < k := by simpa [cellsAbove] using h
    simp only [cellSet]
    split
    · split
      · exact cellsAbove_mono (by omega) hw.1.2
      · simpa [cellsAbove] using ha
    · split
      · split
        · exact h
        · simpa [cellsAbove] using ha
      · simpa [cellsAbove] using hk

theorem Memory.wf_cons {k : Nat} {v : Byte} {l : List Host.Cell} :
    Memory.wf ((k, v) :: l) = true ↔ v ≠ memDefault ∧ cellsAbove k l = true ∧ Memory.wf l = true := by
  simp only [Memory.wf, Bool.and_eq_true, bne_iff_ne, ne_eq, and_assoc]

/-- Writing a byte keeps the canonical form. -/
theorem cellSet_wf {l : List Host.Cell} (a : Nat) (b : Byte) (h : Memory.wf l = true) : Memory.wf (cellSet l a b) = true := by
  induction l with
  | nil => by_cases hb : b = memDefault <;> simp [cellSet, hb, Memory.wf, cellsAbove]
  | cons e l ih =>
    obtain ⟨k, v⟩ := e
    obtain ⟨hv, hk, hl⟩ := Memory.wf_cons.mp h
    simp only [cellSet]
    split
    · subst_vars
      split
      · exact hl
      · exact Memory.wf_cons.mpr ⟨‹_›, hk, hl⟩
    · split
      · split
        · exact h
        · exact Memory.wf_cons.mpr ⟨‹_›, by simpa [cellsAbove], h⟩
      · exact Memory.wf_cons.mpr ⟨hv, cellsAbove_cellSet b hk hl (by omega), ih hl⟩

/-- The byte just written. -/
theorem cellGet_cellSet_same {l : List Host.Cell} (a : Nat) (b : Byte) (h : Memory.wf l = true) : cellGet (cellSet l a b) a = b := by
  induction l with
  | nil => by_cases hb : b = memDefault <;> simp [cellSet, hb, cellGet]
  | cons e l ih =>
    obtain ⟨k, v⟩ := e
    simp only [Memory.wf, Bool.and_eq_true] at h
    simp only [cellSet]
    split
    · subst_vars
      split
      · subst_vars; exact cellGet_of_above h.1.2
      · simp [cellGet]
    · split
      · split
        · subst_vars; simp [cellGet, *]
        · simp [cellGet]
      · simp [cellGet, *, ih h.2]

/-- Every other byte. -/
theorem cellGet_cellSet_other {l : List Host.Cell} (b : Byte) {a c : Nat} (h : Memory.wf l = true) (hc : c ≠ a) :
    cellGet (cellSet l a b) c = cellGet l c := by
  induction l with
  | nil => by_cases hb : b = memDefault <;> simp [cellSet, hb, cellGet, Ne.symm hc]
  | cons e l ih =>
    obtain ⟨k, v⟩ := e
    simp only [Memory.wf, Bool.and_eq_true] at h
    simp only [cellSet]
    split
    · subst_vars
      split
      · by_cases hl : c < k
        · simp [cellGet, hl, Ne.symm hc, cellGet_of_above (cellsAbove_mono (Nat.le_of_lt hl) h.1.2)]
        · simp [cellGet, hl, Ne.symm hc]
      · simp [cellGet, Ne.symm hc]
    · split
      · split
        · rfl
        · by_cases hl : c < a
          · simp [cellGet, hl, Ne.symm hc, show k ≠ c by omega, show c < k by omega]
          · simp [cellGet, hl, Ne.symm hc]
      · simp [cellGet, ih h.2]

theorem State.setByte_memOk {s : State} (a : Nat) (b : Byte) (h : s.MemOk) : (s.setByte a b).MemOk := cellSet_wf a b h

theorem State.byte_setByte {s : State} (a c : Nat) (b : Byte) (h : s.MemOk) : (s.setByte a b).byte c = if c = a then b else s.byte c := by
  split
  · subst_vars; exact cellGet_cellSet_same c b h
  · exact cellGet_cellSet_other b h ‹_›

/-- Writing bytes changes memory only. -/
theorem State.writeBytes_only (s : State) (a : Nat) (bs : List Byte) :
    s.writeBytes a bs = { s with mem := (s.writeBytes a bs).mem } := by
  induction bs generalizing s a with
  | nil => rfl
  | cons b bs ih => simp only [State.writeBytes]; rw [ih]; rfl

theorem State.writeBytes_memOk {s : State} (a : Nat) (bs : List Byte) (h : s.MemOk) : (s.writeBytes a bs).MemOk := by
  induction bs generalizing s a with
  | nil => exact h
  | cons b bs ih => exact ih _ (setByte_memOk a b h)

/-- A write of bytes leaves every byte below it and above it. -/
theorem State.byte_writeBytes_other {s : State} (a : Nat) (bs : List Byte) (h : s.MemOk) {c : Nat}
    (hc : c < a ∨ a + bs.length ≤ c) : (s.writeBytes a bs).byte c = s.byte c := by
  induction bs generalizing s a with
  | nil => rfl
  | cons b bs ih =>
    simp only [List.length_cons] at hc
    simp only [State.writeBytes]
    rw [ih _ (setByte_memOk a b h) (by omega), byte_setByte a c b h, if_neg (by omega)]

theorem State.writeN_memOk {s : State} (a n x : Nat) (h : s.MemOk) : (s.writeN a n x).MemOk := writeBytes_memOk a _ h

/-- A write to device memory goes through the one list of cells. -/
theorem State.dramWrite_mem (s : State) (d pa : Nat) (bs : List Byte) :
    (s.dramWrite d pa bs).mem = (s.writeBytes (hbmAddr (d - 8) pa) bs).mem := rfl
/-- A write to a scratchpad goes through the one list of cells. -/
theorem State.padWrite_mem (s : State) (m off : Nat) (bs : List Byte) :
    (s.padWrite m off bs).mem = (s.writeBytes (padAddr m off) bs).mem := rfl

theorem State.dramWrite_memOk {s : State} (d pa : Nat) (bs : List Byte) (h : s.MemOk) : (s.dramWrite d pa bs).MemOk :=
  writeBytes_memOk _ _ h
theorem State.padWrite_memOk {s : State} (m off : Nat) (bs : List Byte) (h : s.MemOk) : (s.padWrite m off bs).MemOk :=
  writeBytes_memOk _ _ h
theorem State.elemSet_memOk {s : State} (m : Nat) (x : Desc) (r c v : Nat) (h : s.MemOk) : (s.elemSet m x r c v).MemOk :=
  padWrite_memOk _ _ _ h
theorem State.rowPut_memOk {s : State} (m : Nat) (x : Desc) (r : Nat) (vs : List Nat) (h : s.MemOk) : (s.rowPut m x r vs).MemOk :=
  padWrite_memOk _ _ _ h

@[simp] theorem toBytes_length (n x : Nat) : (toBytes n x).length = n := by
  induction n generalizing x with
  | zero => rfl
  | succ n ih => simp [toBytes, ih]

/-- The bytes of a number give the number back, in as many bits as they hold. -/
theorem ofBytes_toBytes (n x : Nat) : ofBytes (toBytes n x) = x % 256 ^ n := by
  induction n generalizing x with
  | zero => simp [toBytes, ofBytes, Nat.mod_one]
  | succ n ih => rw [toBytes, ofBytes, ih, BitVec.toNat_ofNat, show (2 : Nat) ^ 8 = 256 from rfl, Nat.pow_succ, Nat.mul_comm (256 ^ n), Nat.mod_mul]

end Sys2Proof.Machine
end

