-- ==== Sys2Proof/Laws/Tables.lean ====
section
/-! SUPPORT. Reading a table after it is set, and reading a tile or a die after it is changed. -/

namespace Sys2Proof.Machine

/-! ## Tables -/

@[simp] theorem AList.get?_set_same {α : Type} (l : AList α) (a : Nat) (x : α) : AList.get? (AList.set l a x) a = some x := by
  induction l with
  | nil => simp [AList.set, AList.get?]
  | cons e l ih =>
    obtain ⟨k, v⟩ := e
    by_cases hk : k = a
    · simp [AList.set, AList.get?, hk]
    · by_cases hl : a < k <;> simp [AList.set, AList.get?, hk, hl, ih]

theorem AList.get?_set_other {α : Type} (l : AList α) (x : α) {a b : Nat} (h : b ≠ a) :
    AList.get? (AList.set l a x) b = AList.get? l b := by
  induction l with
  | nil => simp [AList.set, AList.get?, Ne.symm h]
  | cons e l ih =>
    obtain ⟨k, v⟩ := e
    by_cases hk : k = a
    · subst hk; simp [AList.set, AList.get?, Ne.symm h]
    · by_cases hl : a < k
      · by_cases hb : b < a
        · simp [AList.set, AList.get?, hk, hl, hb, Ne.symm h, show k ≠ b by omega, show b < k by omega]
        · simp [AList.set, AList.get?, hk, hl, hb, Ne.symm h]
      · simp [AList.set, AList.get?, hk, hl, ih]

/-- What a table reads anywhere after one key is set. -/
theorem AList.get?_set {α : Type} (l : AList α) (x : α) (a b : Nat) :
    AList.get? (AList.set l a x) b = if b = a then some x else AList.get? l b := by
  split
  · subst_vars; simp
  · exact AList.get?_set_other l x ‹_›

@[simp] theorem AList.getD_set_same {α : Type} (l : AList α) (a : Nat) (x d : α) : AList.getD (AList.set l a x) a d = x := by
  simp [AList.getD]

theorem AList.getD_set_other {α : Type} (l : AList α) (x d : α) {a b : Nat} (h : b ≠ a) :
    AList.getD (AList.set l a x) b d = AList.getD l b d := by
  simp [AList.getD, AList.get?_set_other l x h]

@[simp] theorem dropNth_length {α : Type} (l : List α) (n : Nat) (h : n < l.length) : (dropNth l n).length = l.length - 1 := by
  induction l generalizing n with
  | nil => simp at h
  | cons x l ih =>
    cases n with
    | zero => simp [dropNth]
    | succ n =>
      simp only [List.length_cons, Nat.add_lt_add_iff_right] at h
      simp [dropNth, ih n h]; omega

@[simp] theorem setNth_length {α : Type} (l : List α) (n : Nat) (y : α) : (setNth l n y).length = l.length := by
  induction l generalizing n with
  | nil => rfl
  | cons x l ih => cases n <;> simp [setNth, ih]

/-! ## Tiles and dies -/

@[simp] theorem State.tile_setTile (s : State) (t : Nat) (c : CTile) : (s.setTile t c).tile t = c := by simp [State.tile]
theorem State.tile_setTile_other (s : State) (c : CTile) {t u : Nat} (h : u ≠ t) : (s.setTile t c).tile u = s.tile u := by
  simp [State.tile, AList.getD_set_other _ _ _ h]
@[simp] theorem State.tile_onTile (s : State) (t : Nat) (g : CTile → CTile) : (s.onTile t g).tile t = g (s.tile t) := by
  simp [State.onTile]
theorem State.tile_onTile_other (s : State) (g : CTile → CTile) {t u : Nat} (h : u ≠ t) : (s.onTile t g).tile u = s.tile u := by
  simp [State.onTile, State.tile_setTile_other s _ h]

@[simp] theorem State.mtile_setMtile (s : State) (m : Nat) (c : MTile) : (s.setMtile m c).mtile m = c := by simp [State.mtile]
theorem State.mtile_setMtile_other (s : State) (c : MTile) {m n : Nat} (h : n ≠ m) : (s.setMtile m c).mtile n = s.mtile n := by
  simp [State.mtile, AList.getD_set_other _ _ _ h]
@[simp] theorem State.mtile_onMtile (s : State) (m : Nat) (g : MTile → MTile) : (s.onMtile m g).mtile m = g (s.mtile m) := by
  simp [State.onMtile]
theorem State.mtile_onMtile_other (s : State) (g : MTile → MTile) {m n : Nat} (h : n ≠ m) :
    (s.onMtile m g).mtile n = s.mtile n := by
  simp [State.onMtile, State.mtile_setMtile_other s _ h]

@[simp] theorem State.mdie_onMdie (s : State) (d : Nat) (g : MDie → MDie) : (s.onMdie d g).mdie d = g (s.mdie d) := by
  simp [State.onMdie, State.mdie]
theorem State.mdie_onMdie_other (s : State) (g : MDie → MDie) {d e : Nat} (h : e ≠ d) : (s.onMdie d g).mdie e = s.mdie e := by
  simp [State.mdie, AList.getD_set_other _ _ _ h]

@[simp] theorem State.tile_onMtile (s : State) (m t : Nat) (g : MTile → MTile) : (s.onMtile m g).tile t = s.tile t := rfl
@[simp] theorem State.tile_onMdie (s : State) (d t : Nat) (g : MDie → MDie) : (s.onMdie d g).tile t = s.tile t := rfl
@[simp] theorem State.tile_onSw (s : State) (g : Switch → Switch) (t : Nat) : (s.onSw g).tile t = s.tile t := rfl
@[simp] theorem State.tile_issued (s : State) (t : Nat) : s.issued.tile t = s.tile t := rfl
@[simp] theorem State.mtile_onTile (s : State) (t m : Nat) (g : CTile → CTile) : (s.onTile t g).mtile m = s.mtile m := rfl
@[simp] theorem State.mtile_onMdie (s : State) (d m : Nat) (g : MDie → MDie) : (s.onMdie d g).mtile m = s.mtile m := rfl
@[simp] theorem State.mtile_onSw (s : State) (g : Switch → Switch) (m : Nat) : (s.onSw g).mtile m = s.mtile m := rfl
@[simp] theorem State.mdie_onTile (s : State) (t d : Nat) (g : CTile → CTile) : (s.onTile t g).mdie d = s.mdie d := rfl
@[simp] theorem State.mdie_onMtile (s : State) (m d : Nat) (g : MTile → MTile) : (s.onMtile m g).mdie d = s.mdie d := rfl
@[simp] theorem State.mdie_onSw (s : State) (g : Switch → Switch) (d : Nat) : (s.onSw g).mdie d = s.mdie d := rfl

/-- A frame after it is changed: nothing where the tile holds none (FREE), else the changed frame. -/
theorem State.frame?_onFrame (s : State) (t fi : Nat) (g : Frame → Frame) : (s.onFrame t fi g).frame? t fi = (s.frame? t fi).map g := by
  unfold State.onFrame
  cases h : s.frame? t fi with
  | none => simp [h]
  | some fr => simp [State.frame?, CTile.setFrame]

/-- Changing one frame leaves every other frame of every tile. -/
theorem State.frame?_onFrame_other (s : State) (g : Frame → Frame) {t fi u fj : Nat} (h : (u, fj) ≠ (t, fi)) :
    (s.onFrame t fi g).frame? u fj = s.frame? u fj := by
  unfold State.onFrame
  cases s.frame? t fi with
  | none => rfl
  | some fr =>
    by_cases hu : u = t
    · subst hu
      have hj : fj ≠ fi := fun e => h (by rw [e])
      simp [State.frame?, CTile.setFrame, AList.get?_set_other _ _ hj]
    · simp [State.frame?, State.tile_onTile_other s _ hu]

end Sys2Proof.Machine
end

