-- ==== Sys2Proof/Laws/Operations.lean ====
section
/-! SUPPORT. Everything that a shared operation can do, said once: `op_only` names the fields of State that an operation may
change, and `op_mem` follows for memory. A later proof cites these and unfolds no operation. -/

namespace Sys2Proof.Machine

/-! ## Frames and counters (R28 to R30) -/

theorem State.onFrame_only (s : State) (t fi : Nat) (g : Frame → Frame) :
    s.onFrame t fi g = { s with ct := (s.onFrame t fi g).ct } := by
  unfold State.onFrame; split <;> rfl
@[simp] theorem State.onFrame_mem (s : State) (t fi : Nat) (g : Frame → Frame) : (s.onFrame t fi g).mem = s.mem := by
  rw [onFrame_only]

theorem State.count_only (s : State) (fr : Firing) (c : Cnt) : s.count fr c = { s with ct := (s.count fr c).ct } := onFrame_only _ _ _ _
@[simp] theorem State.count_mem (s : State) (fr : Firing) (c : Cnt) : (s.count fr c).mem = s.mem := onFrame_mem _ _ _ _
theorem State.uncount_only (s : State) (fr : Firing) (c : Cnt) : s.uncount fr c = { s with ct := (s.uncount fr c).ct } :=
  onFrame_only _ _ _ _
@[simp] theorem State.uncount_mem (s : State) (fr : Firing) (c : Cnt) : (s.uncount fr c).mem = s.mem := onFrame_mem _ _ _ _

/-! ## References (R182, R183) -/

/-- Releasing a reference changes the descriptors of memory tiles only. -/
theorem State.release_only (s : State) (die : Nat) (h : Word) : s.release die h = { s with mt := (s.release die h).mt } := by
  unfold State.release; dsimp only; split <;> rfl
@[simp] theorem State.release_mem (s : State) (die : Nat) (h : Word) : (s.release die h).mem = s.mem := by rw [release_only]

theorem State.releaseAll_only (s : State) (die : Nat) (hs : List Word) :
    s.releaseAll die hs = { s with mt := (s.releaseAll die hs).mt } := by
  induction hs generalizing s with
  | nil => rfl
  | cons h hs ih =>
    show (s.release die h).releaseAll die hs = { s with mt := ((s.release die h).releaseAll die hs).mt }
    rw [ih (s.release die h), release_only]
@[simp] theorem State.releaseAll_mem (s : State) (die : Nat) (hs : List Word) : (s.releaseAll die hs).mem = s.mem := by
  rw [releaseAll_only]
@[simp] theorem State.releaseAll_nil (s : State) (die : Nat) : s.releaseAll die [] = s := rfl
theorem State.releaseOps_only (s : State) (fr : Firing) : s.releaseOps fr = { s with mt := (s.releaseOps fr).mt } := releaseAll_only _ _ _
@[simp] theorem State.releaseOps_mem (s : State) (fr : Firing) : (s.releaseOps fr).mem = s.mem := releaseAll_mem _ _ _

/-! ## Tokens (R24, R105) -/

/-- Delivering tokens changes the inputs of compute tiles only. -/
theorem State.deliverAll_only (s : State) (via : Inp) (ks : List Token) :
    s.deliverAll via ks = { s with ct := (s.deliverAll via ks).ct } := by
  induction ks generalizing s with
  | nil => rfl
  | cons k ks ih =>
    show (s.deliver via k).deliverAll via ks = { s with ct := ((s.deliver via k).deliverAll via ks).ct }
    rw [ih (s.deliver via k)]; rfl
@[simp] theorem State.deliverAll_mem (s : State) (via : Inp) (ks : List Token) : (s.deliverAll via ks).mem = s.mem := by
  rw [deliverAll_only]

/-- Tokens that leave on the mesh change the flights of compute tiles only. -/
theorem State.departAll_only (s : State) (ks : List Token) : s.departAll ks = { s with ct := (s.departAll ks).ct } := by
  induction ks generalizing s with
  | nil => rfl
  | cons k ks ih =>
    show (s.depart k).departAll ks = { s with ct := ((s.depart k).departAll ks).ct }
    rw [ih (s.depart k)]; rfl
@[simp] theorem State.departAll_mem (s : State) (ks : List Token) : (s.departAll ks).mem = s.mem := by rw [departAll_only]

theorem State.discard_only (s : State) (k : Token) : s.discard k = { s with mt := (s.discard k).mt } := by
  unfold State.discard; split
  · exact release_only _ _ _
  · rfl
@[simp] theorem State.discard_mem (s : State) (k : Token) : (s.discard k).mem = s.mem := by rw [discard_only]
theorem State.discardCount_only (s : State) (k : Token) :
    s.discardCount k = { s with mt := (s.discardCount k).mt, ct := (s.discardCount k).ct } := by
  unfold State.discardCount; rw [discard_only]; rfl
@[simp] theorem State.discardCount_mem (s : State) (k : Token) : (s.discardCount k).mem = s.mem := by rw [discardCount_only]

/-- A result of an engine or memory node changes inputs and descriptors only. -/
theorem State.emit_only (s : State) (fr : Firing) (d : Option Dest) (lb : Nat) (outs : List (Option LVal)) :
    s.emit fr d lb outs = { s with ct := (s.emit fr d lb outs).ct, mt := (s.emit fr d lb outs).mt } := by
  unfold State.emit; split
  · split
    · rw [deliverAll_only]
    · rw [releaseAll_only]
  · rw [releaseAll_only]
@[simp] theorem State.emit_mem (s : State) (fr : Firing) (d : Option Dest) (lb : Nat) (outs : List (Option LVal)) :
    (s.emit fr d lb outs).mem = s.mem := by rw [emit_only]
@[simp] theorem State.emit1_mem (s : State) (fr : Firing) (d : Option Dest) (lane : Nat) (v : LVal) : (s.emit1 fr d lane v).mem = s.mem :=
  emit_mem _ _ _ _ _
@[simp] theorem State.emitDone_mem (s : State) (fr : Firing) (d : Option Dest) : (s.emitDone fr d).mem = s.mem := emit_mem _ _ _ _ _

/-! ## Faults (R372): detecting one changes nothing else -/

theorem State.raise_only (s : State) (fr : Firing) (e : Err) : s.raise fr e = { s with detected := (s.raise fr e).detected } := rfl
@[simp] theorem State.raise_mem (s : State) (fr : Firing) (e : Err) : (s.raise fr e).mem = s.mem := rfl
theorem State.raisePoison_only (s : State) (fr : Firing) (port lane : Nat) (r : PRec) :
    s.raisePoison fr port lane r = { s with detected := (s.raisePoison fr port lane r).detected } := rfl
@[simp] theorem State.raisePoison_mem (s : State) (fr : Firing) (port lane : Nat) (r : PRec) : (s.raisePoison fr port lane r).mem = s.mem :=
  rfl
theorem State.raiseAt_only (s : State) (k : Token) (cause : Nat) (extra : Word) :
    s.raiseAt k cause extra = { s with detected := (s.raiseAt k cause extra).detected } := rfl
@[simp] theorem State.raiseAt_mem (s : State) (k : Token) (cause : Nat) (extra : Word) : (s.raiseAt k cause extra).mem = s.mem := rfl

/-! ## Buffers, device memory and home slices -/

theorem State.padWrite_only (s : State) (m off : Nat) (bs : List Byte) :
    s.padWrite m off bs = { s with mem := (s.padWrite m off bs).mem, mt := (s.padWrite m off bs).mt } := by
  unfold State.padWrite; rw [writeBytes_only]; rfl
theorem State.dramWrite_only (s : State) (d pa : Nat) (bs : List Byte) :
    s.dramWrite d pa bs = { s with mem := (s.dramWrite d pa bs).mem, md := (s.dramWrite d pa bs).md } := by
  unfold State.dramWrite; dsimp only; rw [writeBytes_only]; rfl
theorem State.touch_only (s : State) (m d off n : Nat) : s.touch m d off n = { s with mt := (s.touch m d off n).mt } := by
  unfold State.touch; split <;> rfl
@[simp] theorem State.touch_mem (s : State) (m d off n : Nat) : (s.touch m d off n).mem = s.mem := by rw [touch_only]
@[simp] theorem State.taint_mem (s : State) (m d : Nat) (r : PRec) : (s.taint m d r).mem = s.mem := rfl
/-- What has fallen due at a pair of pseudo-channels, and a change of one, change memory dies only (R406 to R410). -/
theorem State.catchPc_only (s : State) (d p : Nat) : s.catchPc d p = { s with md := (s.catchPc d p).md } := by
  unfold State.catchPc; dsimp only; split <;> rfl
@[simp] theorem State.catchPc_mem (s : State) (d p : Nat) : (s.catchPc d p).mem = s.mem := by rw [catchPc_only]
theorem State.onPc_only (s : State) (d p : Nat) (g : PChan → PChan) : s.onPc d p g = { s with md := (s.onPc d p g).md } := by
  unfold State.onPc; rw [catchPc_only]; rfl
@[simp] theorem State.onPc_mem (s : State) (d p : Nat) (g : PChan → PChan) : (s.onPc d p g).mem = s.mem := by rw [onPc_only]
theorem State.demand_only (s : State) (d pa : Nat) : s.demand d pa = { s with md := (s.demand d pa).md } := onPc_only _ _ _ _
@[simp] theorem State.demand_mem (s : State) (d pa : Nat) : (s.demand d pa).mem = s.mem := onPc_mem _ _ _ _
@[simp] theorem State.onSlice_mem (s : State) (d n : Nat) (g : Slice → Slice) : (s.onSlice d n g).mem = s.mem := rfl

/-! ## The words of engine operations (R300) -/

theorem State.putBytes_only (s : State) (bs : List (Nat × Byte)) : s.putBytes bs = { s with mem := (s.putBytes bs).mem } := by
  induction bs generalizing s with
  | nil => rfl
  | cons b bs ih =>
    show (s.writeBytes b.1 [b.2]).putBytes bs = { s with mem := ((s.writeBytes b.1 [b.2]).putBytes bs).mem }
    rw [ih (s.writeBytes b.1 [b.2]), writeBytes_only]

/-- The words that land are those that wait; with none, nothing happens. -/
theorem State.landOf_nil {s : State} {test : Nat × Nat × List (Nat × Byte) → Bool} (h : s.late.any test = false) : s.landOf test = s := by
  simp [State.landOf, h]
theorem State.landOwner_nil {s : State} {o : Owner} (h : s.late = []) : s.landOwner o = s := landOf_nil (by simp [h])
theorem State.landRest_nil {s : State} (h : s.late = []) : s.landRest = s := landOf_nil (by simp [h])

/-- An operation that has read no word early and writes none late performs whole. -/
theorem torn_nil {s : State} {o : Owner} (f : State → State) (h : s.early = []) : torn s o [] f = f s := by
  simp [torn, h]
theorem State.asRead_nil {s : State} {o : Owner} (h : s.early = []) : s.asRead o = s := by simp [State.asRead, h]
theorem State.forgetEarly_nil {s : State} {o : Owner} (h : s.early = []) : s.forgetEarly o = s := by simp [State.forgetEarly, h]

/-! ## The switch die -/

theorem State.onGraph_only (s : State) (g : Nat) (h : Graph → Graph) : s.onGraph g h = { s with sw := (s.onGraph g h).sw } := by
  unfold State.onGraph; split <;> rfl
@[simp] theorem State.onGraph_mem (s : State) (g : Nat) (h : Graph → Graph) : (s.onGraph g h).mem = s.mem := by rw [onGraph_only]
@[simp] theorem State.onRegion_mem (s : State) (g v : Nat) (h : Region → Region) : (s.onRegion g v h).mem = s.mem := onGraph_mem _ _ _
@[simp] theorem State.onLaunch_mem (s : State) (q e : Nat) (g : Launch → Launch) : (s.onLaunch q e g).mem = s.mem := rfl
@[simp] theorem State.onQueue_mem (s : State) (q : Nat) (g : Queue → Queue) : (s.onQueue q g).mem = s.mem := rfl
@[simp] theorem State.onJob_mem (s : State) (j : Nat) (g : Job → Job) : (s.onJob j g).mem = s.mem := rfl
@[simp] theorem State.pendRec_mem (s : State) (r : PendRec) : (s.pendRec r).mem = s.mem := rfl
@[simp] theorem State.setMapWord_mem (s : State) (mix : Nat) (w : Word) : (s.setMapWord mix w).mem = s.mem := rfl
@[simp] theorem State.send_mem (s : State) (src : Src) (own jid : Nat) (p : Piece) (place : Word) : (s.send src own jid p place).mem = s.mem :=
  rfl

/-- A reply waits for the tile, or leaves the module. -/
theorem State.reply_only (s : State) (r : Rep) : s.reply r = { s with sw := (s.reply r).sw, reps := (s.reply r).reps } := by
  unfold State.reply; split <;> rfl
@[simp] theorem State.reply_mem (s : State) (r : Rep) : (s.reply r).mem = s.mem := by rw [reply_only]

/-! ## Issue -/

/-- A meaning acts on the firing that has issued, which leaves the model's hand first. -/
theorem withFiring_some {s : State} {fr : Firing} (g : Firing → State → State) (h : s.issuing = some fr) : withFiring s g = g fr s.issued := by
  unfold withFiring; rw [h]
theorem withFiring_none {s : State} (g : Firing → State → State) (h : s.issuing = none) : withFiring s g = s := by
  unfold withFiring; rw [h]

/-- A meaning that keeps a property of every state keeps it over the firing in hand. -/
theorem withFiring_keeps {P : State → Prop} {g : Firing → State → State} (hg : ∀ fr s, P s → P (g fr s)) (hi : ∀ s, P s → P s.issued)
    {s : State} (h : P s) : P (withFiring s g) := by
  unfold withFiring; split
  · exact h
  · exact hg _ _ (hi _ h)

/-- A property that each lane keeps holds after the whole firing. -/
theorem foldl_keeps {α β : Type} {P : β → Prop} {g : β → α → β} (hg : ∀ s x, P s → P (g s x)) {s : β} (xs : List α) (h : P s) :
    P (xs.foldl g s) := by
  induction xs generalizing s with
  | nil => exact h
  | cons x xs ih => exact ih (hg _ _ h)

/-- A property that each lane's operation and each release keeps holds after an instruction that acts lane by lane (R458). -/
theorem perLane_keeps {P : State → Prop} {fr : Firing} {g : Nat → State → State} (hg : ∀ i s, P s → P (g i s))
    (hr : ∀ s hs, P s → P (s.releaseAll (tileDie fr.tile) hs)) {s : State} (h : P s) : P (perLane fr g s) := by
  unfold perLane
  refine foldl_keeps (fun s i hs => ?_) _ h
  split
  · exact hg i s hs
  · exact hr s _ hs

end Sys2Proof.Machine
end

