-- ==== Sys2Proof/Tests/Slice0.lean ====
section
/-! SUPPORT. Tests: a word for every instruction laid out by hand from the encoding tables, ill-formed terms that are refused, the
worked examples of the manual, and for every statement with hypotheses a state and operands that meet them (`witness_<statement>_<which>`). -/

namespace Sys2Proof.Tests

set_option Elab.async false

open Sys2Proof Sys2Proof.Machine Sys2Proof.Spec

/-! ## Fixtures -/

/-- Fields with SUB, TY, X and an arity, both results to instruction 5. -/
def fld (sub : Nat) (ty : Ty) (x : Nat) (ar : Nat := 2) : Fields :=
  { sub := BitVec.ofNat 4 sub, ty := ty, ar := BitVec.ofNat 2 ar, kc := false, sl := 0, ck := 0, d0 := some { ix := 5, port := 0 },
    d1 := some { ix := 6, port := 1 }, x := BitVec.ofNat 12 x }
/-- A firing of tile 0 with one value on each lane of each port. -/
def firing (ops : List (List LVal)) : Firing := { placedFiring with ops := ops, rl := (ops.headD [.dn]).length }
/-- Tile 0 with a LIVE frame of a resident block, and a firing of it issued. -/
def at0 (fr : Firing) : State := { State.reset.withFetchWord 64 0 with issuing := some fr }
/-- A region of one quad of die 0. -/
def region0 : Region := {
  vreg := 0, die := 0, qx := 0, qy := 0, wm1 := 0, hm1 := 0, ctx := 0, nls := 1, isc := 4, active := true,
  cfgs := [{ iters := 4, next := 1, plcs := [] }, { iters := 2, next := 0x1FF, plcs := [] }] }
/-- A launch whose unit 0 runs in tile 0. -/
def launch0 : Launch := {
  queue := 0, entry := 0, jid := 1, card := [0, 0, 16, 0, 0, 0, 0, 0], cardVA := 0x4000, stage := .running,
  units := [(0, 1, 0)], unitNo := 1, dealt := 1 }
/-- The switch die with die 0 and memory die 8 READY, a job with a queue and a fault queue, a graph with a region, and a launch. -/
def sw0 : Switch := { ({} : Switch) with
  map := [(0, 1), (1, 0x00075300), (2, 1), (10, 1), (14, 1), (16, 0x0000000300000003), (96, 0x10101), (176, 0x10101), (288, 0x20041), (296, 0x4003FFFFFFFD),
    (297, 0x4003FFFFFFFD), (298, 0x4003FFFFFFFD), (299, 0x4003FFFFFFFD)]
  jobs := [(1, { valid := true, fq := 9 })]
  queues := [(0, { state := 1, kind := 0, jid := 1, base := 0x100 }), (9, { state := 1, kind := 1, jid := 1, base := 0x200 })]
  graphs := [(1, { jid := 1, img := 0, dir := [0], regions := [region0] })]
  launch := [launch0]
  boot := [(12, { state := 2 })] }
/-- A page of job 1 leased at memory die 8, readable, writable, executable, with atomics, at physical address 0. -/
def lease0 : LEnt := { size := 0, jid := 1, perm := 15, vpage := 0, w2 := 0, w3 := 0, lcnt := 1 }
/-- The module with a job that runs in tile 0, and a firing of its frame issued. -/
def world (fr : Firing) : State :=
  { at0 fr with sw := sw0, md := [(8, { lt := [(0, lease0)] })] }
/-- The same with nothing issued. -/
def idle : State := { world placedFiring with issuing := none }
/-- A change of tile 0. -/
def tile0 (s : State) (g : CTile → CTile) : State := s.onTile 0 g
/-- A handle of descriptor 0 of memory tile 32, held by tile 0. -/
def h0 : Word := mkHandle 32 0 0 0 0 0 false false false false
/-- A buffer of 4 rows of 4 elements of format FMT. -/
def shape (fmt : Nat) : Word := BitVec.ofNat 64 (3 + 3 * 2 ^ 13 + fmt * 2 ^ 26 + 16 * 2 ^ 32)
/-- Descriptor 0 of memory tile 32 with that shape, and with one more descriptor in granule 1. -/
def buffers (s : State) (x y : Desc) : State :=
  s.setMtile 32 { descs := [(0, x), (1, y)], dfifo := { fresh := 2 }, owned := [0, 1] }
/-- A buffer of context 0 held by tile 0. -/
def buf (fmt : Nat) (g : Nat := 0) : Desc := { shape := shape fmt, refs := 1, gran0 := g, state := 1 }
/-- A handle of descriptor 1. -/
def h1 : Word := mkHandle 32 1 0 0 1 0 false false false false
/-- An answer is the one that evaluation finds. -/
theorem ok_of {ε α : Type} [DecidableEq α] {x : Except ε α} {b : α}
    (h : (match x with | .ok c => decide (c = b) | .error _ => false) = true) : x = .ok b := by
  cases x with
  | error e => simp at h
  | ok c => simpa using h
/-- With one memory tile listed and no error there, no memory tile has an error. -/
theorem ue_only (s : State) (c : MTile) (h : s.mt = [(32, c)]) (e : c.ue = []) (k : Nat) : (s.mtile k).ue = [] := by
  simp only [State.mtile, AList.getD, h, AList.get?]
  split
  · exact e
  · split <;> rfl
/-- `Performs`, evaluated. -/
def performs (s : State) (n : Nat) (r : Req) (d pa : Nat) (e : LEnt) : Bool :=
  decide (s.net[n]? = some r ∧ r.src ≠ .outside ∧ r.held = false ∧ earlierSame s n r = false ∧ relWaits s r = false ∧ relFlush s r = none
      ∧ vaG r.piece.va = false ∧ vaHome r.piece.va ≠ 0x20)
    && decide (r.loc = none) && decide (r.part = none) && (match ownerOf s r.piece.va with | .ok (some x) => x == d | _ => false)
    && s.spokeOpen d r.piece.va r.id && (match leaseCheck s d r.jid r.piece.va r.piece.acc.need with | .ok p => decide (p = (pa, e)) | _ => false)
    && !pageFlips s d pa && nbits e.perm 4 1 == 0 && decide (Open s d pa)
/-- What evaluation finds of `Performs` holds. -/
theorem performs_of {s : State} {n : Nat} {r : Req} {d pa : Nat} {e : LEnt} (h : performs s n r d pa e = true) : Performs s n r d pa e := by
  simp only [performs, Bool.and_eq_true, decide_eq_true_eq, Bool.not_eq_true', beq_iff_eq] at h
  obtain ⟨⟨⟨⟨⟨⟨⟨⟨h1, h2⟩, h3⟩, h4⟩, ho⟩, h5⟩, h6⟩, h7⟩, h8⟩ := h
  refine ⟨h1, h2, h3, ?_, ho, ?_, h6, h7, h8⟩
  · split at h4
    · rename_i x hx; rw [hx, (by simpa using h4 : x = d)]
    · cases h4
  · split at h5
    · rename_i p hp; rw [hp, (by simpa using h5 : p = (pa, e))]
    · cases h5
/-- `Comes`, evaluated. -/
def comes (s : State) (n : Nat) (r : Req) (d pa : Nat) (e : LEnt) : Bool :=
  decide (s.net[n]? = some r ∧ r.src = .outside ∧ r.held = false ∧ earlierSame s n r = false ∧ r.loc = none ∧ r.part = none
      ∧ vaHome (homeVa r.piece.va) ≠ 0x20)
    && (match ownerOf s (homeVa r.piece.va) with | .ok (some x) => x == d | _ => false) && s.spokeOpen d r.piece.va r.id
    && (match leaseCheck s d r.jid (homeVa r.piece.va) .aw with | .ok p => decide (p = (pa, e)) | _ => false)
    && decide (pageFlips s d pa = false ∧ nbits e.perm 4 1 = 0 ∧ Open s d pa)
/-- What evaluation finds of `Comes` holds. -/
theorem comes_of {s : State} {n : Nat} {r : Req} {d pa : Nat} {e : LEnt} (h : comes s n r d pa e = true) : Comes s n r d pa e := by
  simp only [comes, Bool.and_eq_true, decide_eq_true_eq] at h
  obtain ⟨⟨⟨⟨⟨h1, h2, h3, h4, h5, h6, h7⟩, ho⟩, h8⟩, hl⟩, h9⟩ := h
  refine ⟨h1, h2, h3, h4, h5, h6, h7, ?_, h8, ?_, h9⟩
  · split at ho
    · rename_i x hx; rw [hx, (by simpa using ho : x = d)]
    · cases ho
  · split at hl
    · rename_i p hp; rw [hp, (by simpa using hl : p = (pa, e))]
    · cases hl
/-- A fact about both of two ports. -/
theorem all2 {P : Nat → Prop} {n : Nat} (e : n = 2) (x : P 0) (y : P 1) : ∀ q, q < n → P q := by
  subst e
  intro q h
  match q, h with
  | 0, _ => exact x
  | 1, _ => exact y
/-- The same for an error. -/
theorem err_of {ε α : Type} [DecidableEq ε] {x : Except ε α} {b : ε}
    (h : (match x with | .error c => decide (c = b) | .ok _ => false) = true) : x = .error b := by
  cases x with
  | ok e => simp at h
  | error c => simpa using h
/-- A word's instruction is the one that evaluation finds. -/
theorem ex_ok {w : Word} {i : Instr} (h : (match decode w with | .ok c => c == i | .error _ => false) = true) : decode w = .ok i := by
  split at h
  · rename_i c hc; rw [hc, (by simpa using h : c = i)]
  · cases h
/-- A word's fault is the one that evaluation finds. -/
theorem ex_err {w : Word} {e : BadWord} (h : (match decode w with | .ok _ => false | .error c => decide (c = e)) = true) : decode w = .error e := by
  split at h
  · cases h
  · rename_i c hc; rw [hc, (by simpa using h : c = e)]
/-- A step's next state is the one that evaluation finds. -/
theorem next_of {o : Host.Outcome State Machine.Fault Refusal} {t : State}
    (h : (match o with | .next u => decide (u = t) | _ => false) = true) : o = .next t := by
  cases o with
  | next u => rw [(by simpa using h : u = t)]
  | fault f => cases h
  | refused r => cases h

/-! ## Words (R47): OP, SUB, TY, AR, KC, SL, CK, D0, D1, X -/

/-- A word decodes to an instruction with these fields; SL is 9 where AR is 2 or 3, and a destination is port 1 of instruction 5 for D0 and
port 2 of instruction 100 for D1. -/
def reads (w : Word) (mk : Fields → Instr) (sub : Nat) (ty : Ty) (ar : Nat) (kc : Bool) (ck : Nat) (d0 d1 : Bool) (x : Nat) : Bool :=
  match decode w with
  | .ok i => i == mk {
      sub := BitVec.ofNat 4 sub, ty := ty, ar := BitVec.ofNat 2 ar, kc := kc, sl := if 2 ≤ ar then 9 else 0, ck := BitVec.ofNat 6 ck
      d0 := if d0 then some ({ ix := 5, port := 1 } : Dest) else none, d1 := if d1 then some ({ ix := 100, port := 2 } : Dest) else none, x := BitVec.ofNat 12 x }
  | .error _ => false
theorem test_words_flow : [
  reads 0x0000400000000000 .drop 0 .b64 1 false 0 false false 0x000,
  reads 0x010D4000857922FE .dup 0 .h 1 false 0 true true 0x2FE,
  reads 0x0203824085792000 .switch 0 .i32 2 false 0 true true 0x000,
  reads 0x030BA26185400000 .select 0 .f32 2 true 33 true false 0x000,
  reads 0x0400824085400000 .gate 0 .b64 2 false 0 true false 0x000,
  reads 0x050D824085400000 .merge 0 .h 2 false 0 true false 0x000,
  reads 0x0600824000392000 .sendLink 0 .b64 2 false 0 false true 0x000,
  reads 0x0610400000392000 .sendRet 1 .b64 1 false 0 false true 0x000,
  reads 0x0700C26185400000 .enter 0 .b64 3 false 33 true false 0x000,
  reads 0x0800400000000000 .exit 0 .b64 1 false 0 false false 0x000,
  reads 0x0900824085400000 .iter 0 .b64 2 false 0 true false 0x000,
  reads 0x0A08826100392000 .loopn 0 .n64 2 false 33 false true 0x000,
  reads 0x0B00400000000000 .free 0 .b64 1 false 0 false false 0x000,
  reads 0x0C00202185792000 .const 0 .b64 0 true 33 true true 0x000,
  reads 0x0C10602185792000 .constSelf 1 .b64 1 true 33 true true 0x000,
  reads 0x0D0F00008579203F .arg 0 .va 0 false 0 true true 0x03F,
  reads 0x0E00402100392000 .kset 0 .b64 1 false 33 false true 0x000,
  reads 0x0F00400000000000 .done 0 .b64 1 false 0 false false 0x000,
  reads 0xC900400000000000 .cfgnext 0 .b64 1 false 0 false false 0x000,
  reads 0xE507602100000000 .cfgload 0 .n32 1 true 33 false false 0x000].all id = true := by decide +kernel

theorem test_words_integer : [
  reads 0x1003824085792000 .add 0 .i32 2 false 0 true true 0x000,
  reads 0x1105602185792000 .sub 0 .n8 1 true 33 true true 0x000,
  reads 0x1204824085400000 .mul 0 .i64 2 false 0 true false 0x000,
  reads 0x1308824000392000 .mulh 0 .n64 2 false 0 false true 0x000,
  reads 0x1402C24085792000 .mad 0 .i16 3 false 0 true true 0x000,
  reads 0x1503824085792001 .div 0 .i32 2 false 0 true true 0x001,
  reads 0x1607602185792000 .rem 0 .n32 1 true 33 true true 0x000,
  reads 0x1701824085792000 .min 0 .i8 2 false 0 true true 0x000,
  reads 0x1806824085792000 .max 0 .n16 2 false 0 true true 0x000,
  reads 0x1913400085792000 .abs 1 .i32 1 false 0 true true 0x000,
  reads 0x1A07400085792000 .neg 0 .n32 1 false 0 true true 0x000,
  reads 0x1B33C24085792000 .addx 3 .i32 3 false 0 true true 0x000,
  reads 0x1C0FC2408579200F .lea 0 .va 3 false 0 true true 0x00F,
  reads 0x1D00400085792000 .clz 0 .b64 1 false 0 true true 0x000,
  reads 0x1E07400085792000 .popc 0 .n32 1 false 0 true true 0x000,
  reads 0x1F01400085792000 .brev 0 .i8 1 false 0 true true 0x000,
  reads 0x200E824085792000 .and 0 .p 2 false 0 true true 0x000,
  reads 0x2100602185792000 .or 0 .b64 1 true 33 true true 0x000,
  reads 0x2203824085792000 .xor 0 .i32 2 false 0 true true 0x000,
  reads 0x230E400085792000 .not 0 .p 1 false 0 true true 0x000,
  reads 0x240040008579203F .shl 0 .b64 1 false 0 true true 0x03F,
  reads 0x2507824085792000 .shr 0 .n32 2 false 0 true true 0x000,
  reads 0x2603602185792000 .sha 0 .i32 1 true 33 true true 0x000,
  reads 0x2710400085792011 .rot 1 .b64 1 false 0 true true 0x011,
  reads 0x28134000857921C3 .bfx 1 .i32 1 false 0 true true 0x1C3,
  reads 0x29088240857921C3 .bfi 0 .n64 2 false 0 true true 0x1C3,
  reads 0x2A5E824085792000 .cmp 5 .p 2 false 0 true true 0x000,
  reads 0x2B7C602185792000 .fcmp 7 .f64 1 true 33 true true 0x000,
  reads 0x2C0EC24085792096 .plog 0 .p 3 false 0 true true 0x096].all id = true := by decide +kernel

theorem test_words_float : [
  reads 0x303A824085792000 .fadd 3 .bf16 2 false 0 true true 0x000,
  reads 0x310B602185792000 .fsub 0 .f32 1 true 33 true true 0x000,
  reads 0x3219824085792000 .fmul 1 .f16 2 false 0 true true 0x000,
  reads 0x332CC24085792000 .ffma 2 .f64 3 false 0 true true 0x000,
  reads 0x341B824085792000 .fmin 1 .f32 2 false 0 true true 0x000,
  reads 0x350B602185792000 .fmax 0 .f32 1 true 33 true true 0x000,
  reads 0x3609400085792000 .fabs 0 .f16 1 false 0 true true 0x000,
  reads 0x370C400085792000 .fneg 0 .f64 1 false 0 true true 0x000,
  reads 0x380B400085792000 .rcpa 0 .f32 1 false 0 true true 0x000,
  reads 0x390B400085792000 .rsqa 0 .f32 1 false 0 true true 0x000,
  reads 0x3A0C824085792000 .rcpr 0 .f64 2 false 0 true true 0x000,
  reads 0x3B0B602185792000 .rsqr 0 .f32 1 true 33 true true 0x000,
  reads 0x3C0B400085792000 .expa 0 .f32 1 false 0 true true 0x000,
  reads 0x3D0B400085792000 .loga 0 .f32 1 false 0 true true 0x000,
  reads 0x3E0A400085792000 .fsqrt 0 .bf16 1 false 0 true true 0x000,
  reads 0x3F0B824085792000 .fdiv 0 .f32 2 false 0 true true 0x000,
  reads 0x4013400085792021 .cvtii 1 .i32 1 false 0 true true 0x021,
  reads 0x4138400085792002 .cvtif 3 .n64 1 false 0 true true 0x002,
  reads 0x422C400085792028 .cvtfi 2 .f64 1 false 0 true true 0x028,
  reads 0x434B402185792008 .cvtff 4 .f32 1 false 33 true true 0x008,
  reads 0x4403824085792023 .packn 0 .i32 2 false 0 true true 0x023,
  reads 0x451B400085792006 .unpkn 1 .f32 1 false 0 true true 0x006,
  reads 0x468B400085792000 .runred 8 .f32 1 false 0 true true 0x000,
  reads 0x4750400085792001 .runscan 5 .b64 1 false 0 true true 0x001,
  reads 0x482060218579203F .runshf 2 .b64 1 true 33 true true 0x03F,
  reads 0x490E40008579201F .runbc 0 .p 1 false 0 true true 0x01F,
  reads 0x4A28000085792000 .lane 2 .n64 0 false 0 true true 0x000].all id = true := by decide +kernel

theorem test_words_buffers : [
  reads 0x500D602185400001 .talloc 0 .h 1 true 33 true false 0x001,
  reads 0x510D400000392000 .trel 0 .h 1 false 0 false true 0x000,
  reads 0x520D400085792000 .tref 0 .h 1 false 0 true true 0x000,
  reads 0x530D824000392000 .tgive 0 .h 2 false 0 false true 0x000,
  reads 0x541D602185792000 .tview 1 .h 1 true 33 true true 0x000,
  reads 0x550D400085792000 .tdescRd 0 .h 1 false 0 true true 0x000,
  reads 0x551D824085400000 .tdescLink 1 .h 2 false 0 true false 0x000,
  reads 0x5600400085792001 .tlook 0 .b64 1 false 0 true true 0x001,
  reads 0x5700C24085792000 .ttag 0 .b64 3 false 0 true true 0x000,
  reads 0x5800400085792001 .tuntag 0 .b64 1 false 0 true true 0x001,
  reads 0x5900824085792000 .tget 0 .b64 2 false 0 true true 0x000,
  reads 0x5A00A26185400000 .tset 0 .b64 2 true 33 true false 0x000,
  reads 0x5B00824085400000 .tfill 0 .b64 2 false 0 true false 0x000].all id = true := by decide +kernel

theorem test_words_rows : [
  reads 0x600DC2408579200B .tadd 0 .h 3 false 0 true true 0x00B,
  reads 0x610DC24085792001 .tsub 0 .h 3 false 0 true true 0x001,
  reads 0x620DC24085792008 .tmul 0 .h 3 false 0 true true 0x008,
  reads 0x630DC24085792003 .tfma 0 .h 3 false 0 true true 0x003,
  reads 0x642DA26185792009 .tscal 2 .h 2 true 33 true true 0x009,
  reads 0x653DC24085792000 .tminmax 3 .h 3 false 0 true true 0x000,
  reads 0x669D824085792002 .tact 9 .h 2 false 0 true true 0x002,
  reads 0x673D82408579203B .tred 3 .h 2 false 0 true true 0x03B,
  reads 0x680D826185792014 .tcvt 0 .h 2 false 33 true true 0x014,
  reads 0x690DC26185792382 .tchain 0 .h 3 false 33 true true 0x382,
  reads 0x6A00402185792040 .benset 0 .b64 1 false 33 true true 0x040,
  reads 0x6B0D824085792040 .tperm 0 .h 2 false 0 true true 0x040,
  reads 0x6C7DC24085792000 .tcmp 7 .h 3 false 0 true true 0x000,
  reads 0x6D0DC2408579200B .tmsel 0 .h 3 false 0 true true 0x00B].all id = true := by decide +kernel

theorem test_words_handlers : [
  reads 0x704D8240857920F5 .sopset 4 .h 2 false 0 true true 0x0F5,
  reads 0x710860210039201F .sopgo 0 .n64 1 true 33 false true 0x01F,
  reads 0x720040000039201F .sopmaskOff 0 .b64 1 false 0 false true 0x01F,
  reads 0x7210400000392010 .sopmaskOn 1 .b64 1 false 0 false true 0x010,
  reads 0x730040000039207F .soppri 0 .b64 1 false 0 false true 0x07F].all id = true := by decide +kernel

theorem test_words_matrix : [
  reads 0x800DC24085792000 .mma 0 .h 3 false 0 true true 0x000,
  reads 0x810DA26185792000 .mmas 0 .h 2 true 33 true true 0x000,
  reads 0x820DC24085792000 .mmac 0 .h 3 false 0 true true 0x000,
  reads 0x832DC24085792000 .mmsr 2 .h 3 false 0 true true 0x000,
  reads 0x840D824085792010 .accld 0 .h 2 false 0 true true 0x010,
  reads 0x851D602185792013 .accst 1 .h 1 true 33 true true 0x013,
  reads 0x8600824000392000 .cbset 0 .b64 2 false 0 false true 0x000,
  reads 0x8700400000392000 .cbswap 0 .b64 1 false 0 false true 0x000,
  reads 0x8808400085400000 .mmprg 0 .n64 1 false 0 true false 0x000,
  reads 0x8900400000392000 .mmcfg 0 .b64 1 false 0 false true 0x000].all id = true := by decide +kernel

theorem test_words_nodes : [
  reads 0x900B400085792414 .ld 0 .f32 1 false 0 true true 0x414,
  reads 0x910082400039200C .st 0 .b64 2 false 0 false true 0x00C,
  reads 0x920DC24085792001 .ldt 0 .h 3 false 0 true true 0x001,
  reads 0x930DA26185792000 .stt 0 .h 2 true 33 true true 0x000,
  reads 0x940DC2408579200D .ldg 0 .h 3 false 0 true true 0x00D,
  reads 0x950DC24085792000 .stg 0 .h 3 false 0 true true 0x000,
  reads 0x960FC24000392002 .regionOpen 0 .va 3 false 0 false true 0x002,
  reads 0x961F400000392002 .regionClose 1 .va 1 false 0 false true 0x002,
  reads 0x9700C24085400000 .ord 0 .b64 3 false 0 true false 0x000,
  reads 0xA00DC2408579200F .cpyIn 0 .h 3 false 0 true true 0x00F,
  reads 0xA01DA26185792007 .cpyOut 1 .h 2 true 33 true true 0x007,
  reads 0xA11DC26185792003 .cpym 1 .h 3 false 33 true true 0x003,
  reads 0xA208400085400003 .cpywp 0 .n64 1 false 0 true false 0x003,
  reads 0xA308400085400002 .cpywait 0 .n64 1 false 0 true false 0x002,
  reads 0xA400400085792001 .cpycan 0 .b64 1 false 0 true true 0x001,
  reads 0xD040C24085792000 .fence 4 .b64 3 false 0 true true 0x000,
  reads 0xD100400085792FFF .waitc 0 .b64 1 false 0 true true 0xFFF,
  reads 0xD21F602185792000 .biasreq 1 .va 1 true 33 true true 0x000].all id = true := by decide +kernel

theorem test_words_homes : [
  reads 0xB008824085792000 .aadd 0 .n64 2 false 0 true true 0x000,
  reads 0xB12B824085792000 .afadd 2 .f32 2 false 0 true true 0x000,
  reads 0xB213602185792000 .amin 1 .i32 1 true 33 true true 0x000,
  reads 0xB337824085792000 .amax 3 .n32 2 false 0 true true 0x000,
  reads 0xB480824085792000 .alog 8 .b64 2 false 0 true true 0x000,
  reads 0xB50C824085792000 .axch 0 .f64 2 false 0 true true 0x000,
  reads 0xB610C2408579200C .acas 1 .b64 3 false 0 true true 0x00C,
  reads 0xB757824085792000 .ainc 5 .n32 2 false 0 true true 0x000,
  reads 0xB800C26185792000 .acask 0 .b64 3 false 33 true true 0x000,
  reads 0xB918C26185792000 .aaddk 1 .n64 3 false 33 true true 0x000,
  reads 0xBA00400085792000 .itake 0 .b64 1 false 0 true true 0x000,
  reads 0xBB10824085792000 .iput 1 .b64 2 false 0 true true 0x000,
  reads 0xBC20400085792000 .iread 2 .b64 1 false 0 true true 0x000,
  reads 0xBD00400000392000 .iclr 0 .b64 1 false 0 false true 0x000,
  reads 0xBE8A824000392000 .ared 8 .bf16 2 false 0 false true 0x000].all id = true := by decide +kernel

theorem test_words_system : [
  reads 0xC00F824085792000 .qpush 0 .va 2 false 0 true true 0x000,
  reads 0xC10F602185792000 .qpop 0 .va 1 true 33 true true 0x000,
  reads 0xC208400085400000 .qcnt 0 .n64 1 false 0 true false 0x000,
  reads 0xC30FC24085792000 .launch 0 .va 3 false 0 true true 0x000,
  reads 0xC40F824000392000 .binit 0 .va 2 false 0 false true 0x000,
  reads 0xC53F400085792000 .arrive 3 .va 1 false 0 true true 0x000,
  reads 0xC60F824085792000 .bwait 0 .va 2 false 0 true true 0x000,
  reads 0xC748400085400000 .cntrd 4 .n64 1 false 0 true false 0x000,
  reads 0xC848400085792000 .cancel 4 .n64 1 false 0 true true 0x000,
  reads 0xCA08400085792000 .qctlFreeze 0 .n64 1 false 0 true true 0x000,
  reads 0xCA18400085792000 .qctlThaw 1 .n64 1 false 0 true true 0x000,
  reads 0xCA28400085792000 .qctlDrain 2 .n64 1 false 0 true true 0x000,
  reads 0xCA38400085792000 .qctlClose 3 .n64 1 false 0 true true 0x000,
  reads 0xD308202185400003 .perfrdTile 0 .n64 0 true 33 true false 0x003,
  reads 0xD31F400085400007 .perfrdPc 1 .va 1 false 0 true false 0x007,
  reads 0xD40F20218579203F .xredCfg 0 .va 0 true 33 true true 0x03F,
  reads 0xD41D40008579203F .xredAdd 1 .h 1 false 0 true true 0x03F,
  reads 0xE000202100000FFF .trapEnd 0 .b64 0 true 33 false false 0xFFF,
  reads 0xE010400000392FFF .trapLog 1 .b64 1 false 0 false true 0xFFF,
  reads 0xE108400085400000 .sysrd 0 .n64 1 false 0 true false 0x000,
  reads 0xE208824000392000 .syswr 0 .n64 2 false 0 false true 0x000,
  reads 0xE308C24085792000 .freeze 0 .n64 3 false 0 true true 0x000,
  reads 0xE40F824085792000 .thaw 0 .va 2 false 0 true true 0x000,
  reads 0xE608202185792000 .maprdWord 0 .n64 0 true 33 true true 0x000,
  reads 0xE618400085792000 .maprdWait 1 .n64 1 false 0 true true 0x000,
  reads 0xE708400085792000 .mapack 0 .n64 1 false 0 true true 0x000,
  reads 0xE808400085792000 .scango 0 .n64 1 false 0 true true 0x000,
  reads 0xE908400085792000 .scanabt 0 .n64 1 false 0 true true 0x000,
  reads 0xEA0F824085792000 .leaseAcq 0 .va 2 false 0 true true 0x000,
  reads 0xEA1F602185792000 .leaseRel 1 .va 1 true 33 true true 0x000,
  reads 0xEB0F824085792000 .relocBind 0 .va 2 false 0 true true 0x000,
  reads 0xEB18400085792000 .relocUnbind 1 .n64 1 false 0 true true 0x000,
  reads 0xEC0F824000392000 .tlbinvRange 0 .va 2 false 0 false true 0x000,
  reads 0xEC18400000392000 .tlbinvJob 1 .n64 1 false 0 false true 0x000].all id = true := by decide +kernel

/-! ## Hypotheses that can be met -/

/-! ## LaneUnit -/

namespace LaneUnit

def fi : Fields := fld 0 .i32 0
def frA : Firing := firing [[.runv 7, .runv 0xFFFFFFFFFFFFFFFF], [.runv 2, .runv 3], [.runv 1, .runv 1]]
def frZ : Firing := firing [[.scal 7], [.scal 0]]
def frP : Firing := firing [[.pois { w0 := 8, w1 := 0 }, .pois { w0 := 8, w1 := 0 }]]
theorem witness_IntegerArithmetic_int : (at0 frA).issuing = some frA := by decide +kernel
theorem witness_Divides_div1 :
    (at0 frA).issuing = some frA ∧
    (∀ (i : Nat), i < frA.rl → poisonAt frA.ops i = none → arg fi.ty (word (at0 frA) frA fi 1 i) ≠ 0) :=
  by decide +kernel
theorem witness_Divides_div2 :
    (at0 frZ).issuing = some frZ ∧ fi.x.getLsbD 0 = false ∧ 0 < frZ.rl ∧ poisonAt frZ.ops 0 = none ∧
    arg fi.ty (word (at0 frZ) frZ fi 1 0) = 0 ∧
    (∀ (i : Nat), i < 0 → poisonAt frZ.ops i = none → arg fi.ty (word (at0 frZ) frZ fi 1 i) ≠ 0) ∧
    (Instr.div fi = Instr.div fi ∨ Instr.div fi = Instr.rem fi) :=
  by decide +kernel
theorem witness_Divides_div3 : (at0 frZ).issuing = some frZ ∧ ({ fi with x := 1 }).x.getLsbD 0 = true := by decide +kernel
theorem witness_MinMaxAbsNeg_mm1 : (at0 frA).issuing = some frA ∧ isSigned fi.ty = true := by decide +kernel
theorem witness_MinMaxAbsNeg_mm2 :
    (at0 frA).issuing = some frA ∧ (isSigned { fi with ty := Ty.n32 }.ty = true ∨ { fi with ty := Ty.n32 }.sub = 0) :=
  by decide +kernel
theorem witness_AddWithFlag_addx0 : (at0 frA).issuing = some frA ∧ fi.sub = 0 := by decide +kernel
theorem witness_AddWithFlag_addx1 : (at0 frA).issuing = some frA ∧ ({ fi with sub := 1 }).sub = 1 := by decide +kernel
theorem witness_AddWithFlag_addx2 : (at0 frA).issuing = some frA ∧ ({ fi with sub := 2 }).sub = 2 := by decide +kernel
theorem witness_AddWithFlag_addx3 : (at0 frA).issuing = some frA ∧ ({ fi with sub := 3 }).sub = 3 := by decide +kernel
theorem witness_BitOperations_bfx0 :
    (at0 frA).issuing = some frA ∧
    xbits ({ fi with x := 31 }).x 0 6 + (xbits ({ fi with x := 31 }).x 6 6 + 1) ≤ ({ fi with x := 31 }).ty.width ∧
    ({ fi with x := 31 }).sub = 0 :=
  by decide +kernel
theorem witness_BitOperations_bfx1 :
    (at0 frA).issuing = some frA ∧
    xbits ({ fi with sub := 1, x := 31 }).x 0 6 + (xbits ({ fi with sub := 1, x := 31 }).x 6 6 + 1) ≤ ({ fi with sub := 1, x := 31 }).ty.width ∧
    ({ fi with sub := 1, x := 31 }).sub = 1 :=
  by decide +kernel
theorem witness_BitOperations_bfi :
    (at0 frA).issuing = some frA ∧
    xbits ({ fi with sub := 0, x := 1984 }).x 0 6 + (xbits ({ fi with sub := 0, x := 1984 }).x 6 6 + 1) ≤ ({ fi with sub := 0, x := 1984 }).ty.width :=
  by decide +kernel
theorem witness_Shifts_rotl : (at0 frA).issuing = some frA ∧ fi.sub = 0 := by decide +kernel
theorem witness_Shifts_rotr : (at0 frA).issuing = some frA ∧ ({ fi with sub := 1 }).sub = 1 := by decide +kernel
theorem witness_Compares_cmp : (at0 frA).issuing = some frA ∧ ({ fi with sub := 5 }).sub.toNat < 6 := by decide +kernel
theorem witness_Compares_fcmp : (at0 frA).issuing = some frA ∧ ({ fi with sub := 7, ty := Ty.f32 }).sub.toNat < 8 := by decide +kernel
theorem witness_Conversions_cvtii0 : (at0 frA).issuing = some frA ∧ ({ fi with x := 33 }).sub = 0 := by decide +kernel
theorem witness_Conversions_cvtii1 : (at0 frA).issuing = some frA ∧ ({ fi with sub := 1, x := 33 }).sub = 1 := by decide +kernel
theorem witness_Conversions_cvtff3 :
    (at0 frA).issuing = some frA ∧ ({ fi with sub := 3, ty := Ty.f32, x := 2 }).sub.toNat < 4 :=
  by decide +kernel
theorem witness_Conversions_cvtff4 :
    (at0 frA).issuing = some frA ∧ ({ fi with sub := 4, ty := Ty.f32, x := 2 }).sub = 4 :=
  by decide +kernel
theorem witness_Conversions_packn0 :
    (at0 frA).issuing = some frA ∧ ({ fi with sub := 3, ty := Ty.f32, x := 8 }).sub.toNat < 4 ∧
    Ty.flt.contains ({ fi with sub := 3, ty := Ty.f32, x := 8 }).ty = true ∧
    ({ fi with sub := 3, ty := Ty.f32, x := 8 }).x.toNat < 32 :=
  by decide +kernel
theorem witness_Conversions_packn1 :
    (at0 frA).issuing = some frA ∧ ({ fi with sub := 3, ty := Ty.f32, x := 33 }).sub.toNat < 4 ∧
    Ty.flt.contains ({ fi with sub := 3, ty := Ty.f32, x := 33 }).ty = true ∧
    32 ≤ ({ fi with sub := 3, ty := Ty.f32, x := 33 }).x.toNat :=
  by decide +kernel
theorem witness_Conversions_packn2 :
    (at0 frA).issuing = some frA ∧ ({ fi with sub := 0, ty := Ty.i32, x := 33 }).sub = 0 ∧
    Ty.flt.contains ({ fi with sub := 0, ty := Ty.i32, x := 33 }).ty = false ∧
    32 ≤ ({ fi with sub := 0, ty := Ty.i32, x := 33 }).x.toNat :=
  by decide +kernel
theorem witness_Conversions_unpkn0 :
    (at0 frA).issuing = some frA ∧ ({ fi with sub := 1, ty := Ty.i32, x := 33 }).sub.toNat < 2 ∧
    32 ≤ ({ fi with sub := 1, ty := Ty.i32, x := 33 }).x.toNat :=
  by decide +kernel
theorem witness_Conversions_unpkn1 :
    (at0 frA).issuing = some frA ∧ ({ fi with sub := 1, ty := Ty.f32, x := 8 }).sub.toNat < 2 ∧
    ({ fi with sub := 1, ty := Ty.f32, x := 8 }).x.toNat < 32 :=
  by decide +kernel
theorem witness_Runs_runs0 : (at0 frA).issuing = some frA ∧ poisonAt frA.ops 0 = none ∧ xbits fi.x 0 1 = 0 := by decide +kernel
theorem witness_Runs_runs1 :
    (at0 frA).issuing = some frA ∧ poisonAt frA.ops 0 = none ∧ xbits ({ fi with x := 1 }).x 0 1 = 1 :=
  by decide +kernel
theorem witness_Runs_runs2 : (at0 frA).issuing = some frA ∧ poisonAt frA.ops 0 = none ∧ ({ fi with x := 1 }).sub = 0 := by decide +kernel
theorem witness_Runs_runs3 :
    (at0 frA).issuing = some frA ∧ poisonAt frA.ops 0 = none ∧ ({ fi with sub := 1, x := 1 }).sub = 1 :=
  by decide +kernel
theorem witness_Runs_runs4 :
    (at0 frA).issuing = some frA ∧ poisonAt frA.ops 0 = none ∧ ({ fi with sub := 2, x := 1 }).sub = 2 :=
  by decide +kernel
theorem witness_Runs_runp0 :
    (at0 frP).issuing = some frP ∧ poisonAt frP.ops 0 = some { w0 := 8, w1 := 0 } ∧ ({ fi with x := 1 }).sub = 0 :=
  by decide +kernel
theorem witness_Runs_runp1 :
    (at0 frP).issuing = some frP ∧ poisonAt frP.ops 0 = some { w0 := 8, w1 := 0 } ∧ ({ fi with sub := 1, x := 1 }).sub = 1 :=
  by decide +kernel
theorem witness_Runs_runp2 :
    (at0 frP).issuing = some frP ∧ poisonAt frP.ops 0 = some { w0 := 8, w1 := 0 } ∧ ({ fi with sub := 2, x := 1 }).sub = 2 :=
  by decide +kernel
theorem witness_LaneNumbers_lane0 :
    (at0 frA).issuing = some frA ∧ (at0 frA).frameOf frA = some placedFrame ∧ fi.sub = 0 :=
  by decide +kernel
theorem witness_LaneNumbers_lane1 :
    (at0 frA).issuing = some frA ∧ (at0 frA).frameOf frA = some placedFrame ∧ ({ fi with sub := 1 }).sub = 1 :=
  by decide +kernel
theorem witness_LaneNumbers_lane2 :
    (at0 frA).issuing = some frA ∧ (at0 frA).frameOf frA = some placedFrame ∧ ({ fi with sub := 2 }).sub = 2 :=
  by decide +kernel
theorem witness_Runs_clean :
    (at0 frA).issuing = some frA ∧ poisonAt frA.ops 0 = none :=
  by decide +kernel
theorem witness_Runs_poison :
    (at0 frP).issuing = some frP ∧ poisonAt frP.ops 0 = some { w0 := 8, w1 := 0 } :=
  by decide +kernel
theorem witness_Conversions_cvtff4_2 :
    (at0 frA).issuing = some frA ∧ { fi with sub := 4, ty := Ty.f32, x := 2 }.sub = 4 ∧
    Ty.flt.contains { fi with sub := 4, ty := Ty.f32, x := 2 }.ty = true :=
  by decide +kernel
theorem witness_Approximations_rc :
    (at0 frA).issuing = some frA ∧ 2048 * 3 ≤ 2 ^ 13 ∧ 2 ^ 13 < 4096 * 3 :=
  by decide +kernel
theorem witness_Approximations_rn :
    (at0 frA).issuing = some frA ∧ 0 < 3 :=
  by decide +kernel
theorem witness_Approximations_rs :
    (at0 frA).issuing = some frA ∧ 2048 ^ 2 * 3 ≤ 4 ^ 12 ∧ 4 ^ 12 < 4096 ^ 2 * 3 ∧ (2 * 2365 - 1) ^ 2 * 3 ≤ 4 ^ (12 + 1) ∧
    4 ^ (12 + 1) < (2 * 2365 + 1) ^ 2 * 3 :=
  by decide +kernel
theorem witness_Approximations_ro :
    (at0 frA).issuing = some frA ∧ 2048 ^ 2 * (2 * 3) ≤ 4 ^ 13 ∧ 4 ^ 13 < 4096 ^ 2 * (2 * 3) ∧
    (2 * 3344 - 1) ^ 2 * (2 * 3) ≤ 4 ^ (13 + 1) ∧ 4 ^ (13 + 1) < (2 * 3344 + 1) ^ 2 * (2 * 3) :=
  by decide +kernel
theorem witness_Approximations_x1 :
    (at0 frA).issuing = some frA ∧ 2143289344 < 2 ^ 32 ∧ Fmt.f32.decode 2143289344 = Ex.nan :=
  by decide +kernel
theorem witness_Approximations_x2 :
    (at0 frA).issuing = some frA ∧ 2139095040 < 2 ^ 32 ∧ Fmt.f32.decode 2139095040 = Ex.inf false :=
  by decide +kernel
theorem witness_Approximations_x3 :
    (at0 frA).issuing = some frA ∧ 4286578688 < 2 ^ 32 ∧ Fmt.f32.decode 4286578688 = Ex.inf true :=
  by decide +kernel
theorem witness_Approximations_x4 :
    (at0 frA).issuing = some frA ∧ 2147483648 < 2 ^ 32 ∧ Fmt.f32.decode 2147483648 = Ex.fin true 0 (-149) :=
  by decide +kernel
theorem witness_Approximations_x5 :
    (at0 frA).issuing = some frA ∧ 3212836864 < 2 ^ 32 ∧ 0 < 8388608 ∧ Fmt.f32.decode 3212836864 = Ex.fin true 8388608 (-23) :=
  by decide +kernel
theorem witness_Approximations_x6 :
    (at0 frA).issuing = some frA ∧ 3225419776 < 2 ^ 32 ∧ Fmt.f32.decode 3225419776 = Ex.fin true 12582912 (-22) ∧
    12582912 * 2 ^ (-22).toNat = 3 * 2 ^ (- -22).toNat :=
  by decide +kernel
theorem witness_Approximations_x7 :
    (at0 frA).issuing = some frA ∧ 1124073472 < 2 ^ 32 ∧ Fmt.f32.decode 1124073472 = Ex.fin false 8388608 (-16) ∧
    128 * 2 ^ (- -16).toNat ≤ 8388608 * 2 ^ (-16).toNat :=
  by decide +kernel
theorem witness_Approximations_x8 :
    (at0 frA).issuing = some frA ∧ 3271557120 < 2 ^ 32 ∧ Fmt.f32.decode 3271557120 = Ex.fin true 8388608 (-16) ∧
    128 * 2 ^ (- -16).toNat ≤ 8388608 * 2 ^ (-16).toNat :=
  by decide +kernel
theorem witness_Approximations_x9 :
    (at0 frA).issuing = some frA ∧ 1090519040 < 2 ^ 32 ∧ Fmt.f32.decode 1090519040 = Ex.fin false (2 ^ 23) (-20) :=
  by decide +kernel

end LaneUnit

/-! ## Control -/

namespace Control

def frSw : Firing := firing [[.hand h0], [.scal 1]]
def frSel : Firing := firing [[.scal 1], [.hand h0], [.scal 3]]
def fr1h : Firing := firing [[.hand h0]]
def fr1 : Firing := firing [[.scal 9, .scal 8]]
def fr2 : Firing := firing [[.scal 9], [.scal 8]]
def sB (fr : Firing) : State := buffers (world fr) (buf 0) (buf 0 1)
def noD : Fields := { fld 0 .i32 0 with d0 := none, d1 := none }
/-- A link to instruction 5 of frame 0 of tile 0. -/
def link0 : Word := 0x1400000000
def frSend : Firing := firing [[.scal 9, .scal 8], [.scal link0, .scal link0]]
theorem witness_Steering_drop : (sB frSw).issuing = some frSw := by decide +kernel
theorem witness_Steering_switch : (sB frSw).issuing = some frSw ∧ Shaped frSw 2 := by decide +kernel
theorem witness_Steering_select :
    (sB frSel).issuing = some frSel ∧ Shaped frSel (fld 0 Ty.i32 0 3).ar.toNat ∧
    ((fld 0 Ty.i32 0 3).ar.toNat + if (fld 0 Ty.i32 0 3).kc = true then 1 else 0) = 3 :=
  by decide +kernel
theorem witness_Steering_gate : (sB frSw).issuing = some frSw ∧ Shaped frSw 2 := by decide +kernel
theorem witness_Steering_merge1 : (sB fr1h).issuing = some fr1h ∧ Shaped fr1h 1 := by decide +kernel
theorem witness_Steering_merge2 : (sB frSw).issuing = some frSw ∧ Shaped frSw 2 := by decide +kernel
theorem witness_Duplicates_dup0 :
    (sB fr1h).issuing = some fr1h ∧
    noD.d0.toList ++ noD.d1.toList ++ (if noD.x.getLsbD 9 = true then some ({ ix := BitVec.setWidth 7 (noD.x >>> 2), port := BitVec.setWidth 2 noD.x } : Dest) else none).toList = [] :=
  by decide +kernel
theorem witness_Duplicates_dup1 :
    (sB fr1).issuing = some fr1 ∧
    (fld 0 Ty.i32 766).d0.toList ++ (fld 0 Ty.i32 766).d1.toList ++ (if (fld 0 Ty.i32 766).x.getLsbD 9 = true then some ({ ix := BitVec.setWidth 7 ((fld 0 Ty.i32 766).x >>> 2), port := BitVec.setWidth 2 (fld 0 Ty.i32 766).x } : Dest) else none).toList ≠ [] ∧
    (fr1.handles = [] ∨ ((fld 0 Ty.i32 766).d0.toList ++ (fld 0 Ty.i32 766).d1.toList ++ (if (fld 0 Ty.i32 766).x.getLsbD 9 = true then some ({ ix := BitVec.setWidth 7 ((fld 0 Ty.i32 766).x >>> 2), port := BitVec.setWidth 2 (fld 0 Ty.i32 766).x } : Dest) else none).toList).length = 1) :=
  by decide +kernel
theorem witness_Duplicates_dup2 :
    (sB fr1h).issuing = some fr1h ∧ fr1h.handles ≠ [] ∧
    1 < ((fld 0 Ty.i32 512).d0.toList ++ (fld 0 Ty.i32 512).d1.toList ++ (if (fld 0 Ty.i32 512).x.getLsbD 9 = true then some ({ ix := BitVec.setWidth 7 ((fld 0 Ty.i32 512).x >>> 2), port := BitVec.setWidth 2 (fld 0 Ty.i32 512).x } : Dest) else none).toList).length :=
  by decide +kernel
theorem witness_Sends_send1 :
    (world frSend).issuing = some frSend ∧ (world frSend).frameOf frSend = some placedFrame ∧ Clean frSend ∧
    (∀ (p : Word × LVal), p ∈ List.map (fun i => ((opAt frSend.ops 1 i).word, opAt frSend.ops 0 i)) (List.range frSend.rl) → field p.fst 43 21 = 0 ∧ (world frSend).tileDead (field p.fst 0 14) = false ∧ isCompute (field p.fst 0 14) = true ∧ (world frSend).dieUp (tileDie (field p.fst 0 14)) = true ∧ (world frSend).jobOf frSend ≠ none ∧ (world frSend).jobAt (field p.fst 0 14) (field p.fst 14 4) = (world frSend).jobOf frSend ∧ (p.snd.handle? = none ∨ tileDie (field p.fst 0 14) = tileDie frSend.tile)) :=
  by decide +kernel
def frameR : Frame := { placedFrame with ret := link0 }
def frame2 : Frame := { placedFrame with lw := 2, active := [0, 1], ret := link0 }
def retS (fr : Firing) : State := (world fr).onFrame 0 0 fun x => { x with ret := link0 }
theorem witness_Sends_send2 :
    (retS fr1).issuing = some fr1 ∧ (retS fr1).frameOf fr1 = some frameR ∧ Clean fr1 ∧ frameR.ret ≠ 0 ∧
    (∀ (p : Word × LVal), p ∈ List.map (fun i => (frameR.ret, opAt fr1.ops 0 i)) (List.range fr1.rl) → field p.fst 43 21 = 0 ∧ (retS fr1).tileDead (field p.fst 0 14) = false ∧ isCompute (field p.fst 0 14) = true ∧ (retS fr1).dieUp (tileDie (field p.fst 0 14)) = true ∧ (retS fr1).jobOf fr1 ≠ none ∧ (retS fr1).jobAt (field p.fst 0 14) (field p.fst 14 4) = (retS fr1).jobOf fr1 ∧ (p.snd.handle? = none ∨ tileDie (field p.fst 0 14) = tileDie fr1.tile)) :=
  by decide +kernel
theorem witness_Sends_send3 :
    (sB fr1h).issuing = some fr1h ∧ (sB fr1h).frameOf fr1h = some placedFrame ∧ Clean fr1h ∧ placedFrame.ret = 0 :=
  by decide +kernel
/-- ADD of two operands at every index, with one constant. -/
def blkC (k : Word) : Block := { placedBlock 0x1003800081000000 with consts := [k] }
def entC (k : Word) : Entry := { ctx := 0, blk := 0, block := blkC k }
def kS (fr : Firing) (k : Word) : State := (world fr).onTile 0 fun c => { c with entries := [(0, entC k)] }
theorem witness_FrameRequests_enter :
    (kS fr2 0).issuing = some fr2 ∧ (kS fr2 0).frameOf fr2 = some placedFrame ∧
    EntryOk (kS fr2 0) fr2 ((kS fr2 0).constOf fr2 (fld 0 Ty.i32 0).ck.toNat) (fld 0 Ty.i32 0).ar.toNat (entC 0) ∧
    (entC 0).block.lw = placedFrame.lw ∧ (entC 0).block.cells ≤ ((kS fr2 0).tile fr2.tile).quotaOf fr2.ctx :=
  by decide +kernel
theorem witness_FrameRequests_iter :
    (kS fr2 0).issuing = some fr2 ∧ (kS fr2 0).frameOf fr2 = some placedFrame ∧ (kS fr2 0).blockOf fr2 = some (blkC 0) ∧
    (fld 0 Ty.i32 0).d0 = some { ix := 5, port := 0 } ∧ (blkC 0).cells ≤ ((kS fr2 0).tile fr2.tile).quotaOf fr2.ctx :=
  by decide +kernel
def frL0 : Firing := firing [[.scal 0, .scal 0]]
def frL1 : Firing := firing [[.scal 0, .scal 3]]
theorem witness_FrameRequests_loopn0 :
    (kS frL0 0).issuing = some frL0 ∧ (kS frL0 0).frameOf frL0 = some placedFrame ∧
    (∀ (i : Nat), i < frL0.rl → (opAt frL0.ops 0 i).poison? = none) ∧
    EntryOk (kS frL0 0) frL0 ((kS frL0 0).constOf frL0 (fld 0 Ty.i32 0 1).ck.toNat) ((fld 0 Ty.i32 0 1).ar.toNat - 1) (entC 0) ∧
    (∀ (i : Nat), i < frL0.rl → BitVec.toNat (opAt frL0.ops 0 i).word = 0) :=
  by decide +kernel
theorem witness_FrameRequests_loopn1 :
    (kS frL1 0).issuing = some frL1 ∧ (kS frL1 0).frameOf frL1 = some placedFrame ∧
    (∀ (i : Nat), i < frL1.rl → (opAt frL1.ops 0 i).poison? = none) ∧
    EntryOk (kS frL1 0) frL1 ((kS frL1 0).constOf frL1 (fld 0 Ty.i32 0 1).ck.toNat) ((fld 0 Ty.i32 0 1).ar.toNat - 1) (entC 0) ∧
    1 < frL1.rl ∧ 0 < BitVec.toNat (opAt frL1.ops 0 1).word ∧ (∀ (j : Nat), j < 1 → BitVec.toNat (opAt frL1.ops 0 j).word = 0) ∧
    (entC 0).block.cells ≤ ((kS frL1 0).tile frL1.tile).quotaOf frL1.ctx :=
  by decide +kernel
theorem witness_FramesEnd_free :
    (world fr1).issuing = some fr1 ∧ (world fr1).frameOf fr1 = some placedFrame ∧ placedFrame.st = FState.live :=
  by decide +kernel
theorem witness_FramesEnd_exit :
    (world fr1).issuing = some fr1 ∧ (world fr1).frameOf fr1 = some placedFrame ∧ placedFrame.st = FState.live ∧ Clean fr1 :=
  by decide +kernel
def twoS (fr : Firing) : State := (world fr).onFrame 0 0 fun x => { x with lw := 2, active := [0, 1], ret := link0 }
def frD : Firing := firing [[.dn]]
theorem witness_FramesEnd_exit2 :
    (twoS frD).issuing = some frD ∧ (twoS frD).frameOf frD = some frame2 ∧ frame2.st = FState.live ∧ Clean frD :=
  by decide +kernel
theorem witness_FramesEnd_done1 :
    (world frD).issuing = some frD ∧ (world frD).frameOf frD = some placedFrame ∧ placedFrame.st = FState.live ∧ Clean frD ∧
    (world frD).regionAt frD.tile frD.ctx = some (1, 0, region0) ∧ (world frD).region? 1 0 = some region0 ∧ frD.rl ≤ region0.isc :=
  by decide +kernel
theorem witness_FramesEnd_done2 :
    (twoS frD).issuing = some frD ∧ (twoS frD).frameOf frD = some frame2 ∧ frame2.st = FState.live ∧ Clean frD ∧
    (twoS frD).regionAt frD.tile frD.ctx = some (1, 0, region0) ∧ (twoS frD).region? 1 0 = some region0 ∧ frD.rl ≤ region0.isc :=
  by decide +kernel
theorem witness_ConstantsAndTransitions_kset : (world fr1).issuing = some fr1 ∧ Clean fr1 := by decide +kernel
theorem witness_ConstantsAndTransitions_const : (kS fr1 7).issuing = some fr1 := by decide +kernel
theorem witness_ConstantsAndTransitions_cself : (kS fr1 261).issuing = some fr1 := by decide +kernel
def frC : Firing := firing [[.scal 1]]
theorem witness_ConstantsAndTransitions_cfgnext :
    (world frC).issuing = some frC ∧ Clean frC ∧ (world frC).regionAt frC.tile frC.ctx = some (1, 0, region0) :=
  by decide +kernel
theorem witness_ConstantsAndTransitions_cfgload :
    (world frC).issuing = some frC ∧ Clean frC ∧ (world frC).regionAt frC.tile frC.ctx = some (1, 0, region0) ∧
    (arg (fld 0 Ty.n32 0 1).ty (if (fld 0 Ty.n32 0 1).kc = true then (world frC).constOf frC (fld 0 Ty.n32 0 1).ck.toNat else (opAt frC.ops 0 0).word)).toNat < region0.cfgs.length :=
  by decide +kernel
def qS (fr : Firing) : State := (kS fr 0).onTile 0 fun c => { c with quota := [(0, 0)] }
def frSp : Firing := firing [[.scal 9, .pois { w0 := 8, w1 := 0 }], [.scal link0, .scal link0]]
theorem witness_FrameRequests_enterq :
    (qS fr2).issuing = some fr2 ∧ (qS fr2).frameOf fr2 = some placedFrame ∧
    EntryOk (qS fr2) fr2 ((qS fr2).constOf fr2 (fld 0 Ty.i32 0).ck.toNat) (fld 0 Ty.i32 0).ar.toNat (entC 0) ∧
    (entC 0).block.lw = placedFrame.lw ∧ ((qS fr2).tile fr2.tile).quotaOf fr2.ctx < (entC 0).block.cells :=
  by decide +kernel
theorem witness_FrameRequests_iterq :
    (qS fr2).issuing = some fr2 ∧ (qS fr2).frameOf fr2 = some placedFrame ∧ (qS fr2).blockOf fr2 = some (blkC 0) ∧
    (fld 0 Ty.i32 0).d0 = some { ix := 5, port := 0 } ∧ ((qS fr2).tile fr2.tile).quotaOf fr2.ctx < (blkC 0).cells :=
  by decide +kernel
theorem witness_FrameRequests_loopnq :
    (qS frL1).issuing = some frL1 ∧ (qS frL1).frameOf frL1 = some placedFrame ∧
    (∀ (i : Nat), i < frL1.rl → (opAt frL1.ops 0 i).poison? = none) ∧
    EntryOk (qS frL1) frL1 ((qS frL1).constOf frL1 (fld 0 Ty.i32 0 1).ck.toNat) ((fld 0 Ty.i32 0 1).ar.toNat - 1) (entC 0) ∧
    (∃ i, i < frL1.rl ∧ 0 < BitVec.toNat (opAt frL1.ops 0 i).word) ∧
    ((qS frL1).tile frL1.tile).quotaOf frL1.ctx < (entC 0).block.cells :=
  by decide +kernel
theorem witness_Sends_poison :
    (world frSp).issuing = some frSp ∧ 1 < frSp.rl ∧ 0 < 3 ∧ (opAt frSp.ops 0 1).poison? = some { w0 := 8, w1 := 0 } ∧
    (∀ (q : Nat), q < 0 → (opAt frSp.ops q 1).poison? = none) ∧ (∀ (i : Nat), i < 1 → poisonAt frSp.ops i = none) :=
  by decide +kernel

end Control

/-! ## Buffers -/

namespace Buffers

def frH : Firing := firing [[.hand h0]]
def frHH : Firing := firing [[.hand h0], [.hand h1]]
def wb (fr : Firing) (x : Desc := buf 0) (y : Desc := buf 0 1) : State := buffers (world fr) x y
def hFar : Word := mkHandle 34 0 0 0 0 0 false false false false
def hOld : Word := mkHandle 32 0 0 7 0 0 false false false false
theorem witness_HandleChecks_hc1 :
    ¬(isMemTile (hTile (tileDie 0) hFar) = true ∧ sameQuad (hTile (tileDie 0) hFar) 0 = true) :=
  by decide +kernel
theorem witness_HandleChecks_hc1b :
    ¬(isMemTile (hTile (tileDie 0) (mkHandle 33 0 0 0 0 0 false false false false)) = true ∧ sameQuad (hTile (tileDie 0) (mkHandle 33 0 0 0 0 0 false false false false)) 0 = true) :=
  by decide +kernel
theorem witness_HandleChecks_hc2 :
    (isMemTile (hTile (tileDie 0) hOld) = true ∧ sameQuad (hTile (tileDie 0) hOld) 0 = true) ∧
    (¬((((wb frH).mtile (hTile (tileDie 0) hOld)).desc (hDesc hOld)).state ≠ 0 ∧ (((wb frH).mtile (hTile (tileDie 0) hOld)).desc (hDesc hOld)).gen = hGen hOld ∧ (((wb frH).mtile (hTile (tileDie 0) hOld)).desc (hDesc hOld)).gran0 = hGran0 hOld ∧ (((wb frH).mtile (hTile (tileDie 0) hOld)).desc (hDesc hOld)).ngm1 = hNgm1 hOld ∧ (((wb frH).mtile (hTile (tileDie 0) hOld)).desc (hDesc hOld)).view = hView hOld ∧ BitVec.getLsbD (((wb frH).mtile (hTile (tileDie 0) hOld)).desc (hDesc hOld)).shape 31 = hScale hOld)) :=
  by decide +kernel
def st_hc3 : State := wb frH { buf 0 with holder := 33 }
theorem witness_HandleChecks_hc3 :
    (isMemTile (hTile (tileDie 0) h0) = true ∧ sameQuad (hTile (tileDie 0) h0) 0 = true) ∧
    (((st_hc3.mtile (hTile (tileDie 0) h0)).desc (hDesc h0)).state ≠ 0 ∧ ((st_hc3.mtile (hTile (tileDie 0) h0)).desc (hDesc h0)).gen = hGen h0 ∧ ((st_hc3.mtile (hTile (tileDie 0) h0)).desc (hDesc h0)).gran0 = hGran0 h0 ∧ ((st_hc3.mtile (hTile (tileDie 0) h0)).desc (hDesc h0)).ngm1 = hNgm1 h0 ∧ ((st_hc3.mtile (hTile (tileDie 0) h0)).desc (hDesc h0)).view = hView h0 ∧ BitVec.getLsbD ((st_hc3.mtile (hTile (tileDie 0) h0)).desc (hDesc h0)).shape 31 = hScale h0) ∧
    (¬(((st_hc3.mtile (hTile (tileDie 0) h0)).desc (hDesc h0)).holder = 0 % 1024 ∧ ((st_hc3.mtile (hTile (tileDie 0) h0)).desc (hDesc h0)).ctx = 0)) :=
  by decide +kernel
def st_hc4 : State := wb frH { buf 0 with ro := true }
theorem witness_HandleChecks_hc4 :
    (isMemTile (hTile (tileDie 0) h0) = true ∧ sameQuad (hTile (tileDie 0) h0) 0 = true) ∧
    (((st_hc4.mtile (hTile (tileDie 0) h0)).desc (hDesc h0)).state ≠ 0 ∧ ((st_hc4.mtile (hTile (tileDie 0) h0)).desc (hDesc h0)).gen = hGen h0 ∧ ((st_hc4.mtile (hTile (tileDie 0) h0)).desc (hDesc h0)).gran0 = hGran0 h0 ∧ ((st_hc4.mtile (hTile (tileDie 0) h0)).desc (hDesc h0)).ngm1 = hNgm1 h0 ∧ ((st_hc4.mtile (hTile (tileDie 0) h0)).desc (hDesc h0)).view = hView h0 ∧ BitVec.getLsbD ((st_hc4.mtile (hTile (tileDie 0) h0)).desc (hDesc h0)).shape 31 = hScale h0) ∧
    (((st_hc4.mtile (hTile (tileDie 0) h0)).desc (hDesc h0)).holder = 0 % 1024 ∧ ((st_hc4.mtile (hTile (tileDie 0) h0)).desc (hDesc h0)).ctx = 0) ∧
    (¬(true = true → hRo h0 = false ∧ ((st_hc4.mtile (hTile (tileDie 0) h0)).desc (hDesc h0)).ro = false)) :=
  by decide +kernel
theorem witness_HandleChecks_hc5 :
    (isMemTile (hTile (tileDie 0) h0) = true ∧ sameQuad (hTile (tileDie 0) h0) 0 = true) ∧
    (((st_hc4.mtile (hTile (tileDie 0) h0)).desc (hDesc h0)).state ≠ 0 ∧ ((st_hc4.mtile (hTile (tileDie 0) h0)).desc (hDesc h0)).gen = hGen h0 ∧ ((st_hc4.mtile (hTile (tileDie 0) h0)).desc (hDesc h0)).gran0 = hGran0 h0 ∧ ((st_hc4.mtile (hTile (tileDie 0) h0)).desc (hDesc h0)).ngm1 = hNgm1 h0 ∧ ((st_hc4.mtile (hTile (tileDie 0) h0)).desc (hDesc h0)).view = hView h0 ∧ BitVec.getLsbD ((st_hc4.mtile (hTile (tileDie 0) h0)).desc (hDesc h0)).shape 31 = hScale h0) ∧
    (((st_hc4.mtile (hTile (tileDie 0) h0)).desc (hDesc h0)).holder = 0 % 1024 ∧ ((st_hc4.mtile (hTile (tileDie 0) h0)).desc (hDesc h0)).ctx = 0) ∧
    (false = true → hRo h0 = false ∧ ((st_hc4.mtile (hTile (tileDie 0) h0)).desc (hDesc h0)).ro = false) :=
  by decide +kernel
def st_rel1 : State := wb frH { buf 0 with refs := 2 }
theorem witness_ReleaseFrees_rel1 :
    isMemTile (hTile 0 h0) = true ∧ staleIn (st_rel1.mtile (hTile 0 h0)) h0 = false ∧
    1 < ((st_rel1.mtile (hTile 0 h0)).desc (hDesc h0)).refs :=
  by decide +kernel
def st_rel2 : State := wb frH { buf 0 with gen := 0 }
theorem witness_ReleaseFrees_rel2 :
    isMemTile (hTile 0 h0) = true ∧ staleIn (st_rel2.mtile (hTile 0 h0)) h0 = false ∧
    ((st_rel2.mtile (hTile 0 h0)).desc (hDesc h0)).refs = 1 ∧ ((st_rel2.mtile (hTile 0 h0)).desc (hDesc h0)).view = false ∧
    ((st_rel2.mtile (hTile 0 h0)).desc (hDesc h0)).sdesc = none :=
  by decide +kernel
theorem witness_HandleReads_trel : Spec.One (wb frH) frH ∧ Uses (wb frH) frH 0 h0 false false := by decide +kernel
theorem witness_HandleReads_tref : Spec.One (wb frH) frH ∧ Uses (wb frH) frH 0 h0 true false := by decide +kernel
def panel : Desc := { buf 0 1 with shape := shape 10 + 2 ^ 31 }
def h1s : Word := mkHandle 32 1 0 0 1 0 false true false false
def frHS : Firing := firing [[.hand h0], [.hand h1s]]
theorem witness_HandleReads_tlink :
    Spec.One (wb frHS (buf 10) panel) frHS ∧ Uses (wb frHS (buf 10) panel) frHS 0 h0 true false ∧
    Uses (wb frHS (buf 10) panel) frHS 1 h1s true false ∧ home frHS h1s = home frHS h0 ∧
    BitVec.getLsbD (desc (wb frHS (buf 10) panel) frHS h1s).shape 31 = true ∧
    tFmt (desc (wb frHS (buf 10) panel) frHS h0).shape = tFmt (desc (wb frHS (buf 10) panel) frHS h1s).shape ∧
    (desc (wb frHS (buf 10) panel) frHS h0).view = false ∧ BitVec.getLsbD (desc (wb frHS (buf 10) panel) frHS h0).shape 31 = false ∧
    (desc (wb frHS (buf 10) panel) frHS h0).sdesc = none :=
  by decide +kernel
def frG : Firing := firing [[.hand h0], [.scal 0x1400000021]]
theorem witness_HandleReads_tgive :
    Spec.One (wb frG) frG ∧ Shaped frG 2 ∧ (fld 0 Ty.h 0).kc = false ∧ Uses (wb frG) frG 0 h0 true false ∧
    field (opAt frG.ops 1 0).word 43 21 = 0 ∧ (wb frG).tileDead (field (opAt frG.ops 1 0).word 0 14) = false ∧
    isCompute (field (opAt frG.ops 1 0).word 0 14) = true ∧ sameQuad (field (opAt frG.ops 1 0).word 0 14) (home frG h0) = true ∧
    (wb frG).dieState (tileDie (field (opAt frG.ops 1 0).word 0 14)) ≠ 0 ∧ (wb frG).jobOf frG ≠ none ∧
    (wb frG).jobAt (field (opAt frG.ops 1 0).word 0 14) (field (opAt frG.ops 1 0).word 14 4) = (wb frG).jobOf frG ∧
    frG.handles = [h0] :=
  by decide +kernel
def frK : Firing := firing [[.scal 0xAB], [.hand h0], [.scal 255]]
def frK1 : Firing := firing [[.scal 0xAB]]
def tagS (fr : Firing) (k : Word) : State := (wb fr).onMtile 32 fun c => { c with tags := [(0, { key := k, handle := h0, ctx := 0, stamp := 0 })] }
theorem witness_TagsAndElements_tlook1 :
    Spec.One (tagS frK1 171) frK1 ∧ (fld 0 Ty.b64 0 1).kc = false ∧
    List.find? (fun e => e.snd.ctx == frK1.ctx && e.snd.key == (opAt frK1.ops 0 0).word) ((tagS frK1 171).mtile (memTileOf frK1.tile (xbits (fld 0 Ty.b64 0 1).x 0 1))).tags = some (0, { key := 171, handle := h0, ctx := 0, stamp := 0 }) ∧
    frK1.handles = [] ∧
    staleIn ((tagS frK1 171).mtile (memTileOf frK1.tile (xbits (fld 0 Ty.b64 0 1).x 0 1))) ({ key := 171, handle := h0, ctx := 0, stamp := 0 } : TagEnt).handle = false ∧
    (tagS frK1 171).refsOver (tileDie frK1.tile) ({ key := 171, handle := h0, ctx := 0, stamp := 0 } : TagEnt).handle 1 = false :=
  by decide +kernel
theorem witness_TagsAndElements_tlook2 :
    Spec.One (tagS frK1 172) frK1 ∧ (fld 0 Ty.b64 0 1).kc = false ∧ 1 < 256 ∧
    (∀ (e : Nat × TagEnt), e ∈ ((tagS frK1 172).mtile (memTileOf frK1.tile (xbits (fld 0 Ty.b64 0 1).x 0 1))).tags → e.snd.ctx = frK1.ctx → e.snd.key ≠ (opAt frK1.ops 0 0).word) ∧
    frK1.handles = [] ∧ ((tagS frK1 172).mtile (memTileOf frK1.tile (xbits (fld 0 Ty.b64 0 1).x 0 1))).tags.get? 1 = none ∧
    (∀ (j : Nat), j < 1 → ((tagS frK1 172).mtile (memTileOf frK1.tile (xbits (fld 0 Ty.b64 0 1).x 0 1))).tags.get? j ≠ none) :=
  by decide +kernel
theorem witness_TagsAndElements_ttag :
    Spec.One (tagS frK 172) frK ∧ (fld 0 Ty.b64 0 3).kc = false ∧ Uses (tagS frK 172) frK 1 h0 true false ∧ frK.handles = [h0] ∧
    BitVec.toNat (opAt frK.ops 2 0).word < 256 ∧
    ((tagS frK 172).mtile (home frK h0)).tags.get? (BitVec.toNat (opAt frK.ops 2 0).word) = none ∧
    (∀ (e : Nat × TagEnt), e ∈ ((tagS frK 172).mtile (home frK h0)).tags → e.snd.ctx = frK.ctx → e.snd.key ≠ (opAt frK.ops 0 0).word) :=
  by decide +kernel
def frU : Firing := firing [[.scal 0]]
theorem witness_TagsAndElements_tuntag :
    Spec.One (tagS frU 172) frU ∧ (fld 0 Ty.b64 0 1).kc = false ∧ frU.handles = [] ∧ BitVec.toNat (opAt frU.ops 0 0).word < 256 ∧
    ((tagS frU 172).mtile (memTileOf frU.tile (xbits (fld 0 Ty.b64 0 1).x 0 1))).tags.get? (BitVec.toNat (opAt frU.ops 0 0).word) = some { key := 172, handle := h0, ctx := 0, stamp := 0 } ∧
    (0) = frU.ctx :=
  by decide +kernel
def frE : Firing := firing [[.hand h0], [.scal 0x6003], [.scal 0x3f800000]]
theorem witness_TagsAndElements_tget :
    Spec.One (wb frE) frE ∧ ((wb frE).mtile (home frE h0)).ue = [] ∧ frE.handles = [h0] ∧ Uses (wb frE) frE 0 h0 true false ∧
    (field (word (wb frE) frE (fld 0 Ty.b64 0 3) 1 0) 26 38 = 0 ∧ field (word (wb frE) frE (fld 0 Ty.b64 0 3) 1 0) 0 13 < tRows (desc (wb frE) frE h0).shape ∧ field (word (wb frE) frE (fld 0 Ty.b64 0 3) 1 0) 13 13 < tCols (desc (wb frE) frE h0).shape) ∧
    ((wb frE).mtile (home frE h0)).poison? (hDesc h0) = none :=
  by decide +kernel
theorem witness_TagsAndElements_tset :
    Spec.One (wb frE) frE ∧ ((wb frE).mtile (home frE h0)).ue = [] ∧ frE.handles = [h0] ∧ Uses (wb frE) frE 0 h0 true true ∧
    (field (word (wb frE) frE (fld 0 Ty.b64 0 3) 1 0) 26 38 = 0 ∧ field (word (wb frE) frE (fld 0 Ty.b64 0 3) 1 0) 0 13 < tRows (desc (wb frE) frE h0).shape ∧ field (word (wb frE) frE (fld 0 Ty.b64 0 3) 1 0) 13 13 < tCols (desc (wb frE) frE h0).shape) :=
  by decide +kernel
theorem witness_TagsAndElements_tfill :
    Spec.One (wb frE) frE ∧ ((wb frE).mtile (home frE h0)).ue = [] ∧ frE.handles = [h0] ∧ Uses (wb frE) frE 0 h0 true true :=
  by decide +kernel
def frT : Firing := firing [[.scal (shape 0)]]
theorem witness_Allocations_talloc :
    Spec.One (wb frT) frT ∧
    tValid (if (fld 0 Ty.h 0 1).kc = true then (wb frT).constOf frT (fld 0 Ty.h 0 1).ck.toNat else (opAt frT.ops 0 0).word) = true ∧
    tGranules (if (fld 0 Ty.h 0 1).kc = true then (wb frT).constOf frT (fld 0 Ty.h 0 1).ck.toNat else (opAt frT.ops 0 0).word) ≤ ((wb frT).mtile (memTileOf frT.tile (xbits (fld 0 Ty.h 0 1).x 0 1))).quotaOf frT.ctx ∧
    frT.handles = [] :=
  by decide +kernel
def frV : Firing := firing [[.hand h0], [.scal 0x1800C000000]]
theorem witness_Allocations_tview :
    Spec.One (wb frV) frV ∧ Uses (wb frV) frV 0 h0 true false ∧ frV.handles = [h0] ∧
    windowOk (desc (wb frV) frV h0).shape (word (wb frV) frV (fld 0 Ty.h 0) 1 0) = true ∧
    (((wb frV).mtile (home frV h0)).desc (((wb frV).mtile (home frV h0)).psnDesc (hDesc h0))).refs < 65535 :=
  by decide +kernel
def tal : TAlloc := { firing := placedFiring, f := fld 0 .h 0 1, g := 1, lane := 0, handle := none, param := shape 0 }
def sTal : State := { (wb frT).onMtile 32 (fun c => { c with allocq := [tal], zpend := [1] }) with arg := { tile := 32 }, issuing := none }
theorem witness_Allocations_tgrant :
    sTal.arg.tile = 32 ∧ (sTal.mtile 32).allocq = [tal] ∧ tal.handle = none ∧
    (sTal.mtile 32).dfifo.take 512 = some (2, { fresh := 3 }) ∧ (sTal.mtile 32).freeRun tal.g = some 2 ∧
    (sTal.mtile 32).usedOf tal.firing.ctx + tal.g ≤ (sTal.mtile 32).quotaOf tal.firing.ctx :=
  by decide +kernel
theorem witness_Allocations_gzero : sTal.arg.tile = 32 ∧ (sTal.mtile 32).zpend = [1] := by decide +kernel
def addW : Word := 0x1003800081000000
def notW : Word := 0x2303400081000000
def blkM : Block := { placedBlock 0 with words := [addW, notW, 0x1003800000000000] }
def entM : Entry := { ctx := 0, blk := 0, block := blkM }
def fAdd : Fields := { fld 0 .i32 0 with d0 := some { ix := 1, port := 0 }, d1 := none }
def fNot : Fields := { fld 0 .i32 0 1 with d0 := some { ix := 1, port := 0 }, d1 := none }
def tok (ix port : Nat) : Token := { dst := 0, ctx := 0, fi := 0, blk := 0, ix := ix, port := port, lb := 0, rl := 1, pay := .scalar 3 }
def sTok (k : Token) (x : Frame := placedFrame) : State :=
  { idle.onTile 0 (fun c => { (c.setFrame 0 x) with entries := [(0, entM)], inputs := [{ via := .mesh, clk := 0, tok := k }] }) with arg := { tile := 0, n := 0 } }
def st_tm0 : State := sTok { tok 0 0 with blk := 3 }
theorem witness_TokenMatching_tm0 :
    st_tm0.arg.tile = { (tok 0 0) with blk := 3 }.dst ∧
    Option.map (·.tok) (st_tm0.tile { (tok 0 0) with blk := 3 }.dst).inputs[st_tm0.arg.n]? = some { (tok 0 0) with blk := 3 } ∧
    tokenNext st_tm0 { (tok 0 0) with blk := 3 }.dst st_tm0.arg.n = true ∧
    (st_tm0.tile { (tok 0 0) with blk := 3 }.dst).took ≤ st_tm0.clk ∧ (st_tm0.tile { (tok 0 0) with blk := 3 }.dst).held = [] ∧
    st_tm0.frozenAt { (tok 0 0) with blk := 3 }.dst { (tok 0 0) with blk := 3 }.ctx = false ∧
    st_tm0.tileDead { (tok 0 0) with blk := 3 }.dst = false ∧
    (st_tm0.tile { (tok 0 0) with blk := 3 }.dst).entry { (tok 0 0) with blk := 3 }.ctx { (tok 0 0) with blk := 3 }.blk = none :=
  by decide +kernel
def endFr : Frame := { placedFrame with st := .ending }
theorem witness_TokenMatching_tm1 :
    (sTok (tok 0 0) endFr).arg.tile = (tok 0 0).dst ∧
    Option.map (·.tok) ((sTok (tok 0 0) endFr).tile (tok 0 0).dst).inputs[(sTok (tok 0 0) endFr).arg.n]? = some (tok 0 0) ∧
    tokenNext (sTok (tok 0 0) endFr) (tok 0 0).dst (sTok (tok 0 0) endFr).arg.n = true ∧
    ((sTok (tok 0 0) endFr).tile (tok 0 0).dst).took ≤ (sTok (tok 0 0) endFr).clk ∧
    ((sTok (tok 0 0) endFr).tile (tok 0 0).dst).held = [] ∧ (sTok (tok 0 0) endFr).frozenAt (tok 0 0).dst (tok 0 0).ctx = false ∧
    (sTok (tok 0 0) endFr).tileDead (tok 0 0).dst = false ∧
    ((sTok (tok 0 0) endFr).tile (tok 0 0).dst).entry (tok 0 0).ctx (tok 0 0).blk = some entM ∧
    (∀ (x : Frame), (sTok (tok 0 0) endFr).frame? (tok 0 0).dst (tok 0 0).fi = some x → x.st ≠ FState.live) :=
  by refine ⟨?_, ?_, ?_, ?_, ?_, ?_, ?_, ?_, (by intro x hx; have : some endFr = some x := hx; cases this; decide)⟩ <;> decide +kernel
theorem witness_TokenMatching_tm2 :
    (sTok (tok 1 0)).arg.tile = (tok 1 0).dst ∧
    Option.map (·.tok) ((sTok (tok 1 0)).tile (tok 1 0).dst).inputs[(sTok (tok 1 0)).arg.n]? = some (tok 1 0) ∧
    tokenNext (sTok (tok 1 0)) (tok 1 0).dst (sTok (tok 1 0)).arg.n = true ∧
    ((sTok (tok 1 0)).tile (tok 1 0).dst).took ≤ (sTok (tok 1 0)).clk ∧ ((sTok (tok 1 0)).tile (tok 1 0).dst).held = [] ∧
    (sTok (tok 1 0)).frozenAt (tok 1 0).dst (tok 1 0).ctx = false ∧ (sTok (tok 1 0)).tileDead (tok 1 0).dst = false ∧
    ((sTok (tok 1 0)).tile (tok 1 0).dst).entry (tok 1 0).ctx (tok 1 0).blk = some entM ∧
    (sTok (tok 1 0)).frame? (tok 1 0).dst (tok 1 0).fi = some placedFrame ∧ placedFrame.st = FState.live ∧ (tok 1 0).link = false ∧
    entM.block.fields? (tok 1 0).ix = some (35, fNot) ∧ 35 ≠ 5 ∧ isChained 35 fNot = false ∧ (tok 1 0).rl = 1 ∧
    (tok 1 0).pay.lanes 1 = [LVal.scal 3] ∧ (¬(tok 1 0).lb ∈ placedFrame.ended) ∧ fNot.ar = 1 ∧ (tok 1 0).port = 0 ∧
    (((sTok (tok 1 0)).tile (tok 1 0).dst).queue (queueOf { (tok 1 0) with tile := (tok 1 0).dst, rl := 1, ops := [[LVal.scal 3]] } 35 fNot)).ents.length < (queueOf { (tok 1 0) with tile := (tok 1 0).dst, rl := 1, ops := [[LVal.scal 3]] } 35 fNot).depth :=
  by decide +kernel
theorem witness_TokenMatching_tm3 :
    (sTok (tok 0 1)).arg.tile = (tok 0 1).dst ∧
    Option.map (·.tok) ((sTok (tok 0 1)).tile (tok 0 1).dst).inputs[(sTok (tok 0 1)).arg.n]? = some (tok 0 1) ∧
    tokenNext (sTok (tok 0 1)) (tok 0 1).dst (sTok (tok 0 1)).arg.n = true ∧
    ((sTok (tok 0 1)).tile (tok 0 1).dst).took ≤ (sTok (tok 0 1)).clk ∧ ((sTok (tok 0 1)).tile (tok 0 1).dst).held = [] ∧
    (sTok (tok 0 1)).frozenAt (tok 0 1).dst (tok 0 1).ctx = false ∧ (sTok (tok 0 1)).tileDead (tok 0 1).dst = false ∧
    ((sTok (tok 0 1)).tile (tok 0 1).dst).entry (tok 0 1).ctx (tok 0 1).blk = some entM ∧
    (sTok (tok 0 1)).frame? (tok 0 1).dst (tok 0 1).fi = some placedFrame ∧ placedFrame.st = FState.live ∧ (tok 0 1).link = false ∧
    entM.block.fields? (tok 0 1).ix = some (16, fAdd) ∧ 16 ≠ 5 ∧ isChained 16 fAdd = false ∧ (tok 0 1).rl = 1 ∧
    (tok 0 1).pay.lanes 1 = [LVal.scal 3] ∧ (¬(tok 0 1).lb ∈ placedFrame.ended) ∧ fAdd.ar = 2 ∧
    (∀ (p : Parked), p ∈ placedFrame.parked → p.slot = fAdd.sl.toNat → p.owner = (tok 0 1).ix ∧ p.lane ≠ (tok 0 1).lb) :=
  by decide +kernel
def parked (o : Nat) : Parked := { slot := 0, lane := 0, port := 0, owner := o, val := .scal 5 }
def frPk (o : Nat) : Frame := { placedFrame with parked := [parked o] }
theorem witness_TokenMatching_tm4 :
    (sTok (tok 0 1) (frPk 0)).arg.tile = (tok 0 1).dst ∧
    Option.map (·.tok) ((sTok (tok 0 1) (frPk 0)).tile (tok 0 1).dst).inputs[(sTok (tok 0 1) (frPk 0)).arg.n]? = some (tok 0 1) ∧
    tokenNext (sTok (tok 0 1) (frPk 0)) (tok 0 1).dst (sTok (tok 0 1) (frPk 0)).arg.n = true ∧
    ((sTok (tok 0 1) (frPk 0)).tile (tok 0 1).dst).took ≤ (sTok (tok 0 1) (frPk 0)).clk ∧
    ((sTok (tok 0 1) (frPk 0)).tile (tok 0 1).dst).held = [] ∧
    (sTok (tok 0 1) (frPk 0)).frozenAt (tok 0 1).dst (tok 0 1).ctx = false ∧
    (sTok (tok 0 1) (frPk 0)).tileDead (tok 0 1).dst = false ∧
    ((sTok (tok 0 1) (frPk 0)).tile (tok 0 1).dst).entry (tok 0 1).ctx (tok 0 1).blk = some entM ∧
    (sTok (tok 0 1) (frPk 0)).frame? (tok 0 1).dst (tok 0 1).fi = some (frPk 0) ∧ (frPk 0).st = FState.live ∧
    (tok 0 1).link = false ∧ entM.block.fields? (tok 0 1).ix = some (16, fAdd) ∧ 16 ≠ 5 ∧ isChained 16 fAdd = false ∧
    (tok 0 1).rl = 1 ∧ (tok 0 1).pay.lanes 1 = [LVal.scal 3] ∧ (¬(tok 0 1).lb ∈ (frPk 0).ended) ∧ fAdd.ar = 2 ∧
    (∀ (q : Parked), q ∈ (frPk 0).parked → q.slot = fAdd.sl.toNat → q.owner = (tok 0 1).ix) ∧
    List.filter (fun q => q.slot == fAdd.sl.toNat && q.lane == (tok 0 1).lb) (frPk 0).parked = [parked 0] ∧
    (parked 0).port + (tok 0 1).port = 1 ∧
    (((sTok (tok 0 1) (frPk 0)).tile (tok 0 1).dst).queue
            (queueOf
              { (tok 0 1) with tile := (tok 0 1).dst, rl := 1, ops := if (tok 0 1).port = 0 then [[LVal.scal 3], [(parked 0).val]] else [[(parked 0).val], [LVal.scal 3]] }
              16 fAdd)).ents.length <
      (queueOf
          { (tok 0 1) with tile := (tok 0 1).dst, rl := 1, ops := if (tok 0 1).port = 0 then [[LVal.scal 3], [(parked 0).val]] else [[(parked 0).val], [LVal.scal 3]] }
          16 fAdd).depth :=
  by decide +kernel
theorem witness_TokenMatching_tm5 :
    (sTok (tok 0 1) (frPk 2)).arg.tile = (tok 0 1).dst ∧
    Option.map (·.tok) ((sTok (tok 0 1) (frPk 2)).tile (tok 0 1).dst).inputs[(sTok (tok 0 1) (frPk 2)).arg.n]? = some (tok 0 1) ∧
    tokenNext (sTok (tok 0 1) (frPk 2)) (tok 0 1).dst (sTok (tok 0 1) (frPk 2)).arg.n = true ∧
    ((sTok (tok 0 1) (frPk 2)).tile (tok 0 1).dst).took ≤ (sTok (tok 0 1) (frPk 2)).clk ∧
    ((sTok (tok 0 1) (frPk 2)).tile (tok 0 1).dst).held = [] ∧
    (sTok (tok 0 1) (frPk 2)).frozenAt (tok 0 1).dst (tok 0 1).ctx = false ∧
    (sTok (tok 0 1) (frPk 2)).tileDead (tok 0 1).dst = false ∧
    ((sTok (tok 0 1) (frPk 2)).tile (tok 0 1).dst).entry (tok 0 1).ctx (tok 0 1).blk = some entM ∧
    (sTok (tok 0 1) (frPk 2)).frame? (tok 0 1).dst (tok 0 1).fi = some (frPk 2) ∧ (frPk 2).st = FState.live ∧
    (tok 0 1).link = false ∧ entM.block.fields? (tok 0 1).ix = some (16, fAdd) ∧ 16 ≠ 5 ∧ isChained 16 fAdd = false ∧
    (tok 0 1).rl = 1 ∧ (tok 0 1).pay.lanes 1 = [LVal.scal 3] ∧ (¬(tok 0 1).lb ∈ (frPk 2).ended) ∧ parked 2 ∈ (frPk 2).parked ∧
    fAdd.ar = 2 ∧ (parked 2).slot = fAdd.sl.toNat ∧ (parked 2).owner ≠ (tok 0 1).ix :=
  by decide +kernel
def talV : TAlloc := { tal with f := fld 0 .h 0, g := 0, handle := some h0, param := 0x1800C000000 }
def sTalV : State := { (wb frV).onMtile 32 (fun c => { c with allocq := [talV] }) with arg := { tile := 32 }, issuing := none }
theorem witness_Allocations_tviewgrant :
    sTalV.arg.tile = 32 ∧ (sTalV.mtile 32).allocq = [talV] ∧ talV.handle = some h0 ∧
    (sTalV.mtile 32).dfifo.take 512 = some (2, { fresh := 3 }) ∧
    (sTalV.mtile 32).usedOf talV.firing.ctx + talV.g ≤ (sTalV.mtile 32).quotaOf talV.firing.ctx ∧
    ((sTalV.mtile 32).desc (if ((sTalV.mtile 32).desc (hDesc h0)).view = true then ((sTalV.mtile 32).desc (hDesc h0)).root else hDesc h0)).refs < 65535 ∧
    (if ((sTalV.mtile 32).desc (hDesc h0)).view = true then ((sTalV.mtile 32).desc (hDesc h0)).root else hDesc h0) ≠ 2 :=
  by decide +kernel
theorem witness_TokenMatching_tm6 :
    (sTok (tok 0 0) (frPk 2)).arg.tile = (tok 0 0).dst ∧
    Option.map (·.tok) ((sTok (tok 0 0) (frPk 2)).tile (tok 0 0).dst).inputs[(sTok (tok 0 0) (frPk 2)).arg.n]? = some (tok 0 0) ∧
    tokenNext (sTok (tok 0 0) (frPk 2)) (tok 0 0).dst (sTok (tok 0 0) (frPk 2)).arg.n = true ∧
    ((sTok (tok 0 0) (frPk 2)).tile (tok 0 0).dst).took ≤ (sTok (tok 0 0) (frPk 2)).clk ∧
    ((sTok (tok 0 0) (frPk 2)).tile (tok 0 0).dst).held = [] ∧
    (sTok (tok 0 0) (frPk 2)).frozenAt (tok 0 0).dst (tok 0 0).ctx = false ∧
    (sTok (tok 0 0) (frPk 2)).tileDead (tok 0 0).dst = false ∧
    ((sTok (tok 0 0) (frPk 2)).tile (tok 0 0).dst).entry (tok 0 0).ctx (tok 0 0).blk = some entM ∧
    (sTok (tok 0 0) (frPk 2)).frame? (tok 0 0).dst (tok 0 0).fi = some (frPk 2) ∧ (frPk 2).st = FState.live ∧
    (tok 0 0).link = false ∧ entM.block.fields? (tok 0 0).ix = some (16, fAdd) ∧ 16 ≠ 5 ∧ isChained 16 fAdd = false ∧
    (tok 0 0).rl = 1 ∧ (tok 0 0).pay.lanes 1 = [LVal.scal 3] ∧ (¬(tok 0 0).lb ∈ (frPk 2).ended) ∧ parked 2 ∈ (frPk 2).parked ∧
    fAdd.sl.toNat ≤ (parked 2).slot ∧ (parked 2).slot + 1 < fAdd.sl.toNat + fAdd.ar.toNat ∧ (parked 2).lane = (tok 0 0).lb ∧
    (parked 2).port = (tok 0 0).port :=
  by decide +kernel

end Buffers

/-! ## Issue -/

namespace Issue

def addW : Word := 0x1003800081000000
def notW : Word := 0x2303400081000000
def blkM : Block := { placedBlock 0 with words := [addW, notW, 0x1003800000000000] }
def entM : Entry := { ctx := 0, blk := 0, block := blkM }
def fAdd : Fields := { fld 0 .i32 0 with d0 := some { ix := 1, port := 0 }, d1 := none }
def fNot : Fields := { fld 0 .i32 0 1 with d0 := some { ix := 1, port := 0 }, d1 := none }
def tok (ix port : Nat) : Token := { dst := 0, ctx := 0, fi := 0, blk := 0, ix := ix, port := port, lb := 0, rl := 1, pay := .scalar 3 }
def sTok (k : Token) (x : Frame := placedFrame) : State :=
  { idle.onTile 0 (fun c => { (c.setFrame 0 x) with entries := [(0, entM)], inputs := [{ via := .mesh, clk := 0, tok := k }] }) with arg := { tile := 0, n := 0 } }
def endFr : Frame := { placedFrame with st := .ending }
def parked (o : Nat) : Parked := { slot := 0, lane := 0, port := 0, owner := o, val := .scal 5 }
def frPk (o : Nat) : Frame := { placedFrame with parked := [parked o] }
def wb (fr : Firing) (x : Desc := buf 0) (y : Desc := buf 0 1) : State := buffers (world fr) x y
def frQ (ix blk : Nat) : Firing := { firing [[.scal 1], [.scal 2]] with ix := ix, blk := blk }
def blkP (p : Nat) : Block := { blkM with pri := p }
/-- Tile 0 with two blocks of priority 1 and 0, a frame of each, and a change. -/
def sQ (g : CTile → CTile) : State :=
  idle.onTile 0 fun c => g { c with entries := [(0, { entM with block := blkP 1 }), (1, { entM with blk := 1, block := blkP 0 })] }
def fNoD : Fields := { fld 0 .i32 0 with d0 := none, d1 := none }
def st_held : State := sQ fun c => { c with held := [frQ 0 0] }
theorem witness_IssueEvents_held :
    st_held.arg.tile = 0 ∧ (st_held.tile 0).held = [frQ 0 0] ∧ (frQ 0 0).tile = 0 ∧ st_held.fieldsOf (frQ 0 0) = some (16, fAdd) ∧
    isChained 16 fAdd = false ∧
    ((st_held.tile 0).queue (queueOf (frQ 0 0) 16 fAdd)).ents.length < (queueOf (frQ 0 0) 16 fAdd).depth :=
  by decide +kernel
def sG (g : Nat) : State := sQ fun c => { c with qlane := { ents := [(3, frQ 0 0), (1, frQ 0 1)], g := g } }
def c1 : Firing × Nat × List Nat := (frQ 0 0, 1, [3, 0, 0, 0])
def c2 : Firing × Nat × List Nat := (frQ 0 1, 0, [1, 1, 0, 0])
theorem witness_IssueEvents_issue1 :
    (sG 63).arg.tile = 0 ∧ (sG 63).arg.q ≠ QId.mat ∧ ((sG 63).arg.q = QId.lane → ((sG 63).tile 0).lubusy ≤ (sG 63).clk) ∧
    c1 ∈ List.filterMap (candidate (sG 63) (sG 63).arg.q) (((sG 63).tile 0).queue (sG 63).arg.q).ents ∧
    (∀ (y : Firing × Nat × List Nat), y ∈ List.filterMap (candidate (sG 63) (sG 63).arg.q) (((sG 63).tile 0).queue (sG 63).arg.q).ents → y = c1 ∨ before36 c1 y = true) ∧
    (((sG 63).tile 0).queue (sG 63).arg.q).g < 64 :=
  by decide +kernel
theorem witness_IssueEvents_issue2 :
    (sG 64).arg.tile = 0 ∧ (sG 64).arg.q ≠ QId.mat ∧ ((sG 64).arg.q = QId.lane → ((sG 64).tile 0).lubusy ≤ (sG 64).clk) ∧
    c1 ∈ List.filterMap (candidate (sG 64) (sG 64).arg.q) (((sG 64).tile 0).queue (sG 64).arg.q).ents ∧
    (∀ (y : Firing × Nat × List Nat), y ∈ List.filterMap (candidate (sG 64) (sG 64).arg.q) (((sG 64).tile 0).queue (sG 64).arg.q).ents → y = c1 ∨ before36 c1 y = true) ∧
    c2 ∈ List.filterMap (candidate (sG 64) (sG 64).arg.q) (((sG 64).tile 0).queue (sG 64).arg.q).ents ∧
    (((sG 64).tile 0).queue (sG 64).arg.q).g = 64 ∧
    (∃ p, p ∈ List.filterMap (waitingPri (sG 64)) (((sG 64).tile 0).queue (sG 64).arg.q).ents ∧ c2.snd.fst < p) ∧
    (∀ (z : Firing × Nat × List Nat), z ∈ List.filterMap (candidate (sG 64) (sG 64).arg.q) (((sG 64).tile 0).queue (sG 64).arg.q).ents → (∃ p, p ∈ List.filterMap (waitingPri (sG 64)) (((sG 64).tile 0).queue (sG 64).arg.q).ents ∧ z.snd.fst < p) → z = c2 ∨ c2.snd.snd < z.snd.snd) :=
  by decide +kernel
def ldW : Word := 0x900B40008700000C
def frLd : Firing := { firing [[.scal 0]] with ix := 3 }
def fLd : Fields := { fld 0 .f32 0x00C 1 with d0 := some { ix := 7, port := 0 }, d1 := none }
def sCh : State := (sQ fun c => { c with chainHold := [frLd] }).onTile 0 fun c => { c with entries := [(0, { entM with block := { blkM with words := [addW, notW, addW, ldW] } })] }
theorem witness_IssueEvents_chain :
    sCh.arg.tile = 0 ∧ (sCh.tile 0).chainHold = [frLd] ∧ sCh.fieldsOf frLd = some (144, fLd) ∧
    eligible sCh QId.port frLd 144 fLd = true :=
  by decide +kernel
def sLo (st : FState) : State := sQ fun c => { (c.setFrame 0 { placedFrame with st := st }) with laneOut := [[tok 1 0]] }
theorem witness_IssueEvents_lout1 :
    (sLo FState.live).arg.tile = 0 ∧ ((sLo FState.live).tile 0).laneOut[(sLo FState.live).arg.n]? = some [tok 1 0] ∧
    (∀ (k : Token), k ∈ [tok 1 0] → ∃ x, (sLo FState.live).frame? 0 k.fi = some x ∧ x.st = FState.live) :=
  by refine ⟨?_, ?_, (by intro k hk; simp only [List.mem_singleton] at hk; subst hk; exact ⟨placedFrame, by decide, by decide⟩)⟩ <;> decide +kernel
theorem witness_IssueEvents_lout2 :
    (sLo FState.ending).arg.tile = 0 ∧ ((sLo FState.ending).tile 0).laneOut[(sLo FState.ending).arg.n]? = some [tok 1 0] ∧
    (∀ (k : Token), k ∈ [tok 1 0] → ∀ (x : Frame), (sLo FState.ending).frame? 0 k.fi = some x → x.st = FState.ending) :=
  by refine ⟨?_, ?_, (by intro k hk x hx; simp only [List.mem_singleton] at hk; subst hk; have e : some { placedFrame with st := .ending } = some x := hx; cases e; rfl)⟩ <;> decide +kernel
def sKs : State := sQ fun c => { c with ksets := [(frQ 2 0, fLd, 7)] }
theorem witness_IssueEvents_kset :
    sKs.arg.tile = 0 ∧ (sKs.tile 0).ksets[sKs.arg.n]? = some (frQ 2 0, fLd, 7) ∧ sKs.blockOf (frQ 2 0) = some (blkP 1) ∧
    (frQ 2 0).tile = 0 ∧ sKs.regionAt 0 (frQ 2 0).ctx = some (1, 0, region0) :=
  by decide +kernel
def frA : Firing := firing [[.hand h0]]
def sAck : State := (buffers idle { buf 0 with refs := 65534 } (buf 0 1)).onTile 0 fun c => { c with acks := [(frA, [{ ix := 0, port := 0 }, { ix := 1, port := 0 }])] }
def twoD : List Dest := [{ ix := 0, port := 0 }, { ix := 1, port := 0 }]
theorem witness_IssueEvents_ack :
    sAck.arg.tile = 0 ∧ (sAck.tile 0).acks[sAck.arg.n]? = some (frA, twoD) ∧ frA.handles.head? = some h0 ∧ frA.tile = 0 ∧
    staleIn (((sAck.onTile 0 fun c => { c with acks := dropNth c.acks sAck.arg.n }).uncount frA Cnt.oto).mtile (home frA h0)) h0 = false ∧
    ((((sAck.onTile 0 fun c => { c with acks := dropNth c.acks sAck.arg.n }).uncount frA Cnt.oto).mtile (home frA h0)).desc (hDesc h0)).refs + (twoD.length - 1) ≤ 65535 :=
  by decide +kernel
def req0 : AllocReq := { seq := 3, owner := some 0, unit := { queue := 0, entry := 0, no := 0 }, ctx := 0, blk := 0, base := 7, argp := 0, ret := 0, lslot := 0, active := [0], toks := [tok 1 0] }
def sAl : State := (sQ fun c => { c with allocq := [(0, [req0])], tags := { fresh := 1 } })
theorem witness_FrameEvents_grant :
    sAl.arg.tile = 0 ∧ (req0.ctx, [req0]) ∈ (sAl.tile 0).allocq ∧ (sAl.tile 0).allocOf req0.ctx = [req0] ∧
    (∀ (p : Nat × List AllocReq), p ∈ (sAl.tile 0).allocq → ∀ (r' : AllocReq), p.snd.head? = some r' → r' = req0 ∨ req0.seq < r'.seq) ∧
    sAl.frozenAt 0 req0.ctx = false ∧ (sAl.tile 0).entry req0.ctx req0.blk = some { entM with block := blkP 1 } ∧
    (sAl.tile 0).usedOf req0.ctx + ({ entM with block := blkP 1 }).block.cells ≤ (sAl.tile 0).quotaOf req0.ctx ∧
    ({ entM with block := blkP 1 }).block.cells ≤ (sAl.tile 0).freeCells ∧ (sAl.tile 0).tags.take 4096 = some (1, { fresh := 2 }) ∧
    req0.loop = none :=
  by decide +kernel
def fGr (d : Bool) : Frame := { placedFrame with st := .granted, pend := [tok 1 0], doomed := d }
def sGr (d : Bool) : State := sQ fun c => c.setFrame 0 (fGr d)
theorem witness_FrameEvents_live1 :
    (sGr false).arg.tile = 0 ∧ (sGr false).frame? 0 (sGr false).arg.n = some (fGr false) ∧ (fGr false).st = FState.granted ∧
    (fGr false).doomed = false ∧ ((sGr false).tile 0).entry (fGr false).ctx (fGr false).blk = some { entM with block := blkP 1 } :=
  by decide +kernel
theorem witness_FrameEvents_live2 :
    (sGr true).arg.tile = 0 ∧ (sGr true).frame? 0 (sGr true).arg.n = some (fGr true) ∧ (fGr true).st = FState.granted ∧
    (fGr true).doomed = true :=
  by decide +kernel
def st_ret : State := sQ fun c => c.setFrame 0 endFr
theorem witness_FrameEvents_ret :
    st_ret.arg.tile = 0 ∧ st_ret.frame? 0 st_ret.arg.n = some endFr ∧ endFr.st = FState.ending ∧ endFr.old = 0 ∧ endFr.ost = 0 ∧
    endFr.ocp = 0 ∧ endFr.oto = 0 ∧ st_ret.sw.cancels = [] :=
  by decide +kernel
def dropW : Word := 0x0000400000000000
def img : Nat := 0xB7 * 2 ^ 120 + 2 ^ 116 + 1263350355 * 2 ^ 32 + dropW.toNat * 2 ^ 128
def bDrop : Block := { ns := 0, lw := 1, pri := 0, sys := false, strm := false, gbn := 0, digest := 1263350355, words := [dropW], consts := [] }
def regC (armed : Option Nat) (load : Option Load) : Region := {
  region0 with isc := 0, active := false, loading := load.isSome, armed := armed, load := load,
               cfgs := [{ iters := 4, next := 1, plcs := [{ rx := 0, ry := 0, blk := 2, gbn := 0 }] }, { iters := 3, next := 0x1FF, plcs := [] }] }
def gr (r : Region) : Graph := { jid := 1, img := 0, dir := [0], regions := [r] }
def sCf (r : Region) (tile : Nat := 0) (g : CTile → CTile := id) : State :=
  let s := (idle.writeN 0 24 img).onTile 0 fun c => g { c with frames := [], entries := [] }
  { s with sw := { sw0 with graphs := [(1, gr r)] }, arg := { n := 1, k := 0, v := 0, tile := tile } }
def rA (c : Nat) : Region := regC (some c) none
theorem witness_ConfigurationEvents_cf1 :
    (sCf (rA 511)).graph? (sCf (rA 511)).arg.n = some (gr (rA 511)) ∧
    (sCf (rA 511)).region? (sCf (rA 511)).arg.n (sCf (rA 511)).arg.k = some (rA 511) ∧ (rA 511).armed = some 511 ∧
    (gr (rA 511)).st = GState.bound ∧ (rA 511).load = none ∧ (rA 511).isc = 0 ∧
    (∀ (t : Nat), t ∈ (rA 511).computeTiles → (∀ (f : Nat × Frame), f ∈ ((sCf (rA 511)).tile t).frames → f.snd.ctx ≠ (rA 511).ctx) ∧ ((sCf (rA 511)).tile t).allocOf (rA 511).ctx = [] ∧ ∀ (k : Firing × Fields × Word), k ∈ ((sCf (rA 511)).tile t).ksets → k.fst.ctx ≠ (rA 511).ctx) ∧
    511 = 511 :=
  by decide +kernel
theorem witness_ConfigurationEvents_cf2 :
    (sCf (rA 1)).graph? (sCf (rA 1)).arg.n = some (gr (rA 1)) ∧
    (sCf (rA 1)).region? (sCf (rA 1)).arg.n (sCf (rA 1)).arg.k = some (rA 1) ∧ (rA 1).armed = some 1 ∧
    (gr (rA 1)).st = GState.bound ∧ (rA 1).load = none ∧ (rA 1).isc = 0 ∧
    (∀ (t : Nat), t ∈ (rA 1).computeTiles → (∀ (f : Nat × Frame), f ∈ ((sCf (rA 1)).tile t).frames → f.snd.ctx ≠ (rA 1).ctx) ∧ ((sCf (rA 1)).tile t).allocOf (rA 1).ctx = [] ∧ ∀ (k : Firing × Fields × Word), k ∈ ((sCf (rA 1)).tile t).ksets → k.fst.ctx ≠ (rA 1).ctx) ∧
    1 ≠ 511 ∧ (rA 1).cfgs[1]? = some { iters := 3, next := 511, plcs := [] } ∧
    (∀ (t : Nat), t ∈ (rA 1).computeTiles → missing (sCf (rA 1)) (rA 1) 1 t = []) :=
  by decide +kernel
theorem witness_ConfigurationEvents_cf3 :
    (sCf (rA 0)).graph? (sCf (rA 0)).arg.n = some (gr (rA 0)) ∧
    (sCf (rA 0)).region? (sCf (rA 0)).arg.n (sCf (rA 0)).arg.k = some (rA 0) ∧ (rA 0).armed = some 0 ∧
    (gr (rA 0)).st = GState.bound ∧ (rA 0).load = none ∧ (rA 0).isc = 0 ∧
    (∀ (t : Nat), t ∈ (rA 0).computeTiles → (∀ (f : Nat × Frame), f ∈ ((sCf (rA 0)).tile t).frames → f.snd.ctx ≠ (rA 0).ctx) ∧ ((sCf (rA 0)).tile t).allocOf (rA 0).ctx = [] ∧ ∀ (k : Firing × Fields × Word), k ∈ ((sCf (rA 0)).tile t).ksets → k.fst.ctx ≠ (rA 0).ctx) ∧
    0 ≠ 511 ∧ (∃ t, t ∈ (rA 0).computeTiles ∧ missing (sCf (rA 0)) (rA 0) 0 t ≠ []) :=
  by decide +kernel
def ld (fetch : List Nat) (got : List (Nat × Block)) (bad : Bool) : Load := { target := 0, fetch := fetch, got := got, tiles := [0], failed := bad }
def rL (l : Load) : Region := regC (some 0) (some l)
def l2 : Load := ld [0, 5] [] false
def lB : Load := ld [0] [] true
def l1 : Load := ld [0] [] false
def lG : Load := ld [] [(0, bDrop)] false
theorem witness_ConfigurationEvents_cf4 :
    (sCf (rL l2)).graph? (sCf (rL l2)).arg.n = some (gr (rL l2)) ∧
    (sCf (rL l2)).region? (sCf (rL l2)).arg.n (sCf (rL l2)).arg.k = some (rL l2) ∧ (rL l2).load = some l2 ∧
    l2.fetch[(sCf (rL l2)).arg.v]? = some 0 ∧
    Ready (sCf (rL l2)) (gr (rL l2)).jid (w64 (addr (w64 (gr (rL l2)).img) + (gr (rL l2)).dir.getD 0 0)) (blockSpan (sCf (rL l2)) (gr (rL l2)).jid (addr (w64 (gr (rL l2)).img) + (gr (rL l2)).dir.getD 0 0) 0) Need.x ∧
    fetchBlock (sCf (rL l2)) (gr (rL l2)).jid (addr (w64 (gr (rL l2)).img) + (gr (rL l2)).dir.getD 0 0) 0 = Except.ok bDrop ∧
    1 < l2.fetch.length :=
  by refine ⟨?_, ?_, ?_, ?_, ?_, ok_of ?_, ?_⟩ <;> decide +kernel
theorem witness_ConfigurationEvents_cf5 :
    (sCf (rL lB)).graph? (sCf (rL lB)).arg.n = some (gr (rL lB)) ∧
    (sCf (rL lB)).region? (sCf (rL lB)).arg.n (sCf (rL lB)).arg.k = some (rL lB) ∧ (rL lB).load = some lB ∧
    lB.fetch[(sCf (rL lB)).arg.v]? = some 0 ∧
    Ready (sCf (rL lB)) (gr (rL lB)).jid (w64 (addr (w64 (gr (rL lB)).img) + (gr (rL lB)).dir.getD 0 0)) (blockSpan (sCf (rL lB)) (gr (rL lB)).jid (addr (w64 (gr (rL lB)).img) + (gr (rL lB)).dir.getD 0 0) 0) Need.x ∧
    fetchBlock (sCf (rL lB)) (gr (rL lB)).jid (addr (w64 (gr (rL lB)).img) + (gr (rL lB)).dir.getD 0 0) 0 = Except.ok bDrop ∧
    lB.fetch.length = 1 ∧ lB.failed = true :=
  by refine ⟨?_, ?_, ?_, ?_, ?_, ok_of ?_, ?_, ?_⟩ <;> decide +kernel
def cfg0 : Cfg := { iters := 4, next := 1, plcs := [{ rx := 0, ry := 0, blk := 2, gbn := 0 }] }
theorem witness_ConfigurationEvents_cf6 :
    (sCf (rL l1)).graph? (sCf (rL l1)).arg.n = some (gr (rL l1)) ∧
    (sCf (rL l1)).region? (sCf (rL l1)).arg.n (sCf (rL l1)).arg.k = some (rL l1) ∧ (rL l1).load = some l1 ∧ l1.failed = false ∧
    l1.tiles = [0] ∧ missing (sCf (rL l1)) (rL l1) l1.target 0 = [(2, 0)] ∧ (rL l1).cfgs[l1.target]? = some cfg0 ∧
    List.length ((sCf (rL l1)).tile 0).entries < 16 ∧ (∃ i, i < 16 ∧ ((sCf (rL l1)).tile 0).entries.get? i = none) ∧
    List.find? (fun x => x.fst == 0) l1.got = none ∧ l1.fetch = [0] ∧ (sCf (rL l1)).arg.v = 0 ∧
    ((sCf (rL l1)).tile 0).loadWait = [] ∧
    Ready (sCf (rL l1)) (gr (rL l1)).jid (w64 (addr (w64 (gr (rL l1)).img) + (gr (rL l1)).dir.getD 0 0)) (blockSpan (sCf (rL l1)) (gr (rL l1)).jid (addr (w64 (gr (rL l1)).img) + (gr (rL l1)).dir.getD 0 0) 0) Need.x ∧
    fetchBlock (sCf (rL l1)) (gr (rL l1)).jid (addr (w64 (gr (rL l1)).img) + (gr (rL l1)).dir.getD 0 0) 0 = Except.ok bDrop :=
  by refine ⟨?_, ?_, ?_, ?_, ?_, ?_, ⟨?_, ?_, ?_, ?_, ?_, ?_, ⟨?_, ?_, ok_of ?_⟩⟩⟩ <;> decide +kernel
def sLw : State := sCf (rL lG) 0 fun c => { c with loadWait := [(1, 0)] }
theorem witness_ConfigurationEvents_cf7 :
    sLw.graph? sLw.arg.n = some (gr (rL lG)) ∧ sLw.region? sLw.arg.n sLw.arg.k = some (rL lG) ∧ (rL lG).load = some lG ∧
    lG.failed = false ∧ lG.tiles = [0] ∧ missing sLw (rL lG) lG.target 0 = [(2, 0)] ∧ (rL lG).cfgs[lG.target]? = some cfg0 ∧
    List.length (sLw.tile 0).entries < 16 ∧ (∃ i, i < 16 ∧ (sLw.tile 0).entries.get? i = none) ∧
    List.find? (fun x => x.fst == 0) lG.got = some (0, bDrop) ∧ sLw.arg.tile = 0 ∧ (sLw.tile 0).loadWait = [(sLw.arg.n, sLw.arg.k)] :=
  by decide +kernel
def loopL (ls : List (Nat × LVal)) (j : Nat) : LoopSt := { firing := frQ 0 0, d1 := none, ar := 1, ix := 0, port := 0, loops := ls, j := j }
def loopR (ls : List (Nat × LVal)) (j : Nat) : AllocReq := { req0 with loop := some (loopL ls j) }
def entP : Entry := { entM with block := blkP 1 }
def sLoop (ls : List (Nat × LVal)) (j : Nat) : State := sQ fun c => { c with allocq := [(0, [loopR ls j])], tags := { fresh := 1 } }
theorem witness_FrameRequests_loopnext :
    (sLoop [(3, LVal.scal 9)] 0).arg.tile = 0 ∧
    ((loopR [(3, LVal.scal 9)] 0).ctx, [loopR [(3, LVal.scal 9)] 0]) ∈ ((sLoop [(3, LVal.scal 9)] 0).tile 0).allocq ∧
    ((sLoop [(3, LVal.scal 9)] 0).tile 0).allocOf (loopR [(3, LVal.scal 9)] 0).ctx = [loopR [(3, LVal.scal 9)] 0] ∧
    (∀ (p : Nat × List AllocReq), p ∈ ((sLoop [(3, LVal.scal 9)] 0).tile 0).allocq → ∀ (r' : AllocReq), p.snd.head? = some r' → r' = loopR [(3, LVal.scal 9)] 0 ∨ (loopR [(3, LVal.scal 9)] 0).seq < r'.seq) ∧
    (sLoop [(3, LVal.scal 9)] 0).frozenAt 0 (loopR [(3, LVal.scal 9)] 0).ctx = false ∧
    ((sLoop [(3, LVal.scal 9)] 0).tile 0).entry (loopR [(3, LVal.scal 9)] 0).ctx (loopR [(3, LVal.scal 9)] 0).blk = some entP ∧
    ((sLoop [(3, LVal.scal 9)] 0).tile 0).usedOf (loopR [(3, LVal.scal 9)] 0).ctx + entP.block.cells ≤ ((sLoop [(3, LVal.scal 9)] 0).tile 0).quotaOf (loopR [(3, LVal.scal 9)] 0).ctx ∧
    entP.block.cells ≤ ((sLoop [(3, LVal.scal 9)] 0).tile 0).freeCells ∧
    ((sLoop [(3, LVal.scal 9)] 0).tile 0).tags.take 4096 = some (1, { fresh := 2 }) ∧
    (loopR [(3, LVal.scal 9)] 0).loop = some (loopL [(3, LVal.scal 9)] 0) ∧
    (loopL [(3, LVal.scal 9)] 0).loops = [(3, LVal.scal 9)] ∧ (∀ (p : Nat × LVal), p ∈ [] → 0 < p.fst) ∧
    ((loopL [(3, LVal.scal 9)] 0).j + 1) * entP.block.lw < 3 :=
  by decide +kernel
theorem witness_FrameRequests_looplane :
    (sLoop [(1, LVal.scal 9), (2, LVal.scal 8)] 0).arg.tile = 0 ∧
    ((loopR [(1, LVal.scal 9), (2, LVal.scal 8)] 0).ctx, [loopR [(1, LVal.scal 9), (2, LVal.scal 8)] 0]) ∈ ((sLoop [(1, LVal.scal 9), (2, LVal.scal 8)] 0).tile 0).allocq ∧
    ((sLoop [(1, LVal.scal 9), (2, LVal.scal 8)] 0).tile 0).allocOf (loopR [(1, LVal.scal 9), (2, LVal.scal 8)] 0).ctx = [loopR [(1, LVal.scal 9), (2, LVal.scal 8)] 0] ∧
    (∀ (p : Nat × List AllocReq), p ∈ ((sLoop [(1, LVal.scal 9), (2, LVal.scal 8)] 0).tile 0).allocq → ∀ (r' : AllocReq), p.snd.head? = some r' → r' = loopR [(1, LVal.scal 9), (2, LVal.scal 8)] 0 ∨ (loopR [(1, LVal.scal 9), (2, LVal.scal 8)] 0).seq < r'.seq) ∧
    (sLoop [(1, LVal.scal 9), (2, LVal.scal 8)] 0).frozenAt 0 (loopR [(1, LVal.scal 9), (2, LVal.scal 8)] 0).ctx = false ∧
    ((sLoop [(1, LVal.scal 9), (2, LVal.scal 8)] 0).tile 0).entry (loopR [(1, LVal.scal 9), (2, LVal.scal 8)] 0).ctx (loopR [(1, LVal.scal 9), (2, LVal.scal 8)] 0).blk = some entP ∧
    ((sLoop [(1, LVal.scal 9), (2, LVal.scal 8)] 0).tile 0).usedOf (loopR [(1, LVal.scal 9), (2, LVal.scal 8)] 0).ctx + entP.block.cells ≤ ((sLoop [(1, LVal.scal 9), (2, LVal.scal 8)] 0).tile 0).quotaOf (loopR [(1, LVal.scal 9), (2, LVal.scal 8)] 0).ctx ∧
    entP.block.cells ≤ ((sLoop [(1, LVal.scal 9), (2, LVal.scal 8)] 0).tile 0).freeCells ∧
    ((sLoop [(1, LVal.scal 9), (2, LVal.scal 8)] 0).tile 0).tags.take 4096 = some (1, { fresh := 2 }) ∧
    (loopR [(1, LVal.scal 9), (2, LVal.scal 8)] 0).loop = some (loopL [(1, LVal.scal 9), (2, LVal.scal 8)] 0) ∧
    (loopL [(1, LVal.scal 9), (2, LVal.scal 8)] 0).loops = [(1, LVal.scal 9), (2, LVal.scal 8)] ∧
    (∀ (p : Nat × LVal), p ∈ [(2, LVal.scal 8)] → 0 < p.fst) ∧
    1 ≤ ((loopL [(1, LVal.scal 9), (2, LVal.scal 8)] 0).j + 1) * entP.block.lw ∧ [(2, LVal.scal 8)] = [(2, LVal.scal 8)] :=
  by decide +kernel
theorem witness_FrameRequests_loopend :
    (sLoop [(1, LVal.scal 9)] 0).arg.tile = 0 ∧
    ((loopR [(1, LVal.scal 9)] 0).ctx, [loopR [(1, LVal.scal 9)] 0]) ∈ ((sLoop [(1, LVal.scal 9)] 0).tile 0).allocq ∧
    ((sLoop [(1, LVal.scal 9)] 0).tile 0).allocOf (loopR [(1, LVal.scal 9)] 0).ctx = [loopR [(1, LVal.scal 9)] 0] ∧
    (∀ (p : Nat × List AllocReq), p ∈ ((sLoop [(1, LVal.scal 9)] 0).tile 0).allocq → ∀ (r' : AllocReq), p.snd.head? = some r' → r' = loopR [(1, LVal.scal 9)] 0 ∨ (loopR [(1, LVal.scal 9)] 0).seq < r'.seq) ∧
    (sLoop [(1, LVal.scal 9)] 0).frozenAt 0 (loopR [(1, LVal.scal 9)] 0).ctx = false ∧
    ((sLoop [(1, LVal.scal 9)] 0).tile 0).entry (loopR [(1, LVal.scal 9)] 0).ctx (loopR [(1, LVal.scal 9)] 0).blk = some entP ∧
    ((sLoop [(1, LVal.scal 9)] 0).tile 0).usedOf (loopR [(1, LVal.scal 9)] 0).ctx + entP.block.cells ≤ ((sLoop [(1, LVal.scal 9)] 0).tile 0).quotaOf (loopR [(1, LVal.scal 9)] 0).ctx ∧
    entP.block.cells ≤ ((sLoop [(1, LVal.scal 9)] 0).tile 0).freeCells ∧
    ((sLoop [(1, LVal.scal 9)] 0).tile 0).tags.take 4096 = some (1, { fresh := 2 }) ∧
    (loopR [(1, LVal.scal 9)] 0).loop = some (loopL [(1, LVal.scal 9)] 0) ∧
    (loopL [(1, LVal.scal 9)] 0).loops = [(1, LVal.scal 9)] ∧ (∀ (p : Nat × LVal), p ∈ [] → 0 < p.fst) ∧
    1 ≤ ((loopL [(1, LVal.scal 9)] 0).j + 1) * entP.block.lw ∧ ([] : List (Nat × LVal)) = [] :=
  by decide +kernel

end Issue

/-! ## Rows -/

namespace Rows

/-- A handle of descriptor 2. -/
def h2 : Word := mkHandle 32 2 0 0 2 0 false false false false
/-- Three buffers in descriptors 0, 1 and 2. -/
def three (s : State) (x y z : Desc) : State :=
  s.setMtile 32 { descs := [(0, x), (1, y), (2, z)], dfifo := { fresh := 3 }, owned := [0, 1, 2] }
def unitBuf (fmt g : Nat) (sh : Nat) : Desc := { buf fmt g with shape := BitVec.ofNat 64 (sh + fmt * 2 ^ 26 + 16 * 2 ^ 32) }
def frR : Firing := firing [[.hand h0], [.hand h1], [.hand h2]]
def frR2 : Firing := firing [[.hand h0], [.hand h1]]
def sR (fr : Firing) (a b c : Nat) : State := three (world fr) (buf a) (buf b 1) (buf c 2)
def f3 : Fields := fld 0 .h 0 3
theorem witness_RowUnitIssue_ri1 :
    Spec.One (sR frR 0 1 3) frR ∧ Uses (sR frR 0 1 3) frR 0 h0 true false ∧ Uses (sR frR 0 1 3) frR 1 h1 true false ∧
    Uses (sR frR 0 1 3) frR 2 h2 true true ∧ Fits (desc (sR frR 0 1 3) frR h2) (desc (sR frR 0 1 3) frR h0) ∧
    Fits (desc (sR frR 0 1 3) frR h2) (desc (sR frR 0 1 3) frR h1) ∧ Class false (desc (sR frR 0 1 3) frR h0) ∧
    Class false (desc (sR frR 0 1 3) frR h1) ∧ Class false (desc (sR frR 0 1 3) frR h2) :=
  by decide +kernel
def st_ri1b : State := three (world frR) (unitBuf 25 0 0x6000) (unitBuf 26 1 3) (buf 25 2)
theorem witness_RowUnitIssue_ri1b :
    Spec.One st_ri1b frR ∧ Uses st_ri1b frR 0 h0 true false ∧ Uses st_ri1b frR 1 h1 true false ∧ Uses st_ri1b frR 2 h2 true true ∧
    Fits (desc st_ri1b frR h2) (desc st_ri1b frR h0) ∧ Fits (desc st_ri1b frR h2) (desc st_ri1b frR h1) ∧
    Class true (desc st_ri1b frR h0) ∧ Class true (desc st_ri1b frR h1) ∧ Class true (desc st_ri1b frR h2) :=
  by decide +kernel
theorem witness_RowUnitIssue_ri2 :
    Spec.One (sR frR 0 1 24) frR ∧ Uses (sR frR 0 1 24) frR 0 h0 true false ∧ Uses (sR frR 0 1 24) frR 1 h1 true false ∧
    Uses (sR frR 0 1 24) frR 2 h2 true true ∧ Fits (desc (sR frR 0 1 24) frR h2) (desc (sR frR 0 1 24) frR h0) ∧
    Fits (desc (sR frR 0 1 24) frR h2) (desc (sR frR 0 1 24) frR h1) ∧ Class false (desc (sR frR 0 1 24) frR h0) ∧
    Class false (desc (sR frR 0 1 24) frR h1) ∧ MaskFmt (desc (sR frR 0 1 24) frR h2) :=
  by decide +kernel
theorem witness_RowUnitIssue_ri3 :
    Spec.One (sR frR 26 25 25) frR ∧ Uses (sR frR 26 25 25) frR 0 h0 true false ∧ Uses (sR frR 26 25 25) frR 1 h1 true false ∧
    Uses (sR frR 26 25 25) frR 2 h2 true true ∧ Fits (desc (sR frR 26 25 25) frR h2) (desc (sR frR 26 25 25) frR h0) ∧
    Fits (desc (sR frR 26 25 25) frR h2) (desc (sR frR 26 25 25) frR h1) ∧ MaskFmt (desc (sR frR 26 25 25) frR h0) ∧
    Class true (desc (sR frR 26 25 25) frR h1) ∧ Class true (desc (sR frR 26 25 25) frR h2) :=
  by decide +kernel
def withK (s : State) (ks : List Word) : State := s.onTile 0 fun c => { c with entries := [(0, { ctx := 0, blk := 0, block := { placedBlock 0 with consts := ks } })] }
theorem witness_RowUnitIssue_ri4 :
    Spec.One (withK (sR frR 0 1 3) [0]) frR ∧ Uses (withK (sR frR 0 1 3) [0]) frR 0 h0 true false ∧
    Uses (withK (sR frR 0 1 3) [0]) frR 1 h1 true false ∧ Uses (withK (sR frR 0 1 3) [0]) frR 2 h2 true true ∧
    Fits (desc (withK (sR frR 0 1 3) [0]) frR h2) (desc (withK (sR frR 0 1 3) [0]) frR h0) ∧
    Fits (desc (withK (sR frR 0 1 3) [0]) frR h2) (desc (withK (sR frR 0 1 3) [0]) frR h1) ∧
    Class false (desc (withK (sR frR 0 1 3) [0]) frR h0) ∧ Class false (desc (withK (sR frR 0 1 3) [0]) frR h1) ∧
    Class false (desc (withK (sR frR 0 1 3) [0]) frR h2) ∧ f3.ar = 3 ∧
    (∀ (w : Word), w ∈ chainWords (withK (sR frR 0 1 3) [0]) frR f3 → stepOk true w = true) :=
  by refine ⟨?_, ?_, ?_, ?_, ?_, ?_, ⟨?_, ?_, ?_, ?_, (by simp only [← List.all_eq_true]; decide +kernel)⟩⟩ <;> decide +kernel
theorem witness_RowUnitIssue_ri5 :
    Spec.One (sR frR2 25 26 0) frR2 ∧ Uses (sR frR2 25 26 0) frR2 0 h0 true false ∧ Uses (sR frR2 25 26 0) frR2 1 h1 true true ∧
    Fits (desc (sR frR2 25 26 0) frR2 h1) (desc (sR frR2 25 26 0) frR2 h0) ∧ Class true (desc (sR frR2 25 26 0) frR2 h0) ∧
    Class true (desc (sR frR2 25 26 0) frR2 h1) :=
  by decide +kernel
theorem witness_RowUnitIssue_ri6 :
    Spec.One (sR frR2 0 3 0) frR2 ∧ Uses (sR frR2 0 3 0) frR2 0 h0 true false ∧ Uses (sR frR2 0 3 0) frR2 1 h1 true true ∧
    Fits (desc (sR frR2 0 3 0) frR2 h1) (desc (sR frR2 0 3 0) frR2 h0) ∧ Class false (desc (sR frR2 0 3 0) frR2 h0) ∧
    Class false (desc (sR frR2 0 3 0) frR2 h1) :=
  by decide +kernel
theorem witness_RowUnitIssue_ri7 :
    Spec.One (withK (sR frR2 0 3 0) [3]) frR2 ∧ Uses (withK (sR frR2 0 3 0) [3]) frR2 0 h0 true false ∧
    Uses (withK (sR frR2 0 3 0) [3]) frR2 1 h1 true true ∧
    Fits (desc (withK (sR frR2 0 3 0) [3]) frR2 h1) (desc (withK (sR frR2 0 3 0) [3]) frR2 h0) ∧
    Class false (desc (withK (sR frR2 0 3 0) [3]) frR2 h0) ∧ Class false (desc (withK (sR frR2 0 3 0) [3]) frR2 h1) ∧
    (fld 0 Ty.h 0).ar = 2 ∧ (∀ (w : Word), w ∈ chainWords (withK (sR frR2 0 3 0) [3]) frR2 (fld 0 Ty.h 0) → stepOk false w = true) :=
  by refine ⟨?_, ?_, ?_, ?_, ?_, ?_, ?_, (by simp only [← List.all_eq_true]; decide +kernel)⟩ <;> decide +kernel
def sRed (sh : Nat) : State := three (world frR2) (buf 0) (unitBuf 0 1 sh) (buf 0 2)
theorem witness_RowUnitIssue_ri8 :
    Spec.One (sRed 3) frR2 ∧ Uses (sRed 3) frR2 0 h0 true false ∧ Uses (sRed 3) frR2 1 h1 true true ∧
    Class false (desc (sRed 3) frR2 h0) ∧ Class false (desc (sRed 3) frR2 h1) ∧
    (if xbits (fld 0 Ty.h 0).x 4 1 = 0 then tRows (desc (sRed 3) frR2 h1).shape = tRows (desc (sRed 3) frR2 h0).shape ∧ tCols (desc (sRed 3) frR2 h1).shape = 1 else tCols (desc (sRed 3) frR2 h1).shape = tCols (desc (sRed 3) frR2 h0).shape ∧ tRows (desc (sRed 3) frR2 h1).shape = 1) :=
  by decide +kernel
theorem witness_RowUnitIssue_ri8b :
    Spec.One (sRed 24576) frR2 ∧ Uses (sRed 24576) frR2 0 h0 true false ∧ Uses (sRed 24576) frR2 1 h1 true true ∧
    Class false (desc (sRed 24576) frR2 h0) ∧ Class false (desc (sRed 24576) frR2 h1) ∧
    (if xbits (fld 0 Ty.h 16).x 4 1 = 0 then tRows (desc (sRed 24576) frR2 h1).shape = tRows (desc (sRed 24576) frR2 h0).shape ∧ tCols (desc (sRed 24576) frR2 h1).shape = 1 else tCols (desc (sRed 24576) frR2 h1).shape = tCols (desc (sRed 24576) frR2 h0).shape ∧ tRows (desc (sRed 24576) frR2 h1).shape = 1) :=
  by decide +kernel
theorem witness_RowUnitIssue_ri9 :
    Spec.One (sR frR2 8 25 0) frR2 ∧ Uses (sR frR2 8 25 0) frR2 0 h0 true false ∧ Uses (sR frR2 8 25 0) frR2 1 h1 true true ∧
    cvtFmtOk (bufOf (sR frR2 8 25 0) (tileDie frR2.tile) h0) = true ∧
    cvtFmtOk (bufOf (sR frR2 8 25 0) (tileDie frR2.tile) h1) = true ∧
    cvtScaleOk (sR frR2 8 25 0) (xbits (fld 0 Ty.h 0).x 4 1) (bufOf (sR frR2 8 25 0) (tileDie frR2.tile) h0) = true ∧
    cvtScaleOk (sR frR2 8 25 0) (xbits (fld 0 Ty.h 0).x 4 1) (bufOf (sR frR2 8 25 0) (tileDie frR2.tile) h1) = true ∧
    Fits (desc (sR frR2 8 25 0) frR2 h1) (desc (sR frR2 8 25 0) frR2 h0) :=
  by decide +kernel
theorem witness_RowUnitIssue_ri10 :
    Spec.One (sR frR2 4 4 0) frR2 ∧ Uses (sR frR2 4 4 0) frR2 0 h0 true false ∧ Uses (sR frR2 4 4 0) frR2 1 h1 true true ∧
    field (desc (sR frR2 4 4 0) frR2 h0).shape 26 6 = field (desc (sR frR2 4 4 0) frR2 h1).shape 26 6 ∧
    tRows (desc (sR frR2 4 4 0) frR2 h0).shape = tRows (desc (sR frR2 4 4 0) frR2 h1).shape ∧
    tCols (desc (sR frR2 4 4 0) frR2 h0).shape = tCols (desc (sR frR2 4 4 0) frR2 h1).shape ∧
    (tBits (desc (sR frR2 4 4 0) frR2 h0).shape = 8 ∨ tBits (desc (sR frR2 4 4 0) frR2 h0).shape = 16 ∨ tBits (desc (sR frR2 4 4 0) frR2 h0).shape = 32) :=
  by decide +kernel
def idWords : List Word := (List.range 6).map fun i => BitVec.ofNat 64 (idPerm / 2 ^ (64 * i))
def frB : Firing := firing [[.scal 0]]
theorem witness_RowUnitIssue_ri11 :
    Spec.One (withK (world frB) idWords) frB ∧
    (∀ (v : Nat), v < 64 → ∃ n, n < 64 ∧ permAt (benPerm (withK (world frB) idWords) frB (fld 0 Ty.h 0)) n = v) :=
  by decide +kernel
def frPo : Firing := firing [[.pois { w0 := 8, w1 := 0 }]]
theorem witness_RowUnitIssue_ri12 :
    (world frPo).issuing = some frPo ∧ (world frPo).detected = [] ∧ frPo.rl = 1 ∧ poisonAt frPo.ops 0 = some { w0 := 8, w1 := 0 } ∧
    Instr.tadd f3 ∈ [Instr.tadd f3, Instr.tsub f3, Instr.tmul f3, Instr.tfma f3, Instr.tscal f3, Instr.tminmax f3, Instr.tact f3, Instr.tred f3, Instr.tcvt f3, Instr.tchain f3, Instr.benset f3, Instr.tperm f3, Instr.tcmp f3, Instr.tmsel f3] :=
  by decide +kernel
def op (fr : Firing) (f : Fields) (st : Bool) (bad : Option PRec := none) : RuOp := { firing := fr, f := f, lane := 0, bad := bad, started := st }
def taddW : Word := 0x600DC00084000000
def tsclW : Word := 0x640DC00084000000
def benW : Word := 0x6A00400000000000
def sRu (w : Word) (s : State) (o : RuOp) : State :=
  { s.onTile 0 (fun c => { c with entries := [(0, { ctx := 0, blk := 0, block := placedBlock w.toNat })], ruOps := [o] }) with issuing := none, arg := { tile := 0 } }
def st_re0 : State := sRu taddW (sR frR 0 1 3) (op frR f3 false)
theorem witness_RowUnitEvents_re0 :
    st_re0.arg.tile = 0 ∧ (st_re0.tile 0).ruOps = [op frR f3 false] ∧ st_re0.early = [] ∧ st_re0.arg.words = [] ∧
    (op frR f3 false).done = false ∧ (op frR f3 false).started = false :=
  by decide +kernel
def st_re1 : State := sRu taddW (sR frR 0 1 3) (op frR f3 true (some { w0 := 8, w1 := 0 }))
theorem witness_RowUnitEvents_re1 :
    st_re1.arg.tile = 0 ∧ (st_re1.tile 0).ruOps = [op frR f3 true (some { w0 := 8, w1 := 0 })] ∧ st_re1.early = [] ∧
    st_re1.arg.words = [] ∧ (op frR f3 true (some { w0 := 8, w1 := 0 })).done = false ∧
    (op frR f3 true (some { w0 := 8, w1 := 0 })).started = true ∧ (op frR f3 true (some { w0 := 8, w1 := 0 })).firing.tile = 0 ∧
    (op frR f3 true (some { w0 := 8, w1 := 0 })).bad = some { w0 := 8, w1 := 0 } :=
  by decide +kernel
def fTadd : Fields := { fld 0 .h 0 3 with d0 := some { ix := 4, port := 0 }, d1 := none }
def frR3 : Firing := firing [[.hand h0], [.hand h1], [.scal 0x3f800000]]
def fTscl : Fields := { fld 0 .h 0 3 with d0 := some { ix := 4, port := 0 }, d1 := none }
def fBen : Fields := { fld 0 .b64 0 1 with d0 := none, d1 := none }
def st_re2 : State := sRu benW (world frB) (op frB fBen true)
theorem witness_RowUnitEvents_re2 :
    st_re2.arg.tile = 0 ∧ (st_re2.tile 0).ruOps = [op frB fBen true] ∧ st_re2.early = [] ∧ st_re2.arg.words = [] ∧
    (op frB fBen true).done = false ∧ (op frB fBen true).started = true ∧ (op frB fBen true).firing.tile = 0 ∧
    (op frB fBen true).bad = none ∧ st_re2.fieldsOf (op frB fBen true).firing = some (106, fBen) ∧ 106 = 106 ∧
    (op frB fBen true).firing.handles = [] :=
  by decide +kernel
def st_re3 : State := sRu taddW (sR frR 0 1 3) (op frR fTadd true)
theorem witness_RowUnitEvents_re3 :
    st_re3.arg.tile = 0 ∧ (st_re3.tile 0).ruOps = [op frR fTadd true] ∧ st_re3.early = [] ∧ st_re3.arg.words = [] ∧
    (op frR fTadd true).done = false ∧ (op frR fTadd true).started = true ∧ (op frR fTadd true).firing.tile = 0 ∧
    (op frR fTadd true).bad = none ∧ st_re3.fieldsOf (op frR fTadd true).firing = some (96, fTadd) ∧
    (op frR fTadd true).firing.handles = [h0, h1, h2] ∧ 96 ≤ 96 ∧ 96 < 110 ∧ 96 ≠ 106 ∧ (rowPorts 96 (op frR fTadd true).f).snd = 2 :=
  by decide +kernel
def st_re4 : State := sRu tsclW (sR frR3 0 1 3) (op frR3 fTscl true)
theorem witness_RowUnitEvents_re4 :
    st_re4.arg.tile = 0 ∧ (st_re4.tile 0).ruOps = [op frR3 fTscl true] ∧ st_re4.early = [] ∧ st_re4.arg.words = [] ∧
    (op frR3 fTscl true).done = false ∧ (op frR3 fTscl true).started = true ∧ (op frR3 fTscl true).firing.tile = 0 ∧
    (op frR3 fTscl true).bad = none ∧ st_re4.fieldsOf (op frR3 fTscl true).firing = some (100, fTscl) ∧
    (op frR3 fTscl true).firing.handles = [h0, h1] ∧ 96 ≤ 100 ∧ 100 < 110 ∧ 100 ≠ 106 ∧
    (rowPorts 100 (op frR3 fTscl true).f).snd = 1 :=
  by decide +kernel
def fillS (s : State) (seed : Nat) : State := (List.range 48).foldl (fun s i => s.writeN (padAddr 32 (4096 * (i / 16) + 4 * (i % 16))) 4 ((seed + i * 2654435761) * 40503 * (i + 3) % 2 ^ 32)) s
def fillF (s : State) (seed : Nat) : State := (List.range 48).foldl (fun s i => s.writeN (padAddr 32 (4096 * (i / 16) + 4 * (i % 16))) 4 (0x3f000000 + (seed + i * 7919) % 2^25 + i % 2 * 2 ^ 31)) s
theorem witness_RowUnitValues_rv0 :
    frR.handles = [h0, h1, h2] ∧
    (((fillS (sR frR 0 1 3) 5).mtile (bufOf (fillS (sR frR 0 1 3) 5) (tileDie frR.tile) h0).m).ue = [] ∧ ((fillS (sR frR 0 1 3) 5).mtile (bufOf (fillS (sR frR 0 1 3) 5) (tileDie frR.tile) h0).m).poison? (bufOf (fillS (sR frR 0 1 3) 5) (tileDie frR.tile) h0).d = none) ∧
    (((fillS (sR frR 0 1 3) 5).mtile (bufOf (fillS (sR frR 0 1 3) 5) (tileDie frR.tile) h1).m).ue = [] ∧ ((fillS (sR frR 0 1 3) 5).mtile (bufOf (fillS (sR frR 0 1 3) 5) (tileDie frR.tile) h1).m).poison? (bufOf (fillS (sR frR 0 1 3) 5) (tileDie frR.tile) h1).d = none) ∧
    (((fillS (sR frR 0 1 3) 5).mtile (bufOf (fillS (sR frR 0 1 3) 5) (tileDie frR.tile) h2).m).ue = [] ∧ ((fillS (sR frR 0 1 3) 5).mtile (bufOf (fillS (sR frR 0 1 3) 5) (tileDie frR.tile) h2).m).poison? (bufOf (fillS (sR frR 0 1 3) 5) (tileDie frR.tile) h2).d = none) ∧
    Class false (bufOf (fillS (sR frR 0 1 3) 5) (tileDie frR.tile) h2).x :=
  by decide +kernel
theorem witness_RowUnitValues_rv0b :
    frR.handles = [h0, h1, h2] ∧
    (((fillF (sR frR 0 0 0) 5).mtile (bufOf (fillF (sR frR 0 0 0) 5) (tileDie frR.tile) h0).m).ue = [] ∧ ((fillF (sR frR 0 0 0) 5).mtile (bufOf (fillF (sR frR 0 0 0) 5) (tileDie frR.tile) h0).m).poison? (bufOf (fillF (sR frR 0 0 0) 5) (tileDie frR.tile) h0).d = none) ∧
    (((fillF (sR frR 0 0 0) 5).mtile (bufOf (fillF (sR frR 0 0 0) 5) (tileDie frR.tile) h1).m).ue = [] ∧ ((fillF (sR frR 0 0 0) 5).mtile (bufOf (fillF (sR frR 0 0 0) 5) (tileDie frR.tile) h1).m).poison? (bufOf (fillF (sR frR 0 0 0) 5) (tileDie frR.tile) h1).d = none) ∧
    (((fillF (sR frR 0 0 0) 5).mtile (bufOf (fillF (sR frR 0 0 0) 5) (tileDie frR.tile) h2).m).ue = [] ∧ ((fillF (sR frR 0 0 0) 5).mtile (bufOf (fillF (sR frR 0 0 0) 5) (tileDie frR.tile) h2).m).poison? (bufOf (fillF (sR frR 0 0 0) 5) (tileDie frR.tile) h2).d = none) ∧
    Class false (bufOf (fillF (sR frR 0 0 0) 5) (tileDie frR.tile) h2).x :=
  by decide +kernel
theorem witness_RowUnitValues_rv0c :
    frR.handles = [h0, h1, h2] ∧
    (((fillF (sR frR 0 0 2) 77).mtile (bufOf (fillF (sR frR 0 0 2) 77) (tileDie frR.tile) h0).m).ue = [] ∧ ((fillF (sR frR 0 0 2) 77).mtile (bufOf (fillF (sR frR 0 0 2) 77) (tileDie frR.tile) h0).m).poison? (bufOf (fillF (sR frR 0 0 2) 77) (tileDie frR.tile) h0).d = none) ∧
    (((fillF (sR frR 0 0 2) 77).mtile (bufOf (fillF (sR frR 0 0 2) 77) (tileDie frR.tile) h1).m).ue = [] ∧ ((fillF (sR frR 0 0 2) 77).mtile (bufOf (fillF (sR frR 0 0 2) 77) (tileDie frR.tile) h1).m).poison? (bufOf (fillF (sR frR 0 0 2) 77) (tileDie frR.tile) h1).d = none) ∧
    (((fillF (sR frR 0 0 2) 77).mtile (bufOf (fillF (sR frR 0 0 2) 77) (tileDie frR.tile) h2).m).ue = [] ∧ ((fillF (sR frR 0 0 2) 77).mtile (bufOf (fillF (sR frR 0 0 2) 77) (tileDie frR.tile) h2).m).poison? (bufOf (fillF (sR frR 0 0 2) 77) (tileDie frR.tile) h2).d = none) ∧
    Class false (bufOf (fillF (sR frR 0 0 2) 77) (tileDie frR.tile) h2).x :=
  by decide +kernel
theorem witness_RowUnitValues_rv1 :
    frR.handles = [h0, h1, h2] ∧
    (((fillS (sR frR 25 26 25) 5).mtile (bufOf (fillS (sR frR 25 26 25) 5) (tileDie frR.tile) h0).m).ue = [] ∧ ((fillS (sR frR 25 26 25) 5).mtile (bufOf (fillS (sR frR 25 26 25) 5) (tileDie frR.tile) h0).m).poison? (bufOf (fillS (sR frR 25 26 25) 5) (tileDie frR.tile) h0).d = none) ∧
    (((fillS (sR frR 25 26 25) 5).mtile (bufOf (fillS (sR frR 25 26 25) 5) (tileDie frR.tile) h1).m).ue = [] ∧ ((fillS (sR frR 25 26 25) 5).mtile (bufOf (fillS (sR frR 25 26 25) 5) (tileDie frR.tile) h1).m).poison? (bufOf (fillS (sR frR 25 26 25) 5) (tileDie frR.tile) h1).d = none) ∧
    (((fillS (sR frR 25 26 25) 5).mtile (bufOf (fillS (sR frR 25 26 25) 5) (tileDie frR.tile) h2).m).ue = [] ∧ ((fillS (sR frR 25 26 25) 5).mtile (bufOf (fillS (sR frR 25 26 25) 5) (tileDie frR.tile) h2).m).poison? (bufOf (fillS (sR frR 25 26 25) 5) (tileDie frR.tile) h2).d = none) ∧
    Class true (bufOf (fillS (sR frR 25 26 25) 5) (tileDie frR.tile) h2).x :=
  by decide +kernel
def st_rv1b : State := fillS (three (world frR) (unitBuf 26 0 0x6000) (unitBuf 26 1 3) (buf 26 2)) 5
theorem witness_RowUnitValues_rv1b :
    frR.handles = [h0, h1, h2] ∧
    ((st_rv1b.mtile (bufOf st_rv1b (tileDie frR.tile) h0).m).ue = [] ∧ (st_rv1b.mtile (bufOf st_rv1b (tileDie frR.tile) h0).m).poison? (bufOf st_rv1b (tileDie frR.tile) h0).d = none) ∧
    ((st_rv1b.mtile (bufOf st_rv1b (tileDie frR.tile) h1).m).ue = [] ∧ (st_rv1b.mtile (bufOf st_rv1b (tileDie frR.tile) h1).m).poison? (bufOf st_rv1b (tileDie frR.tile) h1).d = none) ∧
    ((st_rv1b.mtile (bufOf st_rv1b (tileDie frR.tile) h2).m).ue = [] ∧ (st_rv1b.mtile (bufOf st_rv1b (tileDie frR.tile) h2).m).poison? (bufOf st_rv1b (tileDie frR.tile) h2).d = none) ∧
    Class true (bufOf st_rv1b (tileDie frR.tile) h2).x :=
  by decide +kernel
theorem witness_RowUnitValues_rv2 :
    9 < 10 ∧ 9 = 9 :=
  by decide +kernel
theorem witness_RowUnitValues_rv3 :
    frR.handles = [h0, h1, h2] ∧
    (((fillS (sR frR 24 0 0) 5).mtile (bufOf (fillS (sR frR 24 0 0) 5) (tileDie frR.tile) h0).m).ue = [] ∧ ((fillS (sR frR 24 0 0) 5).mtile (bufOf (fillS (sR frR 24 0 0) 5) (tileDie frR.tile) h0).m).poison? (bufOf (fillS (sR frR 24 0 0) 5) (tileDie frR.tile) h0).d = none) ∧
    (((fillS (sR frR 24 0 0) 5).mtile (bufOf (fillS (sR frR 24 0 0) 5) (tileDie frR.tile) h1).m).ue = [] ∧ ((fillS (sR frR 24 0 0) 5).mtile (bufOf (fillS (sR frR 24 0 0) 5) (tileDie frR.tile) h1).m).poison? (bufOf (fillS (sR frR 24 0 0) 5) (tileDie frR.tile) h1).d = none) ∧
    (((fillS (sR frR 24 0 0) 5).mtile (bufOf (fillS (sR frR 24 0 0) 5) (tileDie frR.tile) h2).m).ue = [] ∧ ((fillS (sR frR 24 0 0) 5).mtile (bufOf (fillS (sR frR 24 0 0) 5) (tileDie frR.tile) h2).m).poison? (bufOf (fillS (sR frR 24 0 0) 5) (tileDie frR.tile) h2).d = none) ∧
    (bufOf (fillS (sR frR 24 0 0) 5) (tileDie frR.tile) h1).fmt = (bufOf (fillS (sR frR 24 0 0) 5) (tileDie frR.tile) h2).fmt :=
  by decide +kernel
theorem witness_RowUnitValues_rvmin :
    frR.handles = [h0, h1, h2] ∧
    (((fillS (sR frR 0 1 3) 5).mtile (bufOf (fillS (sR frR 0 1 3) 5) (tileDie frR.tile) h0).m).ue = [] ∧ ((fillS (sR frR 0 1 3) 5).mtile (bufOf (fillS (sR frR 0 1 3) 5) (tileDie frR.tile) h0).m).poison? (bufOf (fillS (sR frR 0 1 3) 5) (tileDie frR.tile) h0).d = none) ∧
    (((fillS (sR frR 0 1 3) 5).mtile (bufOf (fillS (sR frR 0 1 3) 5) (tileDie frR.tile) h1).m).ue = [] ∧ ((fillS (sR frR 0 1 3) 5).mtile (bufOf (fillS (sR frR 0 1 3) 5) (tileDie frR.tile) h1).m).poison? (bufOf (fillS (sR frR 0 1 3) 5) (tileDie frR.tile) h1).d = none) ∧
    (((fillS (sR frR 0 1 3) 5).mtile (bufOf (fillS (sR frR 0 1 3) 5) (tileDie frR.tile) h2).m).ue = [] ∧ ((fillS (sR frR 0 1 3) 5).mtile (bufOf (fillS (sR frR 0 1 3) 5) (tileDie frR.tile) h2).m).poison? (bufOf (fillS (sR frR 0 1 3) 5) (tileDie frR.tile) h2).d = none) ∧
    Class false (bufOf (fillS (sR frR 0 1 3) 5) (tileDie frR.tile) h2).x ∧ { f3 with sub := 0 }.sub = 0 :=
  by decide +kernel
theorem witness_RowUnitValues_rvmax :
    frR.handles = [h0, h1, h2] ∧
    (((fillF (sR frR 0 0 0) 5).mtile (bufOf (fillF (sR frR 0 0 0) 5) (tileDie frR.tile) h0).m).ue = [] ∧ ((fillF (sR frR 0 0 0) 5).mtile (bufOf (fillF (sR frR 0 0 0) 5) (tileDie frR.tile) h0).m).poison? (bufOf (fillF (sR frR 0 0 0) 5) (tileDie frR.tile) h0).d = none) ∧
    (((fillF (sR frR 0 0 0) 5).mtile (bufOf (fillF (sR frR 0 0 0) 5) (tileDie frR.tile) h1).m).ue = [] ∧ ((fillF (sR frR 0 0 0) 5).mtile (bufOf (fillF (sR frR 0 0 0) 5) (tileDie frR.tile) h1).m).poison? (bufOf (fillF (sR frR 0 0 0) 5) (tileDie frR.tile) h1).d = none) ∧
    (((fillF (sR frR 0 0 0) 5).mtile (bufOf (fillF (sR frR 0 0 0) 5) (tileDie frR.tile) h2).m).ue = [] ∧ ((fillF (sR frR 0 0 0) 5).mtile (bufOf (fillF (sR frR 0 0 0) 5) (tileDie frR.tile) h2).m).poison? (bufOf (fillF (sR frR 0 0 0) 5) (tileDie frR.tile) h2).d = none) ∧
    Class false (bufOf (fillF (sR frR 0 0 0) 5) (tileDie frR.tile) h2).x ∧ { f3 with sub := 1 }.sub = 1 :=
  by decide +kernel
theorem witness_RowUnitValues_rv0_2 :
    frR.handles = [h0, h1, h2] ∧
    (((fillS (sR frR 0 1 3) 5).mtile (bufOf (fillS (sR frR 0 1 3) 5) (tileDie frR.tile) h0).m).ue = [] ∧ ((fillS (sR frR 0 1 3) 5).mtile (bufOf (fillS (sR frR 0 1 3) 5) (tileDie frR.tile) h0).m).poison? (bufOf (fillS (sR frR 0 1 3) 5) (tileDie frR.tile) h0).d = none) ∧
    (((fillS (sR frR 0 1 3) 5).mtile (bufOf (fillS (sR frR 0 1 3) 5) (tileDie frR.tile) h1).m).ue = [] ∧ ((fillS (sR frR 0 1 3) 5).mtile (bufOf (fillS (sR frR 0 1 3) 5) (tileDie frR.tile) h1).m).poison? (bufOf (fillS (sR frR 0 1 3) 5) (tileDie frR.tile) h1).d = none) ∧
    (((fillS (sR frR 0 1 3) 5).mtile (bufOf (fillS (sR frR 0 1 3) 5) (tileDie frR.tile) h2).m).ue = [] ∧ ((fillS (sR frR 0 1 3) 5).mtile (bufOf (fillS (sR frR 0 1 3) 5) (tileDie frR.tile) h2).m).poison? (bufOf (fillS (sR frR 0 1 3) 5) (tileDie frR.tile) h2).d = none) ∧
    Class false (bufOf (fillS (sR frR 0 1 3) 5) (tileDie frR.tile) h2).x ∧
    (bufOf (fillS (sR frR 0 1 3) 5) (tileDie frR.tile) h1).fmt ≠ (bufOf (fillS (sR frR 0 1 3) 5) (tileDie frR.tile) h2).fmt :=
  by decide +kernel
def st_cmp : State := fillF (sR frR 0 0 24) 5
def st_cmi : State := fillS (sR frR 25 25 24) 5
def st_chn : State := withK (fillF (sR frR 0 0 0) 5) [0x3F80000040000000, 3]
def st_scl : State := fillF (sR frR3 0 0 0) 5
def st_two (a b : Nat) : State := withK (fillF (sR frR2 a b 0) 5) [0x3F80000040000000, 3]
def st_mx (a b : Nat) : State := withK (fillF (three (world frR2) { buf a with sdesc := some 2 } { buf b 1 with sdesc := some 2 } (buf a 2)) 5) [7]
theorem witness_RowUnitValues_rvminn :
    frR.handles = [h0, h1, h2] ∧
    (((fillF (sR frR 0 0 0) 5).mtile (bufOf (fillF (sR frR 0 0 0) 5) (tileDie frR.tile) h0).m).ue = [] ∧ ((fillF (sR frR 0 0 0) 5).mtile (bufOf (fillF (sR frR 0 0 0) 5) (tileDie frR.tile) h0).m).poison? (bufOf (fillF (sR frR 0 0 0) 5) (tileDie frR.tile) h0).d = none) ∧
    (((fillF (sR frR 0 0 0) 5).mtile (bufOf (fillF (sR frR 0 0 0) 5) (tileDie frR.tile) h1).m).ue = [] ∧ ((fillF (sR frR 0 0 0) 5).mtile (bufOf (fillF (sR frR 0 0 0) 5) (tileDie frR.tile) h1).m).poison? (bufOf (fillF (sR frR 0 0 0) 5) (tileDie frR.tile) h1).d = none) ∧
    (((fillF (sR frR 0 0 0) 5).mtile (bufOf (fillF (sR frR 0 0 0) 5) (tileDie frR.tile) h2).m).ue = [] ∧ ((fillF (sR frR 0 0 0) 5).mtile (bufOf (fillF (sR frR 0 0 0) 5) (tileDie frR.tile) h2).m).poison? (bufOf (fillF (sR frR 0 0 0) 5) (tileDie frR.tile) h2).d = none) ∧
    Class false (bufOf (fillF (sR frR 0 0 0) 5) (tileDie frR.tile) h2).x ∧ { f3 with sub := 2 }.sub = 2 :=
  by decide +kernel
theorem witness_RowUnitValues_rvmaxn :
    frR.handles = [h0, h1, h2] ∧
    (((fillF (sR frR 0 0 0) 5).mtile (bufOf (fillF (sR frR 0 0 0) 5) (tileDie frR.tile) h0).m).ue = [] ∧ ((fillF (sR frR 0 0 0) 5).mtile (bufOf (fillF (sR frR 0 0 0) 5) (tileDie frR.tile) h0).m).poison? (bufOf (fillF (sR frR 0 0 0) 5) (tileDie frR.tile) h0).d = none) ∧
    (((fillF (sR frR 0 0 0) 5).mtile (bufOf (fillF (sR frR 0 0 0) 5) (tileDie frR.tile) h1).m).ue = [] ∧ ((fillF (sR frR 0 0 0) 5).mtile (bufOf (fillF (sR frR 0 0 0) 5) (tileDie frR.tile) h1).m).poison? (bufOf (fillF (sR frR 0 0 0) 5) (tileDie frR.tile) h1).d = none) ∧
    (((fillF (sR frR 0 0 0) 5).mtile (bufOf (fillF (sR frR 0 0 0) 5) (tileDie frR.tile) h2).m).ue = [] ∧ ((fillF (sR frR 0 0 0) 5).mtile (bufOf (fillF (sR frR 0 0 0) 5) (tileDie frR.tile) h2).m).poison? (bufOf (fillF (sR frR 0 0 0) 5) (tileDie frR.tile) h2).d = none) ∧
    Class false (bufOf (fillF (sR frR 0 0 0) 5) (tileDie frR.tile) h2).x ∧ { f3 with sub := 3 }.sub = 3 :=
  by decide +kernel
theorem witness_RowUnitValues_rv2c :
    frR.handles = [h0, h1, h2] ∧
    ((st_cmp.mtile (bufOf st_cmp (tileDie frR.tile) h0).m).ue = [] ∧ (st_cmp.mtile (bufOf st_cmp (tileDie frR.tile) h0).m).poison? (bufOf st_cmp (tileDie frR.tile) h0).d = none) ∧
    ((st_cmp.mtile (bufOf st_cmp (tileDie frR.tile) h1).m).ue = [] ∧ (st_cmp.mtile (bufOf st_cmp (tileDie frR.tile) h1).m).poison? (bufOf st_cmp (tileDie frR.tile) h1).d = none) ∧
    ((st_cmp.mtile (bufOf st_cmp (tileDie frR.tile) h2).m).ue = [] ∧ (st_cmp.mtile (bufOf st_cmp (tileDie frR.tile) h2).m).poison? (bufOf st_cmp (tileDie frR.tile) h2).d = none) ∧
    Class false (bufOf st_cmp (tileDie frR.tile) h0).x ∧ { f3 with sub := 7 }.sub.toNat < 8 :=
  by decide +kernel
theorem witness_RowUnitValues_rv2d :
    frR.handles = [h0, h1, h2] ∧
    ((st_cmi.mtile (bufOf st_cmi (tileDie frR.tile) h0).m).ue = [] ∧ (st_cmi.mtile (bufOf st_cmi (tileDie frR.tile) h0).m).poison? (bufOf st_cmi (tileDie frR.tile) h0).d = none) ∧
    ((st_cmi.mtile (bufOf st_cmi (tileDie frR.tile) h1).m).ue = [] ∧ (st_cmi.mtile (bufOf st_cmi (tileDie frR.tile) h1).m).poison? (bufOf st_cmi (tileDie frR.tile) h1).d = none) ∧
    ((st_cmi.mtile (bufOf st_cmi (tileDie frR.tile) h2).m).ue = [] ∧ (st_cmi.mtile (bufOf st_cmi (tileDie frR.tile) h2).m).poison? (bufOf st_cmi (tileDie frR.tile) h2).d = none) ∧
    Class true (bufOf st_cmi (tileDie frR.tile) h0).x ∧ { f3 with sub := 2 }.sub.toNat < 8 :=
  by decide +kernel
theorem witness_RowUnitValues_rvch3 :
    frR.handles = [h0, h1, h2] ∧
    ((st_chn.mtile (bufOf st_chn (tileDie frR.tile) h0).m).ue = [] ∧ (st_chn.mtile (bufOf st_chn (tileDie frR.tile) h0).m).poison? (bufOf st_chn (tileDie frR.tile) h0).d = none) ∧
    ((st_chn.mtile (bufOf st_chn (tileDie frR.tile) h1).m).ue = [] ∧ (st_chn.mtile (bufOf st_chn (tileDie frR.tile) h1).m).poison? (bufOf st_chn (tileDie frR.tile) h1).d = none) ∧
    ((st_chn.mtile (bufOf st_chn (tileDie frR.tile) h2).m).ue = [] ∧ (st_chn.mtile (bufOf st_chn (tileDie frR.tile) h2).m).poison? (bufOf st_chn (tileDie frR.tile) h2).d = none) ∧
    f3.ar = 3 :=
  by decide +kernel
theorem witness_RowUnitValues_rvs0 :
    frR3.handles = [h0, h1] ∧
    ((st_scl.mtile (bufOf st_scl (tileDie frR3.tile) h0).m).ue = [] ∧ (st_scl.mtile (bufOf st_scl (tileDie frR3.tile) h0).m).poison? (bufOf st_scl (tileDie frR3.tile) h0).d = none) ∧
    ((st_scl.mtile (bufOf st_scl (tileDie frR3.tile) h1).m).ue = [] ∧ (st_scl.mtile (bufOf st_scl (tileDie frR3.tile) h1).m).poison? (bufOf st_scl (tileDie frR3.tile) h1).d = none) ∧
    Class false (bufOf st_scl (tileDie frR3.tile) h1).x ∧ f3.sub = 0 :=
  by decide +kernel
theorem witness_RowUnitValues_rvs1 :
    frR3.handles = [h0, h1] ∧
    ((st_scl.mtile (bufOf st_scl (tileDie frR3.tile) h0).m).ue = [] ∧ (st_scl.mtile (bufOf st_scl (tileDie frR3.tile) h0).m).poison? (bufOf st_scl (tileDie frR3.tile) h0).d = none) ∧
    ((st_scl.mtile (bufOf st_scl (tileDie frR3.tile) h1).m).ue = [] ∧ (st_scl.mtile (bufOf st_scl (tileDie frR3.tile) h1).m).poison? (bufOf st_scl (tileDie frR3.tile) h1).d = none) ∧
    Class false (bufOf st_scl (tileDie frR3.tile) h1).x ∧ { f3 with sub := 1 }.sub = 1 :=
  by decide +kernel
theorem witness_RowUnitValues_rvs2 :
    frR3.handles = [h0, h1] ∧
    ((st_scl.mtile (bufOf st_scl (tileDie frR3.tile) h0).m).ue = [] ∧ (st_scl.mtile (bufOf st_scl (tileDie frR3.tile) h0).m).poison? (bufOf st_scl (tileDie frR3.tile) h0).d = none) ∧
    ((st_scl.mtile (bufOf st_scl (tileDie frR3.tile) h1).m).ue = [] ∧ (st_scl.mtile (bufOf st_scl (tileDie frR3.tile) h1).m).poison? (bufOf st_scl (tileDie frR3.tile) h1).d = none) ∧
    Class false (bufOf st_scl (tileDie frR3.tile) h1).x ∧ { f3 with sub := 2 }.sub = 2 :=
  by decide +kernel
theorem witness_RowUnitValues_rvact :
    frR2.handles = [h0, h1] ∧
    (((st_two 0 1).mtile (bufOf (st_two 0 1) (tileDie frR2.tile) h0).m).ue = [] ∧ ((st_two 0 1).mtile (bufOf (st_two 0 1) (tileDie frR2.tile) h0).m).poison? (bufOf (st_two 0 1) (tileDie frR2.tile) h0).d = none) ∧
    (((st_two 0 1).mtile (bufOf (st_two 0 1) (tileDie frR2.tile) h1).m).ue = [] ∧ ((st_two 0 1).mtile (bufOf (st_two 0 1) (tileDie frR2.tile) h1).m).poison? (bufOf (st_two 0 1) (tileDie frR2.tile) h1).d = none) :=
  by decide +kernel
theorem witness_RowUnitValues_rvch2 :
    frR2.handles = [h0, h1] ∧
    (((st_two 0 0).mtile (bufOf (st_two 0 0) (tileDie frR2.tile) h0).m).ue = [] ∧ ((st_two 0 0).mtile (bufOf (st_two 0 0) (tileDie frR2.tile) h0).m).poison? (bufOf (st_two 0 0) (tileDie frR2.tile) h0).d = none) ∧
    (((st_two 0 0).mtile (bufOf (st_two 0 0) (tileDie frR2.tile) h1).m).ue = [] ∧ ((st_two 0 0).mtile (bufOf (st_two 0 0) (tileDie frR2.tile) h1).m).poison? (bufOf (st_two 0 0) (tileDie frR2.tile) h1).d = none) ∧
    { f3 with ar := 2 }.ar = 2 :=
  by decide +kernel
theorem witness_RowUnitValues_rvc0 :
    frR2.handles = [h0, h1] ∧
    (((st_two 0 1).mtile (bufOf (st_two 0 1) (tileDie frR2.tile) h0).m).ue = [] ∧ ((st_two 0 1).mtile (bufOf (st_two 0 1) (tileDie frR2.tile) h0).m).poison? (bufOf (st_two 0 1) (tileDie frR2.tile) h0).d = none) ∧
    (((st_two 0 1).mtile (bufOf (st_two 0 1) (tileDie frR2.tile) h1).m).ue = [] ∧ ((st_two 0 1).mtile (bufOf (st_two 0 1) (tileDie frR2.tile) h1).m).poison? (bufOf (st_two 0 1) (tileDie frR2.tile) h1).d = none) ∧
    (isMx (bufOf (st_two 0 1) (tileDie frR2.tile) h0).fmt = true → scaleOf (st_two 0 1) (bufOf (st_two 0 1) (tileDie frR2.tile) h0) = some (bufOf (st_two 0 1) 0 h0)) ∧
    (isMx (bufOf (st_two 0 1) (tileDie frR2.tile) h1).fmt = true → scaleOf (st_two 0 1) (bufOf (st_two 0 1) (tileDie frR2.tile) h1) = some (bufOf (st_two 0 1) 0 h0)) ∧
    (∀ (y : Buf), scaleOf (st_two 0 1) (bufOf (st_two 0 1) (tileDie frR2.tile) h0) = some y → ((st_two 0 1).mtile y.m).ue = [] ∧ ((st_two 0 1).mtile y.m).poison? y.d = none) ∧
    isMx (bufOf (st_two 0 1) (tileDie frR2.tile) h1).fmt = false :=
  by decide +kernel
theorem witness_RowUnitValues_rvc0m :
    frR2.handles = [h0, h1] ∧
    (((st_mx 10 0).mtile (bufOf (st_mx 10 0) (tileDie frR2.tile) h0).m).ue = [] ∧ ((st_mx 10 0).mtile (bufOf (st_mx 10 0) (tileDie frR2.tile) h0).m).poison? (bufOf (st_mx 10 0) (tileDie frR2.tile) h0).d = none) ∧
    (((st_mx 10 0).mtile (bufOf (st_mx 10 0) (tileDie frR2.tile) h1).m).ue = [] ∧ ((st_mx 10 0).mtile (bufOf (st_mx 10 0) (tileDie frR2.tile) h1).m).poison? (bufOf (st_mx 10 0) (tileDie frR2.tile) h1).d = none) ∧
    (isMx (bufOf (st_mx 10 0) (tileDie frR2.tile) h0).fmt = true → scaleOf (st_mx 10 0) (bufOf (st_mx 10 0) (tileDie frR2.tile) h0) = some (bufOf (st_mx 10 0) 0 h2)) ∧
    (isMx (bufOf (st_mx 10 0) (tileDie frR2.tile) h1).fmt = true → scaleOf (st_mx 10 0) (bufOf (st_mx 10 0) (tileDie frR2.tile) h1) = some (bufOf (st_mx 10 0) 0 h0)) ∧
    (∀ (y : Buf), scaleOf (st_mx 10 0) (bufOf (st_mx 10 0) (tileDie frR2.tile) h0) = some y → ((st_mx 10 0).mtile y.m).ue = [] ∧ ((st_mx 10 0).mtile y.m).poison? y.d = none) ∧
    isMx (bufOf (st_mx 10 0) (tileDie frR2.tile) h1).fmt = false :=
  by decide +kernel
theorem witness_RowUnitValues_rvc1 :
    frR2.handles = [h0, h1] ∧
    (((st_mx 0 10).mtile (bufOf (st_mx 0 10) (tileDie frR2.tile) h0).m).ue = [] ∧ ((st_mx 0 10).mtile (bufOf (st_mx 0 10) (tileDie frR2.tile) h0).m).poison? (bufOf (st_mx 0 10) (tileDie frR2.tile) h0).d = none) ∧
    (((st_mx 0 10).mtile (bufOf (st_mx 0 10) (tileDie frR2.tile) h1).m).ue = [] ∧ ((st_mx 0 10).mtile (bufOf (st_mx 0 10) (tileDie frR2.tile) h1).m).poison? (bufOf (st_mx 0 10) (tileDie frR2.tile) h1).d = none) ∧
    (isMx (bufOf (st_mx 0 10) (tileDie frR2.tile) h0).fmt = true → scaleOf (st_mx 0 10) (bufOf (st_mx 0 10) (tileDie frR2.tile) h0) = some (bufOf (st_mx 0 10) 0 h2)) ∧
    (isMx (bufOf (st_mx 0 10) (tileDie frR2.tile) h1).fmt = true → scaleOf (st_mx 0 10) (bufOf (st_mx 0 10) (tileDie frR2.tile) h1) = some (bufOf (st_mx 0 10) 0 h2)) ∧
    (∀ (y : Buf), scaleOf (st_mx 0 10) (bufOf (st_mx 0 10) (tileDie frR2.tile) h0) = some y → ((st_mx 0 10).mtile y.m).ue = [] ∧ ((st_mx 0 10).mtile y.m).poison? y.d = none) ∧
    isMx (bufOf (st_mx 0 10) (tileDie frR2.tile) h1).fmt = true ∧ xbits f3.x 4 1 = 0 :=
  by decide +kernel
theorem witness_RowUnitValues_rvc2 :
    frR2.handles = [h0, h1] ∧
    (((st_mx 0 12).mtile (bufOf (st_mx 0 12) (tileDie frR2.tile) h0).m).ue = [] ∧ ((st_mx 0 12).mtile (bufOf (st_mx 0 12) (tileDie frR2.tile) h0).m).poison? (bufOf (st_mx 0 12) (tileDie frR2.tile) h0).d = none) ∧
    (((st_mx 0 12).mtile (bufOf (st_mx 0 12) (tileDie frR2.tile) h1).m).ue = [] ∧ ((st_mx 0 12).mtile (bufOf (st_mx 0 12) (tileDie frR2.tile) h1).m).poison? (bufOf (st_mx 0 12) (tileDie frR2.tile) h1).d = none) ∧
    (isMx (bufOf (st_mx 0 12) (tileDie frR2.tile) h0).fmt = true → scaleOf (st_mx 0 12) (bufOf (st_mx 0 12) (tileDie frR2.tile) h0) = some (bufOf (st_mx 0 12) 0 h2)) ∧
    (isMx (bufOf (st_mx 0 12) (tileDie frR2.tile) h1).fmt = true → scaleOf (st_mx 0 12) (bufOf (st_mx 0 12) (tileDie frR2.tile) h1) = some (bufOf (st_mx 0 12) 0 h2)) ∧
    (∀ (y : Buf), scaleOf (st_mx 0 12) (bufOf (st_mx 0 12) (tileDie frR2.tile) h0) = some y → ((st_mx 0 12).mtile y.m).ue = [] ∧ ((st_mx 0 12).mtile y.m).poison? y.d = none) ∧
    isMx (bufOf (st_mx 0 12) (tileDie frR2.tile) h1).fmt = true ∧ xbits { f3 with x := 16 }.x 4 1 = 1 :=
  by decide +kernel
theorem witness_RowUnitValues_rvk :
    7 < 10 :=
  by decide +kernel
theorem witness_RowUnitValues_rvk7 :
    7 < 10 ∧ 7 ≤ 7 ∧ 0 < 1 :=
  by decide +kernel
theorem witness_RowUnitValues_rvk0 :
    0 < 10 ∧ 0 = 0 ∧ 0 < 1 :=
  by decide +kernel
theorem witness_RowUnitValues_rvk9 :
    9 < 10 ∧ 9 = 9 :=
  by decide +kernel
theorem witness_RowUnitValues_rvben :
    63 < 64 :=
  by decide +kernel
theorem witness_RowUnitValues_rvben2 :
    1 < 2 ∧ (0, 1) ≠ (frB.ctx, xbits fBen.x 6 1) :=
  by decide +kernel
theorem witness_RowUnitValues_rv2b :
    frR.handles = [h0, h1, h2] ∧
    ((st_cmp.mtile (bufOf st_cmp (tileDie frR.tile) h0).m).ue = [] ∧ (st_cmp.mtile (bufOf st_cmp (tileDie frR.tile) h0).m).poison? (bufOf st_cmp (tileDie frR.tile) h0).d = none) ∧
    ((st_cmp.mtile (bufOf st_cmp (tileDie frR.tile) h1).m).ue = [] ∧ (st_cmp.mtile (bufOf st_cmp (tileDie frR.tile) h1).m).poison? (bufOf st_cmp (tileDie frR.tile) h1).d = none) ∧
    ((st_cmp.mtile (bufOf st_cmp (tileDie frR.tile) h2).m).ue = [] ∧ (st_cmp.mtile (bufOf st_cmp (tileDie frR.tile) h2).m).poison? (bufOf st_cmp (tileDie frR.tile) h2).d = none) ∧
    Class false (bufOf st_cmp (tileDie frR.tile) h0).x ∧ { f3 with sub := 1 }.sub.toNat < 8 :=
  by decide +kernel
def st_red0 : State := fillF (three (world frR2) (buf 0) (unitBuf 0 1 3) (buf 0 2)) 5
def st_red1 : State := fillF (three (world frR2) (buf 0) (unitBuf 0 1 0x6000) (buf 0 2)) 5
theorem witness_RowUnitValues_rvr0 :
    frR2.handles = [h0, h1] ∧
    ((st_red0.mtile (bufOf st_red0 (tileDie frR2.tile) h0).m).ue = [] ∧ (st_red0.mtile (bufOf st_red0 (tileDie frR2.tile) h0).m).poison? (bufOf st_red0 (tileDie frR2.tile) h0).d = none) ∧
    ((st_red0.mtile (bufOf st_red0 (tileDie frR2.tile) h1).m).ue = [] ∧ (st_red0.mtile (bufOf st_red0 (tileDie frR2.tile) h1).m).poison? (bufOf st_red0 (tileDie frR2.tile) h1).d = none) ∧
    Class false (bufOf st_red0 (tileDie frR2.tile) h0).x ∧ Class false (bufOf st_red0 (tileDie frR2.tile) h1).x ∧
    0 < (bufOf st_red0 (tileDie frR2.tile) h0).rows ∧ 0 < (bufOf st_red0 (tileDie frR2.tile) h0).cols ∧
    xbits { f3 with sub := 2 }.x 4 1 = 0 :=
  by decide +kernel
theorem witness_RowUnitValues_rvr0b :
    frR2.handles = [h0, h1] ∧
    ((st_red1.mtile (bufOf st_red1 (tileDie frR2.tile) h0).m).ue = [] ∧ (st_red1.mtile (bufOf st_red1 (tileDie frR2.tile) h0).m).poison? (bufOf st_red1 (tileDie frR2.tile) h0).d = none) ∧
    ((st_red1.mtile (bufOf st_red1 (tileDie frR2.tile) h1).m).ue = [] ∧ (st_red1.mtile (bufOf st_red1 (tileDie frR2.tile) h1).m).poison? (bufOf st_red1 (tileDie frR2.tile) h1).d = none) ∧
    Class false (bufOf st_red1 (tileDie frR2.tile) h0).x ∧ Class false (bufOf st_red1 (tileDie frR2.tile) h1).x ∧
    0 < (bufOf st_red1 (tileDie frR2.tile) h0).rows ∧ 0 < (bufOf st_red1 (tileDie frR2.tile) h0).cols ∧
    xbits { f3 with sub := 3 }.x 4 1 = 0 :=
  by decide +kernel
theorem witness_RowUnitValues_rvr1 :
    frR2.handles = [h0, h1] ∧
    ((st_red1.mtile (bufOf st_red1 (tileDie frR2.tile) h0).m).ue = [] ∧ (st_red1.mtile (bufOf st_red1 (tileDie frR2.tile) h0).m).poison? (bufOf st_red1 (tileDie frR2.tile) h0).d = none) ∧
    ((st_red1.mtile (bufOf st_red1 (tileDie frR2.tile) h1).m).ue = [] ∧ (st_red1.mtile (bufOf st_red1 (tileDie frR2.tile) h1).m).poison? (bufOf st_red1 (tileDie frR2.tile) h1).d = none) ∧
    Class false (bufOf st_red1 (tileDie frR2.tile) h0).x ∧ Class false (bufOf st_red1 (tileDie frR2.tile) h1).x ∧
    0 < (bufOf st_red1 (tileDie frR2.tile) h0).rows ∧ 0 < (bufOf st_red1 (tileDie frR2.tile) h0).cols ∧
    xbits { f3 with sub := 0, x := 48 }.x 4 1 = 1 :=
  by decide +kernel

end Rows

/-! ## Handlers -/

namespace Handlers

def wb (fr : Firing) (x : Desc := buf 0) (y : Desc := buf 0 1) : State := buffers (world fr) x y
def frHs : Firing := firing [[.hand h0], [.hand h1]]
def withW (s : State) (w : Word) (ks : List Word := []) : State := s.onTile 0 fun c => { c with entries := [(0, { ctx := 0, blk := 0, block := { placedBlock w.toNat with consts := ks } })] }
def onM (s : State) (g : MTile → MTile) : State := { s.onMtile 32 g with issuing := none, arg := { tile := 32, n := 0 } }
theorem witness_HandlerInstructions_sop1 :
    Spec.One (wb frHs) frHs ∧ (wb frHs).early = [] ∧ Shaped frHs (fld 0 Ty.h 0).ar.toNat ∧
    ((wb frHs).mtile (memTileOf frHs.tile (xbits (fld 0 Ty.h 0).x 4 1))).allotted frHs.ctx (xbits (fld 0 Ty.h 0).x 0 4) = true ∧
    (∀ (q : Nat), q < (fld 0 Ty.h 0).ar.toNat → ∃ b, Uses (wb frHs) frHs q b true (decide (q ∈ sopDests (fld 0 Ty.h 0).sub.toNat)) ∧ home frHs b = memTileOf frHs.tile (xbits (fld 0 Ty.h 0).x 4 1)) ∧
    sopOk (wb frHs) (fld 0 Ty.h 0).sub.toNat (List.map (bufOf (wb frHs) (tileDie (memTileOf frHs.tile (xbits (fld 0 Ty.h 0).x 4 1)))) frHs.handles) (sopParams (wb frHs) frHs (fld 0 Ty.h 0)).fst (sopParams (wb frHs) frHs (fld 0 Ty.h 0)).snd = true ∧
    (((wb frHs).mtile (memTileOf frHs.tile (xbits (fld 0 Ty.h 0).x 4 1))).handler (xbits (fld 0 Ty.h 0).x 0 4)).busy = false ∧
    (∀ (w : MxMsg), w ∈ ((wb frHs).mtile (memTileOf frHs.tile (xbits (fld 0 Ty.h 0).x 4 1))).hwait → xbits w.f.x 0 4 ≠ xbits (fld 0 Ty.h 0).x 0 4) :=
  by refine ⟨?_, ?_, ?_, ?_, all2 (by decide +kernel) ⟨h0, ?_⟩ ⟨h1, ?_⟩, ?_, ?_, ?_⟩ <;> decide +kernel
def sBusy : State := (wb frHs).onMtile 32 fun c => { c with hnd := [(0, { busy := true })] }
theorem witness_HandlerInstructions_sop2 :
    Spec.One sBusy frHs ∧ sBusy.early = [] ∧ Shaped frHs (fld 0 Ty.h 0).ar.toNat ∧
    (sBusy.mtile (memTileOf frHs.tile (xbits (fld 0 Ty.h 0).x 4 1))).allotted frHs.ctx (xbits (fld 0 Ty.h 0).x 0 4) = true ∧
    (∀ (q : Nat), q < (fld 0 Ty.h 0).ar.toNat → ∃ b, Uses sBusy frHs q b true (decide (q ∈ sopDests (fld 0 Ty.h 0).sub.toNat)) ∧ home frHs b = memTileOf frHs.tile (xbits (fld 0 Ty.h 0).x 4 1)) ∧
    sopOk sBusy (fld 0 Ty.h 0).sub.toNat (List.map (bufOf sBusy (tileDie (memTileOf frHs.tile (xbits (fld 0 Ty.h 0).x 4 1)))) frHs.handles) (sopParams sBusy frHs (fld 0 Ty.h 0)).fst (sopParams sBusy frHs (fld 0 Ty.h 0)).snd = true ∧
    ((sBusy.mtile (memTileOf frHs.tile (xbits (fld 0 Ty.h 0).x 4 1))).handler (xbits (fld 0 Ty.h 0).x 0 4)).busy = true :=
  by refine ⟨?_, ?_, ?_, ?_, all2 (by decide +kernel) ⟨h0, ?_⟩ ⟨h1, ?_⟩, ?_, ?_⟩ <;> decide +kernel
def frN : Firing := firing [[.scal 2]]
def sHn (b : Bool) : State := (wb frN).onMtile 32 fun c => { c with hnd := [(0, { busy := b, total := 4, pend := 1 })] }
theorem witness_HandlerInstructions_sop3 :
    Spec.One (sHn true) frN ∧ (sHn true).early = [] ∧ frN.handles = [] ∧
    ((sHn true).mtile (memTileOf frN.tile (xbits (fld 0 Ty.n64 0 1).x 4 1))).allotted frN.ctx (xbits (fld 0 Ty.n64 0 1).x 0 4) = true ∧
    (((sHn true).mtile (memTileOf frN.tile (xbits (fld 0 Ty.n64 0 1).x 4 1))).handler (xbits (fld 0 Ty.n64 0 1).x 0 4)).busy = true ∧
    (((sHn true).mtile (memTileOf frN.tile (xbits (fld 0 Ty.n64 0 1).x 4 1))).handler (xbits (fld 0 Ty.n64 0 1).x 0 4)).ctx = frN.ctx :=
  by decide +kernel
def sNo : State := (wb frN).onMtile 32 fun c => { c with hallot := [(0, 0xFFFE)] }
theorem witness_HandlerInstructions_sop4 :
    Spec.One sNo frN ∧ sNo.early = [] ∧ frN.handles = [] ∧
    Instr.sopgo (fld 0 Ty.n64 0 1) ∈ [Instr.sopgo (fld 0 Ty.n64 0 1), Instr.sopmaskOff (fld 0 Ty.n64 0 1), Instr.sopmaskOn (fld 0 Ty.n64 0 1), Instr.soppri (fld 0 Ty.n64 0 1)] ∧
    (sNo.mtile (memTileOf frN.tile (xbits (fld 0 Ty.n64 0 1).x 4 1))).allotted frN.ctx (xbits (fld 0 Ty.n64 0 1).x 0 4) = false :=
  by decide +kernel
theorem witness_HandlerInstructions_sop5 :
    Spec.One (sHn false) frN ∧ (sHn false).early = [] ∧ frN.handles = [] ∧
    Instr.sopgo (fld 0 Ty.n64 0 1) ∈ [Instr.sopgo (fld 0 Ty.n64 0 1), Instr.sopmaskOff (fld 0 Ty.n64 0 1), Instr.sopmaskOn (fld 0 Ty.n64 0 1), Instr.soppri (fld 0 Ty.n64 0 1)] ∧
    ((sHn false).mtile (memTileOf frN.tile (xbits (fld 0 Ty.n64 0 1).x 4 1))).allotted frN.ctx (xbits (fld 0 Ty.n64 0 1).x 0 4) = true ∧
    ((((sHn false).mtile (memTileOf frN.tile (xbits (fld 0 Ty.n64 0 1).x 4 1))).handler (xbits (fld 0 Ty.n64 0 1).x 0 4)).busy = false ∨ (((sHn false).mtile (memTileOf frN.tile (xbits (fld 0 Ty.n64 0 1).x 4 1))).handler (xbits (fld 0 Ty.n64 0 1).x 0 4)).ctx ≠ frN.ctx) :=
  by decide +kernel
def cw (ctx : Nat) : CountWord := { h := 0, ctx := ctx, count := 3 }
def sCw (ctx : Nat) : State := onM (wb frN) fun c => { c with hwords := [cw ctx], hnd := [(0, { busy := true, total := 4, pend := 1 })] }
theorem witness_HandlerEvents_he1 :
    (sCw 0).arg.tile = 32 ∧ (sCw 0).early = [] ∧ (sCw 0).late = [] ∧ (sCw 0).arg.words = [] ∧
    ((sCw 0).mtile 32).hwords[(sCw 0).arg.n]? = some (cw 0) ∧ (((sCw 0).mtile 32).handler (cw 0).h).busy = true ∧
    (((sCw 0).mtile 32).handler (cw 0).h).ctx = (cw 0).ctx :=
  by decide +kernel
theorem witness_HandlerEvents_he2 :
    (sCw 1).arg.tile = 32 ∧ (sCw 1).early = [] ∧ (sCw 1).late = [] ∧ (sCw 1).arg.words = [] ∧
    ((sCw 1).mtile 32).hwords[(sCw 1).arg.n]? = some (cw 1) ∧
    ((((sCw 1).mtile 32).handler (cw 1).h).busy = false ∨ (((sCw 1).mtile 32).handler (cw 1).h).ctx ≠ (cw 1).ctx) :=
  by decide +kernel
def hn (done : Nat) : Hnd := { kind := 0, busy := true, pend := 1, done := done, total := 4, bound := [h0, h1], firing := some placedFiring }
def sHs (done : Nat) : State := (onM (wb frN) fun c => { c with hnd := [(0, hn done)] }).writeN (padAddr 32 16) 16 0x102030405060708090A0B0C0D0E0F00
theorem witness_HandlerEvents_he3 :
    (sHs 1).arg.tile = 32 ∧ (sHs 1).early = [] ∧ (sHs 1).late = [] ∧ (sHs 1).arg.words = [] ∧ ((sHs 1).mtile 32).hnd = [(0, hn 1)] ∧
    (hn 1).runnable = true ∧ (hn 1).firing = some placedFiring ∧ (sHs 1).isLive placedFiring = true ∧
    (sHs 1).frozenAt placedFiring.tile placedFiring.ctx = false :=
  by decide +kernel
theorem witness_HandlerEvents_he4 :
    (sHs 4).arg.tile = 32 ∧ (sHs 4).early = [] ∧ (sHs 4).late = [] ∧ (sHs 4).arg.words = [] ∧
    (((sHs 4).mtile 32).handler (sHs 4).arg.n).busy = true ∧ (((sHs 4).mtile 32).handler (sHs 4).arg.n).firing = some placedFiring ∧
    (((sHs 4).mtile 32).handler (sHs 4).arg.n).done = (((sHs 4).mtile 32).handler (sHs 4).arg.n).total :=
  by decide +kernel
def mW : MxMsg := { firing := frHs, f := fld 0 .h 0 2, lane := 0 }
def sHw : State := onM (wb frHs) fun c => { c with hwait := [mW] }
theorem witness_HandlerEvents_he5 :
    sHw.arg.tile = 32 ∧ sHw.early = [] ∧ sHw.late = [] ∧ sHw.arg.words = [] ∧ (sHw.mtile 32).hwait = [mW] ∧
    xbits mW.f.x 0 4 = sHw.arg.n ∧ sHw.isLive mW.firing = true ∧ sHw.frozenAt mW.firing.tile mW.firing.ctx = false ∧
    ((sHw.mtile 32).handler sHw.arg.n).busy = false ∧ memTileOf mW.firing.tile (xbits mW.f.x 4 1) = 32 :=
  by decide +kernel
def frM : Firing := firing [[.hand h0], [.hand h1], [.scal 2]]
def fM : Fields := { fld 0 .h 0 3 with d0 := some { ix := 5, port := 0 }, d1 := some { ix := 6, port := 0 } }
def wM : Word := 0x800DC00085218000
def msg (fr : Firing) (f : Fields) : MxMsg := { firing := fr, f := f, lane := 0, id := 7 }
def sMx (w : Word) (fr : Firing) (g : CTile → CTile) : State :=
  { (withW (wb fr (buf 2) (buf 2 1)) w).onTile 0 g with issuing := none, arg := { tile := 0 } }
theorem witness_MatrixMessages_mm0 :
    (world frM).issuing = some frM ∧
    Instr.mma fM ∈ [Instr.mma fM, Instr.mmas fM, Instr.mmac fM, Instr.mmsr fM, Instr.accld fM, Instr.accst fM, Instr.cbset fM, Instr.cbswap fM, Instr.mmprg fM, Instr.mmcfg fM] :=
  by decide +kernel
def mI (fr : Firing) : MxMsg := { firing := fr, f := fM, lane := 0 }
def frMb : Firing := firing [[.hand h0], [.hand h1], [.scal 0x4002]]
def sIn (fr : Firing) : State := sMx wM fr fun c => { c with mxIn := [mI fr], mxInbox := [msg fr fM] }
theorem witness_MatrixMessages_mm1 :
    (sIn frM).arg.tile = 0 ∧ ((sIn frM).tile 0).mxIn = [mI frM] ∧ ((sIn frM).tile 0).mxHalted = false ∧
    ((sIn frM).tile 0).mxInbox.length < 2 ∧ backMsg (sIn frM) 0 = none ∧ (sIn frM).fieldsOf (mI frM).firing = some (128, fM) ∧
    128 ≠ 161 ∧ (mI frM).bad = none ∧
    mxCheck (sIn frM) 0 { (mI frM) with id := ((sIn frM).tile 0).mxseq + 1, table := tableAhead ((sIn frM).tile 0) (mxOp (sIn frM)), ecm := ecmAhead (sIn frM) ((sIn frM).tile 0) (mxOp (sIn frM)) (mI frM).firing.ctx } 128 = none :=
  by decide +kernel
theorem witness_MatrixMessages_mm2 :
    (sIn frMb).arg.tile = 0 ∧ ((sIn frMb).tile 0).mxIn = [mI frMb] ∧ ((sIn frMb).tile 0).mxHalted = false ∧
    ((sIn frMb).tile 0).mxInbox.length < 2 ∧ backMsg (sIn frMb) 0 = none ∧ (sIn frMb).fieldsOf (mI frMb).firing = some (128, fM) ∧
    128 ≠ 161 ∧ (mI frMb).bad = none ∧
    mxCheck (sIn frMb) 0 { (mI frMb) with id := ((sIn frMb).tile 0).mxseq + 1, table := tableAhead ((sIn frMb).tile 0) (mxOp (sIn frMb)), ecm := ecmAhead (sIn frMb) ((sIn frMb).tile 0) (mxOp (sIn frMb)) (mI frMb).firing.ctx } 128 = some { cause := 4, port := 2, extra := 16386 } :=
  by decide +kernel
def sBx (w : Word) (fr : Firing) (f : Fields) (run : List MxOp := []) : State := sMx w fr fun c => { c with mxInbox := [msg fr f], mxRun := run }
theorem witness_MatrixTakes_mt1 :
    (sBx wM frM fM).arg.tile = 0 ∧ (msg frM fM).firing.tile = 0 ∧ ((sBx wM frM fM).tile 0).mxInbox = [msg frM fM] ∧
    ((sBx wM frM fM).tile 0).mxHalted = false ∧ heldByFreeze (sBx wM frM fM) 0 (msg frM fM) 128 = false ∧ (msg frM fM).bad = none ∧
    (sBx wM frM fM).fieldsOf (msg frM fM).firing = some (128, fM) ∧ 128 ≠ 161 ∧
    (sBx wM frM fM).frozenAt 0 (msg frM fM).firing.ctx = false ∧
    ((128 ≤ 128 ∧ 128 ≤ 131 ∧ ∀ (o : MxOp), o ∈ ((sBx wM frM fM).tile 0).mxRun → o.steps ≤ o.prog) ∨ (128 = 132 ∨ 128 = 133) ∧ ((sBx wM frM fM).tile 0).mxRun = []) :=
  by decide +kernel
def frAc : Firing := firing [[.hand h0], [.scal 0]]
def fAc : Fields := { fld 0 .h 0 2 with d0 := none, d1 := none }
def st_mt1b : State := sBx 0x840D800000000000 frAc fAc
theorem witness_MatrixTakes_mt1b :
    st_mt1b.arg.tile = 0 ∧ (msg frAc fAc).firing.tile = 0 ∧ (st_mt1b.tile 0).mxInbox = [msg frAc fAc] ∧
    (st_mt1b.tile 0).mxHalted = false ∧ heldByFreeze st_mt1b 0 (msg frAc fAc) 132 = false ∧ (msg frAc fAc).bad = none ∧
    st_mt1b.fieldsOf (msg frAc fAc).firing = some (132, fAc) ∧ 132 ≠ 161 ∧ st_mt1b.frozenAt 0 (msg frAc fAc).firing.ctx = false ∧
    ((128 ≤ 132 ∧ 132 ≤ 131 ∧ ∀ (o : MxOp), o ∈ (st_mt1b.tile 0).mxRun → o.steps ≤ o.prog) ∨ (132 = 132 ∨ 132 = 133) ∧ (st_mt1b.tile 0).mxRun = []) :=
  by decide +kernel
def frCb : Firing := firing [[.scal 5], [.scal 6]]
def fCb : Fields := { fld 0 .b64 0 2 with d0 := none, d1 := none }
def st_mt2 : State := sBx 0x8600800000000000 frCb fCb
theorem witness_MatrixTakes_mt2 :
    st_mt2.arg.tile = 0 ∧ (msg frCb fCb).firing.tile = 0 ∧ (st_mt2.tile 0).mxInbox = [msg frCb fCb] ∧
    (st_mt2.tile 0).mxHalted = false ∧ heldByFreeze st_mt2 0 (msg frCb fCb) 134 = false ∧ (msg frCb fCb).bad = none ∧
    st_mt2.fieldsOf (msg frCb fCb).firing = some (134, fCb) ∧ 134 ≠ 161 ∧ 134 = 134 ∧ shadowBusy st_mt2 (st_mt2.tile 0) (msg frCb fCb) = false :=
  by decide +kernel
def frO : Firing := firing [[.scal 1]]
def fO : Fields := { fld 0 .b64 0 1 with d0 := none, d1 := none }
def st_mt3 : State := sBx 0x8700400000000000 frO fO
theorem witness_MatrixTakes_mt3 :
    st_mt3.arg.tile = 0 ∧ (msg frO fO).firing.tile = 0 ∧ (st_mt3.tile 0).mxInbox = [msg frO fO] ∧ (st_mt3.tile 0).mxHalted = false ∧
    heldByFreeze st_mt3 0 (msg frO fO) 135 = false ∧ (msg frO fO).bad = none ∧ st_mt3.fieldsOf (msg frO fO).firing = some (135, fO) ∧
    135 ≠ 161 ∧ 135 = 135 :=
  by decide +kernel
def fO8 : Fields := { fO with ty := .n64 }
def st_mt4 : State := sBx 0x8808400000000000 frO fO8
theorem witness_MatrixTakes_mt4 :
    st_mt4.arg.tile = 0 ∧ (msg frO fO8).firing.tile = 0 ∧ (st_mt4.tile 0).mxInbox = [msg frO fO8] ∧
    (st_mt4.tile 0).mxHalted = false ∧ heldByFreeze st_mt4 0 (msg frO fO8) 136 = false ∧ (msg frO fO8).bad = none ∧
    st_mt4.fieldsOf (msg frO fO8).firing = some (136, fO8) ∧ 136 ≠ 161 ∧ 136 = 136 :=
  by decide +kernel
def st_mt5 : State := sBx 0x8900400000000000 frO fO
theorem witness_MatrixTakes_mt5 :
    st_mt5.arg.tile = 0 ∧ (msg frO fO).firing.tile = 0 ∧ (st_mt5.tile 0).mxInbox = [msg frO fO] ∧ (st_mt5.tile 0).mxHalted = false ∧
    heldByFreeze st_mt5 0 (msg frO fO) 137 = false ∧ (msg frO fO).bad = none ∧ st_mt5.fieldsOf (msg frO fO).firing = some (137, fO) ∧
    137 ≠ 161 ∧ 137 = 137 :=
  by decide +kernel
def mo (p : Nat) (hl : Option (Nat × Nat) := none) : MxOp := { msg := msg frM fM, steps := 2, prog := p, halt := hl }
def fill16 (s : State) (seed : Nat) : State := (List.range 32).foldl (fun s i => s.writeN (padAddr 32 (4096 * (i / 16) + 16 * (i % 16 / 4) + 2 * (i % 4))) 2 ((seed + i * 2654435761) * 40503 * (i + 3) / 7 % 2 ^ 14 + 0x2000)) s
def sRn (o : MxOp) (ue : List Nat := []) : State := fill16 ((sMx wM frM fun c => { c with mxRun := [o], acc0 := { valid := true, fill := 0x3f800000 } }).onMtile 32 fun c => { c with ue := ue }) 5
theorem witness_MatrixSteps_ms2 :
    (sRn (mo 2)).arg.tile = 0 ∧ ((sRn (mo 2)).tile 0).mxRun = [mo 2] ∧ (sRn (mo 2)).fieldsOf (mo 2).msg.firing = some (128, fM) ∧
    128 ≠ 161 ∧ (mo 2).msg.firing.tile = 0 ∧ (sRn (mo 2)).early = [] ∧ (sRn (mo 2)).late = [] ∧ (sRn (mo 2)).arg.words = [] ∧
    (mo 2).prog = (mo 2).steps :=
  by decide +kernel
theorem witness_MatrixSteps_ms3 :
    (sRn (mo 0) [0]).arg.tile = 0 ∧ ((sRn (mo 0) [0]).tile 0).mxRun = [mo 0] ∧
    (sRn (mo 0) [0]).fieldsOf (mo 0).msg.firing = some (128, fM) ∧ 128 ≠ 161 ∧ (mo 0).msg.firing.tile = 0 ∧
    (sRn (mo 0) [0]).early = [] ∧ (sRn (mo 0) [0]).late = [] ∧ (sRn (mo 0) [0]).arg.words = [] ∧ (mo 0).prog < (mo 0).steps ∧
    (mo 0).halt = none ∧ (sRn (mo 0) [0]).frozenAt 0 (mo 0).msg.firing.ctx = false ∧ fetchFails (sRn (mo 0) [0]) 0 (mo 0) = true :=
  by decide +kernel
theorem witness_MatrixSteps_ms4 :
    (sRn (mo 1 (some (0, 1)))).arg.tile = 0 ∧ ((sRn (mo 1 (some (0, 1)))).tile 0).mxRun = [mo 1 (some (0, 1))] ∧
    (sRn (mo 1 (some (0, 1)))).fieldsOf (mo 1 (some (0, 1))).msg.firing = some (128, fM) ∧ 128 ≠ 161 ∧
    (mo 1 (some (0, 1))).msg.firing.tile = 0 ∧ (sRn (mo 1 (some (0, 1)))).early = [] ∧ (sRn (mo 1 (some (0, 1)))).late = [] ∧
    (sRn (mo 1 (some (0, 1)))).arg.words = [] ∧ (mo 1 (some (0, 1))).halt = some (0, 1) :=
  by decide +kernel
def sLate : State := { sRn (mo 1 (some (0, 1))) with clk := 0x00249F00 }
def sGone : State := sLate.onTile 0 fun c => { c with frames := [] }
theorem witness_MatrixSteps_ms4b :
    sLate.arg.tile = 0 ∧ (sLate.tile 0).mxRun = [mo 1 (some (0, 1))] ∧
    sLate.fieldsOf (mo 1 (some (0, 1))).msg.firing = some (128, fM) ∧ 128 ≠ 161 ∧ (mo 1 (some (0, 1))).msg.firing.tile = 0 ∧
    sLate.early = [] ∧ sLate.late = [] ∧ sLate.arg.words = [] ∧ (mo 1 (some (0, 1))).halt = some (0, 1) ∧
    sLate.isLive (mo 1 (some (0, 1))).msg.firing = true ∧ 0 + (sLate.tile 0).mxhto ≤ sLate.clk :=
  by decide +kernel
def sFz : State := { sRn (mo 1) with sw := { sw0 with graphs := [(1, { jid := 1, img := 0, dir := [0], regions := [region0], st := .freezing })] } }
theorem witness_MatrixSteps_ms5 :
    sFz.arg.tile = 0 ∧ (sFz.tile 0).mxRun = [mo 1] ∧ sFz.fieldsOf (mo 1).msg.firing = some (128, fM) ∧ 128 ≠ 161 ∧
    (mo 1).msg.firing.tile = 0 ∧ sFz.early = [] ∧ sFz.late = [] ∧ sFz.arg.words = [] ∧ sFz.frozenAt 0 sFz.arg.n = true ∧
    (mo 1).msg.firing.ctx = sFz.arg.n ∧ (mo 1).msg.bad = none ∧ (mo 1).prog < (mo 1).steps ∧ 128 ≤ 128 ∧ 128 ≤ 133 ∧
    (sFz.tile 0).mxInbox = [] :=
  by decide +kernel
def sM0 : State := (sMx wM frM fun c => { c with mxRun := [mo 0], acc0 := { valid := true, fill := 0x3f800000 } })
theorem witness_MatrixSteps_ms1 :
    sM0.arg.tile = 0 ∧ (sM0.tile 0).mxRun = [mo 0] ∧ sM0.fieldsOf (mo 0).msg.firing = some (128, fM) ∧ 128 ≠ 161 ∧
    (mo 0).msg.firing.tile = 0 ∧ sM0.early = [] ∧ sM0.late = [] ∧ sM0.arg.words = [] ∧ (mo 0).prog < (mo 0).steps ∧
    (mo 0).halt = none ∧ sM0.frozenAt 0 (mo 0).msg.firing.ctx = false ∧ fetchFails sM0 0 (mo 0) = false :=
  by decide +kernel
theorem witness_MatrixSteps_ms4c :
    sGone.arg.tile = 0 ∧ (sGone.tile 0).mxRun = [mo 1 (some (0, 1))] ∧
    sGone.fieldsOf (mo 1 (some (0, 1))).msg.firing = some (128, fM) ∧ 128 ≠ 161 ∧ (mo 1 (some (0, 1))).msg.firing.tile = 0 ∧
    sGone.early = [] ∧ sGone.late = [] ∧ sGone.arg.words = [] ∧ (mo 1 (some (0, 1))).halt = some (0, 1) ∧
    sGone.isLive (mo 1 (some (0, 1))).msg.firing = false :=
  by decide +kernel
theorem witness_MatrixSteps_ms1_2 :
    sM0.arg.tile = 0 ∧ (sM0.tile 0).mxRun = [mo 0] ∧ sM0.fieldsOf (mo 0).msg.firing = some (128, fM) ∧ 128 ≠ 161 ∧
    (mo 0).msg.firing.tile = 0 ∧ sM0.early = [] ∧ sM0.late = [] ∧ sM0.arg.words = [] ∧ 128 ≤ 128 ∧ 128 ≤ 131 ∧
    (mo 0).msg.firing.handles = [h0, h1] ∧ (mo 0).prog < (mo 0).steps ∧ (mo 0).halt = none ∧
    sM0.frozenAt 0 (mo 0).msg.firing.ctx = false ∧ (∀ (k : Nat), (sM0.mtile k).ue = []) ∧
    field (cmdWord sM0 (mo 0).msg 128) 2 6 + (bufOf sM0 (tileDie 0) h0).rows ≤ 64 ∧
    field (cmdWord sM0 (mo 0).msg 128) 8 6 + (bufOf sM0 (tileDie 0) h1).cols ≤ 64 :=
  by refine ⟨?_, ?_, ?_, ?_, ?_, ?_, ?_, ?_, ?_, ?_, ?_, ?_, ?_, ?_, ue_only _ ((sM0).mtile 32) ?_ ?_, ?_, ?_⟩ <;> decide +kernel
def moA : MxOp := { msg := msg frAc fAc, steps := 4, prog := 0 }
def sMoA : State := sMx 0x840D800000000000 frAc fun c => { c with mxRun := [moA], acc0 := { valid := true, fill := 0x3f800000 } }
theorem witness_MatrixSteps_acc :
    sMoA.arg.tile = 0 ∧ (sMoA.tile 0).mxRun = [moA] ∧ sMoA.fieldsOf moA.msg.firing = some (132, fAc) ∧ 132 ≠ 161 ∧
    moA.msg.firing.tile = 0 ∧ sMoA.early = [] ∧ sMoA.late = [] ∧ sMoA.arg.words = [] ∧ (132 = 132 ∨ 132 = 133) ∧
    moA.msg.firing.handles = [h0] ∧ moA.prog < moA.steps ∧ moA.halt = none ∧ sMoA.frozenAt 0 moA.msg.firing.ctx = false ∧
    (∀ (k : Nat), (sMoA.mtile k).ue = []) ∧ field (cmdWord sMoA moA.msg 132) 0 6 + (bufOf sMoA (tileDie 0) h0).rows ≤ 64 ∧
    field (cmdWord sMoA moA.msg 132) 6 6 + (bufOf sMoA (tileDie 0) h0).cols ≤ 64 :=
  by refine ⟨?_, ?_, ?_, ?_, ?_, ?_, ?_, ?_, ?_, ?_, ?_, ?_, ?_, ue_only _ ((sMoA).mtile 32) ?_ ?_, ?_, ?_⟩ <;> decide +kernel

end Handlers

/-! ## Nodes -/

namespace Nodes

def wb (fr : Firing) (x : Desc := buf 0) (y : Desc := buf 0 1) : State := buffers (world fr) x y
def frL : Firing := firing [[.scal 0x1000, .scal 0x1044]]
def frL1 : Firing := firing [[.scal 0x1004]]
def frS : Firing := firing [[.scal 0x1000, .scal 0x1044], [.scal 5, .scal 6]]
theorem witness_MemoryNodes_ld :
    (world frL).issuing = some frL ∧ 0 < frL.rl ∧ Clean frL ∧
    (∀ (i : Nat), i < frL.rl → addr (opAt frL.ops 0 i).word % (((fld 0 Ty.f32 0 1).ty.width + 7) / 8) = 0) ∧
    (xbits (fld 0 Ty.f32 0 1).x 1 2 ≠ 1 ∨ ∀ (p : Nat × Slot), p ∈ ((world frL).tile frL.tile).slots → p.snd.valid = true → p.snd.ctx = frL.ctx → p.snd.ch ≠ xbits (fld 0 Ty.f32 0 1).x 10 2) :=
  by decide +kernel
def bytes7 : List Byte := List.replicate 64 7
def line1 : Line := { va := 0x1000, bytes := some bytes7 }
def slot1 : Slot := { valid := true, ctx := 0, ch := 0, win := 1, nextj := 1, count := 2, base := 0x1000, stride := 64, lines := [line1] }
def sSt : State := (world frL1).onTile 0 fun c => { c with slots := [(3, slot1)] }
theorem witness_MemoryNodes_lds :
    sSt.issuing = some frL1 ∧ 0 < frL1.rl ∧ Clean frL1 ∧
    (∀ (i : Nat), i < frL1.rl → addr (opAt frL1.ops 0 i).word % (((fld 0 Ty.f32 2 1).ty.width + 7) / 8) = 0) ∧ Spec.One sSt frL1 ∧
    xbits (fld 0 Ty.f32 2 1).x 1 2 = 1 ∧ (sSt.tile frL1.tile).slots = [(3, slot1)] ∧ slot1.valid = true ∧ slot1.ctx = frL1.ctx ∧
    slot1.ch = xbits (fld 0 Ty.f32 2 1).x 10 2 ∧ slot1.lines = [line1] ∧ line1.bad = false ∧ line1.bytes = some bytes7 ∧
    addr line1.va = granule (addr (opAt frL1.ops 0 0).word) ∧ frL1.handles = [] ∧
    (∀ (o : MemOp), o ∈ (sSt.tile frL1.tile).mops → o.id ≠ sSt.opno) :=
  by decide +kernel
theorem witness_MemoryNodes_st :
    (world frS).issuing = some frS ∧ 0 < frS.rl ∧ Clean frS ∧
    (∀ (i : Nat), i < frS.rl → addr (opAt frS.ops 0 i).word % (((fld 0 Ty.f32 0).ty.width + 7) / 8) = 0) :=
  by decide +kernel
def frTr : Firing := firing [[.dn, .dn]]
theorem witness_MemoryNodes_arg :
    (world frTr).issuing = some frTr ∧ 0 < frTr.rl ∧ Clean frTr ∧ (world frTr).frameOf frTr = some placedFrame ∧
    List.find? (fun l => l.queue == placedFrame.unit.queue && l.entry == placedFrame.unit.entry) (world frTr).sw.launch = some launch0 ∧
    (∀ (i : Nat), i < frTr.rl → (BitVec.toNat placedFrame.argp + (frTr.lb + i) * field (launch0.word 2) 0 16 + 8 * xbits (fld 0 Ty.b64 3 1).x 0 6) % 2 ^ 57 % 8 = 0) :=
  by decide +kernel
def frT : Firing := firing [[.hand h0], [.scal 0x1000], [.scal 16]]
theorem witness_MemoryNodes_ldt :
    (wb frT).issuing = some frT ∧ 0 < frT.rl ∧ Clean frT ∧ Spec.One (wb frT) frT ∧ Uses (wb frT) frT 0 h0 true true ∧
    0 < rowBytes (desc (wb frT) frT h0).shape ∧ addr (word (wb frT) frT (fld 0 Ty.h 0 3) 1 0) % 16 = 0 ∧
    BitVec.toNat (word (wb frT) frT (fld 0 Ty.h 0 3) 2 0) % 16 = 0 ∧
    rowBytes (desc (wb frT) frT h0).shape ≤ BitVec.toNat (word (wb frT) frT (fld 0 Ty.h 0 3) 2 0) ∧
    BitVec.toNat (word (wb frT) frT (fld 0 Ty.h 0 3) 2 0) < 2 ^ 32 ∧ true = true :=
  by decide +kernel
theorem witness_MemoryNodes_stt :
    (wb frT).issuing = some frT ∧ 0 < frT.rl ∧ Clean frT ∧ Spec.One (wb frT) frT ∧ Uses (wb frT) frT 0 h0 true false ∧
    0 < rowBytes (desc (wb frT) frT h0).shape ∧ addr (word (wb frT) frT (fld 0 Ty.h 0 3) 1 0) % 16 = 0 ∧
    BitVec.toNat (word (wb frT) frT (fld 0 Ty.h 0 3) 2 0) % 16 = 0 ∧
    rowBytes (desc (wb frT) frT h0).shape ≤ BitVec.toNat (word (wb frT) frT (fld 0 Ty.h 0 3) 2 0) ∧
    BitVec.toNat (word (wb frT) frT (fld 0 Ty.h 0 3) 2 0) < 2 ^ 32 ∧ false = false :=
  by decide +kernel
def frG : Firing := firing [[.hand h0], [.hand h1], [.scal 0x1000]]
def idx : Desc := { buf 25 1 with shape := BitVec.ofNat 64 (3 + 25 * 2 ^ 26 + 16 * 2 ^ 32) }
theorem witness_MemoryNodes_ldg :
    (wb frG (buf 0) idx).issuing = some frG ∧ 0 < frG.rl ∧ Clean frG ∧ Spec.One (wb frG (buf 0) idx) frG ∧
    Uses (wb frG (buf 0) idx) frG 0 h0 true true ∧ 0 < rowBytes (desc (wb frG (buf 0) idx) frG h0).shape ∧
    Uses (wb frG (buf 0) idx) frG 1 h1 true false ∧ ((wb frG (buf 0) idx).mtile (home frG h1)).ue = [] ∧
    ((wb frG (buf 0) idx).mtile (home frG h1)).poison? (hDesc h1) = none ∧
    addr (word (wb frG (buf 0) idx) frG (fld 0 Ty.h 0 3) 2 0) % 16 = 0 ∧
    idxOk (bufOf (wb frG (buf 0) idx) (tileDie frG.tile) h1) (tRows (desc (wb frG (buf 0) idx) frG h0).shape) = true ∧
    (∀ (i : Nat),
      i < tRows (desc (wb frG (buf 0) idx) frG h0).shape →
        elemI (bufOf (wb frG (buf 0) idx) (tileDie frG.tile) h1).fmt
              (if (bufOf (wb frG (buf 0) idx) (tileDie frG.tile) h1).cols = 1 then
                (wb frG (buf 0) idx).elemGet (bufOf (wb frG (buf 0) idx) (tileDie frG.tile) h1).m
                  (bufOf (wb frG (buf 0) idx) (tileDie frG.tile) h1).x i 0
              else
                (wb frG (buf 0) idx).elemGet (bufOf (wb frG (buf 0) idx) (tileDie frG.tile) h1).m
                  (bufOf (wb frG (buf 0) idx) (tileDie frG.tile) h1).x 0 i) %
            16 =
          0) ∧
    true = true :=
  by decide +kernel
theorem witness_MemoryNodes_stg :
    (wb frG (buf 0) idx).issuing = some frG ∧ 0 < frG.rl ∧ Clean frG ∧ Spec.One (wb frG (buf 0) idx) frG ∧
    Uses (wb frG (buf 0) idx) frG 0 h0 true false ∧ 0 < rowBytes (desc (wb frG (buf 0) idx) frG h0).shape ∧
    Uses (wb frG (buf 0) idx) frG 1 h1 true false ∧ ((wb frG (buf 0) idx).mtile (home frG h1)).ue = [] ∧
    ((wb frG (buf 0) idx).mtile (home frG h1)).poison? (hDesc h1) = none ∧
    addr (word (wb frG (buf 0) idx) frG (fld 0 Ty.h 0 3) 2 0) % 16 = 0 ∧
    idxOk (bufOf (wb frG (buf 0) idx) (tileDie frG.tile) h1) (tRows (desc (wb frG (buf 0) idx) frG h0).shape) = true ∧
    (∀ (i : Nat),
      i < tRows (desc (wb frG (buf 0) idx) frG h0).shape →
        elemI (bufOf (wb frG (buf 0) idx) (tileDie frG.tile) h1).fmt
              (if (bufOf (wb frG (buf 0) idx) (tileDie frG.tile) h1).cols = 1 then
                (wb frG (buf 0) idx).elemGet (bufOf (wb frG (buf 0) idx) (tileDie frG.tile) h1).m
                  (bufOf (wb frG (buf 0) idx) (tileDie frG.tile) h1).x i 0
              else
                (wb frG (buf 0) idx).elemGet (bufOf (wb frG (buf 0) idx) (tileDie frG.tile) h1).m
                  (bufOf (wb frG (buf 0) idx) (tileDie frG.tile) h1).x 0 i) %
            16 =
          0) ∧
    false = false :=
  by decide +kernel
def frAt : Firing := firing [[.scal 0x1000, .scal 0x1044], [.scal 5, .scal 6], [.scal 7, .scal 8]]
def frAg : Firing := firing [[.scal (2 ^ 56 + 0x1000), .scal (2 ^ 56 + 0x1044)], [.scal 5, .scal 6]]
theorem witness_HomeRequests_at0 :
    (world frAt).issuing = some frAt ∧ 0 < frAt.rl ∧ Clean frAt ∧
    Aligned (world frAt) frAt (fld 5 Ty.i32 0 3) (if (fld 5 Ty.i32 0 3).ty = Ty.bf16 then 4 else ((fld 5 Ty.i32 0 3).ty.width + 7) / 8) false :=
  by decide +kernel
theorem witness_HomeRequests_at0b :
    (world frAt).issuing = some frAt ∧ 0 < frAt.rl ∧ Clean frAt ∧
    Aligned (world frAt) frAt (fld 0 Ty.i32 0 3) (if (fld 0 Ty.i32 0 3).ty = Ty.bf16 then 4 else ((fld 0 Ty.i32 0 3).ty.width + 7) / 8) false ∧
    (fld 0 Ty.i32 0 3).sub.toNat / 4 = 0 :=
  by decide +kernel
theorem witness_HomeRequests_at0c :
    (world frAt).issuing = some frAt ∧ 0 < frAt.rl ∧ Clean frAt ∧
    Aligned (world frAt) frAt (fld 8 Ty.f32 0 3) (if (fld 8 Ty.f32 0 3).ty = Ty.bf16 then 4 else ((fld 8 Ty.f32 0 3).ty.width + 7) / 8) false ∧
    (fld 8 Ty.f32 0 3).sub.toNat / 4 = 2 :=
  by decide +kernel
theorem witness_HomeRequests_at0d :
    (world frAt).issuing = some frAt ∧ 0 < frAt.rl ∧ Clean frAt ∧
    Aligned (world frAt) frAt (fld 4 Ty.f32 0 3) (if (fld 4 Ty.f32 0 3).ty = Ty.bf16 then 4 else ((fld 4 Ty.f32 0 3).ty.width + 7) / 8) false ∧
    (fld 4 Ty.f32 0 3).sub.toNat / 4 = 1 :=
  by decide +kernel
def frK : Firing := firing [[.scal 0x1000], [.scal 5], [.scal 7]]
theorem witness_HomeRequests_at1 :
    (world frK).issuing = some frK ∧ 0 < frK.rl ∧ Clean frK ∧
    Aligned (world frK) frK (fld 1 Ty.n64 0 3) (if (fld 1 Ty.n64 0 3).ty = Ty.bf16 then 4 else ((fld 1 Ty.n64 0 3).ty.width + 7) / 8) true :=
  by decide +kernel
theorem witness_HomeRequests_at2 :
    (world frK).issuing = some frK ∧ 0 < frK.rl ∧ Clean frK ∧ Aligned (world frK) frK (fld 0 Ty.b64 0 3) 16 false :=
  by decide +kernel
def frMis : Firing := firing [[.scal 0x1004], [.scal 5], [.scal 7]]
theorem witness_HomeRequests_at3 :
    (world frMis).issuing = some frMis ∧ 0 < frMis.rl ∧ Clean frMis ∧ frMis.rl = 1 ∧ (world frMis).detected = [] ∧
    ((world frMis).tile frMis.tile).mops = [] ∧
    (addr (word (world frMis) frMis (fld 0 Ty.n64 0 3) 0 0) % if (fld 0 Ty.n64 0 3).ty = Ty.bf16 then 4 else ((fld 0 Ty.n64 0 3).ty.width + 7) / 8) ≠ 0 ∧
    Instr.acas (fld 0 Ty.n64 0 3) ∈
      [Instr.aadd (fld 0 Ty.n64 0 3), Instr.afadd (fld 0 Ty.n64 0 3), Instr.amin (fld 0 Ty.n64 0 3),
        Instr.amax (fld 0 Ty.n64 0 3), Instr.alog (fld 0 Ty.n64 0 3), Instr.axch (fld 0 Ty.n64 0 3),
        Instr.acas (fld 0 Ty.n64 0 3), Instr.ainc (fld 0 Ty.n64 0 3), Instr.acask (fld 0 Ty.n64 0 3),
        Instr.aaddk (fld 0 Ty.n64 0 3), Instr.itake (fld 0 Ty.n64 0 3), Instr.iput (fld 0 Ty.n64 0 3),
        Instr.iread (fld 0 Ty.n64 0 3), Instr.iclr (fld 0 Ty.n64 0 3), Instr.ared (fld 0 Ty.n64 0 3)] :=
  by decide +kernel
theorem witness_HomeRequests_at3b :
    (world frMis).issuing = some frMis ∧ 0 < frMis.rl ∧ Clean frMis ∧ frMis.rl = 1 ∧ (world frMis).detected = [] ∧
    ((world frMis).tile frMis.tile).mops = [] ∧
    (addr (word (world frMis) frMis (fld 0 Ty.n64 0) 0 0) % if (fld 0 Ty.n64 0).ty = Ty.bf16 then 4 else ((fld 0 Ty.n64 0).ty.width + 7) / 8) ≠ 0 ∧
    Instr.ared (fld 0 Ty.n64 0) ∈
      [Instr.aadd (fld 0 Ty.n64 0), Instr.afadd (fld 0 Ty.n64 0), Instr.amin (fld 0 Ty.n64 0), Instr.amax (fld 0 Ty.n64 0),
        Instr.alog (fld 0 Ty.n64 0), Instr.axch (fld 0 Ty.n64 0), Instr.acas (fld 0 Ty.n64 0), Instr.ainc (fld 0 Ty.n64 0),
        Instr.acask (fld 0 Ty.n64 0), Instr.aaddk (fld 0 Ty.n64 0), Instr.itake (fld 0 Ty.n64 0), Instr.iput (fld 0 Ty.n64 0),
        Instr.iread (fld 0 Ty.n64 0), Instr.iclr (fld 0 Ty.n64 0), Instr.ared (fld 0 Ty.n64 0)] :=
  by decide +kernel
theorem witness_SystemRequests_sys : (world frK).issuing = some frK ∧ 0 < frK.rl ∧ Clean frK := by decide +kernel
def frX : Firing := firing [[.hand h0]]
theorem witness_SystemRequests_xadd :
    (wb frX).issuing = some frX ∧ 0 < frX.rl ∧ Clean frX ∧ Spec.One (wb frX) frX ∧ Uses (wb frX) frX 0 h0 true false :=
  by decide +kernel
def frRg : Firing := firing [[.scal 0x1000], [.scal 0x700000002], [.scal 64]]
def o1 : Firing := firing [[.scal 9]]
theorem witness_OrderingAndCopies_ord : (world o1).issuing = some o1 ∧ Clean o1 := by decide +kernel
theorem witness_OrderingAndCopies_ropen :
    (world frRg).issuing = some frRg ∧ Clean frRg ∧ Spec.One (world frRg) frRg ∧ frRg.handles = [] ∧
    ((world frRg).tile frRg.tile).opens = [] ∧ ((world frRg).operand frRg (fld 0 Ty.va 2 3) 1 0).word = 30064771074 ∧
    field 30064771074 37 27 = 0 ∧ field 30064771074 0 32 ≠ 0 ∧ (world frRg).isLive frRg = true ∧
    (world frRg).frozenAt frRg.tile frRg.ctx = false ∧ (∃ j, j < 8 ∧ (((world frRg).tile frRg.tile).slot j).valid = false) :=
  by refine ⟨?_, ?_, ?_, ?_, ?_, ?_, ⟨?_, ?_, ?_, ?_, ⟨0, ?_, ?_⟩⟩⟩ <;> decide +kernel
theorem witness_OrderingAndCopies_rclose :
    sSt.issuing = some frL1 ∧ Clean frL1 ∧ Spec.One sSt frL1 ∧ frL1.handles = [] ∧ (sSt.tile frL1.tile).opens = [] :=
  by decide +kernel
theorem witness_OrderingAndCopies_waitc : sSt.issuing = some frL1 ∧ Clean frL1 := by decide +kernel
def xo : Frame := { placedFrame with old := 2, ocp := 1, outl := [(1, .old), (2, .ocp), (3, .old)] }
def sFe : State := (world o1).onFrame 0 0 fun _ => xo
theorem witness_OrderingAndCopies_fence : sFe.issuing = some o1 ∧ Clean o1 ∧ sFe.frameOf o1 = some xo := by decide +kernel
theorem witness_OrderingAndCopies_cpy0 : (wb frT).issuing = some frT ∧ Clean frT := by decide +kernel
theorem witness_OrderingAndCopies_cpy1 : (wb frT).issuing = some frT ∧ Clean frT := by decide +kernel
theorem witness_OrderingAndCopies_cpy2 : (wb frT).issuing = some frT ∧ Clean frT := by decide +kernel
theorem witness_OrderingAndCopies_cpywp :
    (wb o1).issuing = some o1 ∧ Clean o1 ∧ Spec.One (wb o1) o1 ∧ o1.handles = [] ∧
    ((wb o1).mtile (memTileOf o1.tile (xbits (fld 0 Ty.n32 0 1).x 2 1))).chanAllot o1.ctx (xbits (fld 0 Ty.n32 0 1).x 0 2) = true :=
  by decide +kernel
theorem witness_OrderingAndCopies_cpywait1 :
    (wb o1).issuing = some o1 ∧ Clean o1 ∧ Spec.One (wb o1) o1 ∧ o1.handles = [] ∧
    ((wb o1).mtile (memTileOf o1.tile (xbits (fld 0 Ty.n32 0 1).x 2 1))).chanAllot o1.ctx (xbits (fld 0 Ty.n32 0 1).x 0 2) = true ∧
    reached (((wb o1).mtile (memTileOf o1.tile (xbits (fld 0 Ty.n32 0 1).x 2 1))).chan (xbits (fld 0 Ty.n32 0 1).x 0 2)).wp (BitVec.toNat (word (wb o1) o1 (fld 0 Ty.n32 0 1) 0 0) % 2 ^ 32) = false ∧
    (∀ (w : Firing × Fields × Nat × Nat), w ∈ (((wb o1).mtile (memTileOf o1.tile (xbits (fld 0 Ty.n32 0 1).x 2 1))).chan (xbits (fld 0 Ty.n32 0 1).x 0 2)).waits → reached (((wb o1).mtile (memTileOf o1.tile (xbits (fld 0 Ty.n32 0 1).x 2 1))).chan (xbits (fld 0 Ty.n32 0 1).x 0 2)).wp w.snd.snd.fst = false) ∧
    (((wb o1).mtile (memTileOf o1.tile (xbits (fld 0 Ty.n32 0 1).x 2 1))).chan (xbits (fld 0 Ty.n32 0 1).x 0 2)).waits.length < 16 ∧
    (((wb o1).mtile (memTileOf o1.tile (xbits (fld 0 Ty.n32 0 1).x 2 1))).chan (xbits (fld 0 Ty.n32 0 1).x 0 2)).wq = [] :=
  by decide +kernel
def oz : Firing := firing [[.scal 0]]
theorem witness_OrderingAndCopies_cpywait2 :
    (wb oz).issuing = some oz ∧ Clean oz ∧ Spec.One (wb oz) oz ∧ oz.handles = [] ∧
    ((wb oz).mtile (memTileOf oz.tile (xbits (fld 0 Ty.n32 0 1).x 2 1))).chanAllot oz.ctx (xbits (fld 0 Ty.n32 0 1).x 0 2) = true ∧
    reached (((wb oz).mtile (memTileOf oz.tile (xbits (fld 0 Ty.n32 0 1).x 2 1))).chan (xbits (fld 0 Ty.n32 0 1).x 0 2)).wp (BitVec.toNat (word (wb oz) oz (fld 0 Ty.n32 0 1) 0 0) % 2 ^ 32) = true ∧
    (((wb oz).mtile (memTileOf oz.tile (xbits (fld 0 Ty.n32 0 1).x 2 1))).chan (xbits (fld 0 Ty.n32 0 1).x 0 2)).waits = [] ∧
    (((wb oz).mtile (memTileOf oz.tile (xbits (fld 0 Ty.n32 0 1).x 2 1))).chan (xbits (fld 0 Ty.n32 0 1).x 0 2)).wq = [] :=
  by decide +kernel
def cp : Copy := { id := 4, firing := placedFiring, f := fld 0 .h 0 3, op := 0xA0, jid := 1, lane := 0, handle := h0, stop := 64 }
def sCan : State := (wb o1).onMtile 32 fun c => { c with chans := [(0, { copies := [cp], stop := 64 })] }
theorem witness_OrderingAndCopies_cpycan :
    sCan.issuing = some o1 ∧ Clean o1 ∧ Spec.One sCan o1 ∧ o1.handles = [] ∧
    (sCan.mtile (memTileOf o1.tile (xbits (fld 0 Ty.n32 0 1).x 2 1))).chanAllot o1.ctx (xbits (fld 0 Ty.n32 0 1).x 0 2) = true :=
  by decide +kernel
theorem witness_OrderingAndCopies_perf : sCan.issuing = some o1 ∧ Clean o1 := by decide +kernel
theorem witness_OrderingAndCopies_trap : sCan.issuing = some o1 ∧ Clean o1 := by decide +kernel
theorem witness_HomeRequests_ar0 :
    (world frAg).issuing = some frAg ∧ 0 < frAg.rl ∧ Clean frAg ∧
    Aligned (world frAg) frAg (fld 0 Ty.n32 0) (if (fld 0 Ty.n32 0).ty = Ty.bf16 then 4 else ((fld 0 Ty.n32 0).ty.width + 7) / 8) false ∧
    (∀ (i : Nat), i < frAg.rl → vaG (word (world frAg) frAg (fld 0 Ty.n32 0) 0 i) = true) ∧ (fld 0 Ty.n32 0).sub.toNat / 4 = 0 :=
  by decide +kernel
theorem witness_HomeRequests_ar1 :
    (world frAg).issuing = some frAg ∧ 0 < frAg.rl ∧ Clean frAg ∧
    Aligned (world frAg) frAg (fld 4 Ty.i32 0) (if (fld 4 Ty.i32 0).ty = Ty.bf16 then 4 else ((fld 4 Ty.i32 0).ty.width + 7) / 8) false ∧
    (∀ (i : Nat), i < frAg.rl → vaG (word (world frAg) frAg (fld 4 Ty.i32 0) 0 i) = true) ∧ (fld 4 Ty.i32 0).sub.toNat / 4 = 1 :=
  by decide +kernel
theorem witness_HomeRequests_ar2 :
    (world frAg).issuing = some frAg ∧ 0 < frAg.rl ∧ Clean frAg ∧
    Aligned (world frAg) frAg (fld 8 Ty.f32 0) (if (fld 8 Ty.f32 0).ty = Ty.bf16 then 4 else ((fld 8 Ty.f32 0).ty.width + 7) / 8) false ∧
    (∀ (i : Nat), i < frAg.rl → vaG (word (world frAg) frAg (fld 8 Ty.f32 0) 0 i) = true) ∧ (fld 8 Ty.f32 0).sub.toNat / 4 = 2 :=
  by decide +kernel
theorem witness_HomeRequests_at3c :
    (world frK).issuing = some frK ∧ 0 < frK.rl ∧ Clean frK ∧ frK.rl = 1 ∧ (world frK).detected = [] ∧
    ((world frK).tile frK.tile).mops = [] ∧
    (addr (word (world frK) frK (fld 0 Ty.n64 0) 0 0) % if (fld 0 Ty.n64 0).ty = Ty.bf16 then 4 else ((fld 0 Ty.n64 0).ty.width + 7) / 8) = 0 ∧
    vaG (word (world frK) frK (fld 0 Ty.n64 0) 0 0) = false :=
  by decide +kernel

end Nodes

/-! ## Homes -/

namespace Homes

def fLd : Fields := { fld 0 .f32 0 1 with d1 := none }
def rowP : Piece := { va := 0x1000, acc := .readRow 64 }
def opA : MemOp := { id := 3, firing := placedFiring, f := fLd, op := 0x90, jid := 1, pieces := [{ va := 0x1000, acc := .loads [(0, 0x1000, 4)] }], cnt := some .old }
def on (s : State) (g : CTile → CTile) : State := { s.onTile 0 (fun c => g { c with bwen := false }) with arg := { tile := 0, n := 0 } }
def sIs : State := on idle fun c => { c with mops := [opA] }
def opB : MemOp := { opA with pieces := [], out := 1 }
def reqB : Req := { id := 8, src := .port 0, own := 3, jid := 1, piece := { va := 0x1000, acc := .loads [(0, 0x1000, 4)] } }
def repB : Rep := { req := reqB, vals := [(0, .runv 9, .dn)] }
def sRp : State := { on idle fun c => { (c.setFrame 0 { placedFrame with old := 1, outl := [(0, .old)] }) with mops := [opB] } with reps := [repB] }
theorem witness_PortEvents_pr :
    sRp.arg.tile = 0 ∧ sRp.nthRep (Rep.forPort 0) sRp.arg.n = some (repB, 0) ∧ (sRp.tile 0).mops = [opB] ∧ opB.id = repB.req.own ∧
    opB.op = 144 ∧ opB.firing.rl = 1 ∧ opB.errs = [] ∧ opB.vals = [] ∧ opB.pieces = [] ∧ opB.out = 1 ∧ opB.lent = false ∧
    xbits opB.f.x 1 2 ≠ 2 ∧ opB.cnt = some Cnt.old ∧ repB.cause = 0 ∧ repB.vals = [(0, LVal.runv 9, LVal.dn)] ∧
    (∀ (k : Nat), repB.req.piece.acc ≠ AccOp.readRow k) ∧ opB.firing.tile = 0 ∧ opB.land = [] :=
  by refine ⟨?_, ?_, ?_, ?_, ?_, ?_, ⟨?_, ?_, ?_, ?_, ?_, ?_, ⟨?_, ?_, ?_, (by intro k hk; cases hk), ?_, ?_⟩⟩⟩ <;> decide +kernel
def land0 : Nat × List Byte := (0, List.replicate 16 1)
def opLa : MemOp := { id := 3, firing := placedFiring, f := fLd, op := 0x92, jid := 1, out := 1, cnt := some .old, land := [land0, land0] }
def sLa : State := on idle fun c => { c with mops := [opLa] }
def slot1 : Slot := { valid := true, ctx := 0, ch := 0, win := 2, nextj := 1, count := 2, base := 0x1000, stride := 64, lines := [{ va := 0x1000, bytes := none }], epoch := 6 }
def sSl : State := on idle fun c => { c with slots := [(0, slot1)] }
theorem witness_PortEvents_sf :
    sSl.arg.tile = 0 ∧ ((sSl.tile 0).slot sSl.arg.n).valid = true ∧
    ((sSl.tile 0).slot sSl.arg.n).nextj < ((sSl.tile 0).slot sSl.arg.n).count ∧
    (∀ (l : Line), ((sSl.tile 0).slot sSl.arg.n).lines.getLast? = some l → addr l.va ≠ granule ((((addr ((sSl.tile 0).slot sSl.arg.n).base : Nat) : Int) + ((((sSl.tile 0).slot sSl.arg.n).nextj : Nat) : Int) * BitVec.toInt ((sSl.tile 0).slot sSl.arg.n).stride) % 2 ^ 57).toNat) ∧
    ((sSl.tile 0).slot sSl.arg.n).lines.length < ((sSl.tile 0).slot sSl.arg.n).win ∧ sSl.outstanding 0 < 256 ∧
    (sSl.tile 0).hasCredit ((sSl.jobAt 0 ((sSl.tile 0).slot sSl.arg.n).ctx).getD 0) = true ∧
    sSl.spokeOpen (tileDie 0) (BitVec.ofNat 64 (granule ((((addr ((sSl.tile 0).slot sSl.arg.n).base : Nat) : Int) + ((((sSl.tile 0).slot sSl.arg.n).nextj : Nat) : Int) * BitVec.toInt ((sSl.tile 0).slot sSl.arg.n).stride) % 2 ^ 57).toNat)) sSl.reqno = true :=
  by decide +kernel
def reqC : Req := { id := 8, src := .slot 0 0, own := 6, jid := 1, piece := rowP }
def repC (c : Nat) : Rep := { req := reqC, cause := c, bytes := List.replicate 64 1 }
def sRc (c : Nat) : State := { sSl with reps := [repC c] }
theorem witness_PortEvents_sr0 :
    (sRc 0).arg.tile = 0 ∧ (sRc 0).nthRep (Rep.forSlot 0) (sRc 0).arg.n = some (repC 0, 0) ∧ (repC 0).req.src = Src.slot 0 0 ∧
    (((sRc 0).tile 0).slot 0).valid = true ∧ (((sRc 0).tile 0).slot 0).epoch = (repC 0).req.own ∧
    (((sRc 0).tile 0).slot 0).lines = [({ va := 4096 } : Line)] ∧ (4096) = (repC 0).req.piece.va ∧
    ({ va := 4096 } : Line).bytes = none ∧ ({ va := 4096 } : Line).bad = false :=
  by decide +kernel
theorem witness_PortEvents_sr1 :
    (sRc 3).arg.tile = 0 ∧ (sRc 3).nthRep (Rep.forSlot 0) (sRc 3).arg.n = some (repC 3, 0) ∧ (repC 3).req.src = Src.slot 0 0 ∧
    (((sRc 3).tile 0).slot 0).valid = true ∧ (((sRc 3).tile 0).slot 0).epoch = (repC 3).req.own ∧
    (((sRc 3).tile 0).slot 0).lines = [({ va := 4096 } : Line)] ∧ (4096) = (repC 3).req.piece.va ∧
    ({ va := 4096 } : Line).bytes = none ∧ ({ va := 4096 } : Line).bad = false :=
  by decide +kernel
def fe (w : Bool) (sub x : Nat) : Fence := { firing := placedFiring, f := fld sub .b64 x 1, waitc := w, mem := [1] }
def xF (o : List (Nat × Cnt)) : Frame := { placedFrame with old := o.length, outl := o }
def sFe (e : Fence) (o : List (Nat × Cnt)) : State := on idle fun c => { (c.setFrame 0 (xF o)) with fences := [e] }
def st_fr1 : State := sFe (fe false 0 0) [(1, .old), (2, .ocp)]
theorem witness_PortEvents_fr1 :
    st_fr1.arg.tile = 0 ∧ (st_fr1.tile 0).fences[st_fr1.arg.n]? = some (fe false 0 0) ∧
    st_fr1.frameOf (fe false 0 0).firing = some (xF [(1, Cnt.old), (2, Cnt.ocp)]) ∧
    (xF [(1, Cnt.old), (2, Cnt.ocp)]).st = FState.live ∧ Clean (fe false 0 0).firing ∧ (fe false 0 0).waitc = false ∧
    (∀ (p : Nat × Cnt), p ∈ (xF [(1, Cnt.old), (2, Cnt.ocp)]).outl → p.fst ∈ (fe false 0 0).mem → (fe false 0 0).f.sub = 0 ∧ p.snd ≠ Cnt.ocp ∧ p.snd ≠ Cnt.oto) ∧
    ((fe false 0 0).f.sub = 3 ∨ (fe false 0 0).f.sub = 4 → (fe false 0 0).flush = true) ∧
    ((fe false 0 0).f.sub = 4 → ∀ (r : Req), r ∈ st_fr1.sw.areds → ¬r.id ∈ (fe false 0 0).ahead) :=
  by decide +kernel
def sFh : State := sFe (fe false 3 0) [(2, .ocp)]
def st_fr2 : State := sFe (fe false 1 0) [(1, .old), (2, .ocp)]
theorem witness_PortEvents_fr2 :
    st_fr2.arg.tile = 0 ∧ (st_fr2.tile 0).fences[st_fr2.arg.n]? = some (fe false 1 0) ∧
    st_fr2.frameOf (fe false 1 0).firing = some (xF [(1, Cnt.old), (2, Cnt.ocp)]) ∧
    (xF [(1, Cnt.old), (2, Cnt.ocp)]).st = FState.live ∧ Clean (fe false 1 0).firing ∧ (fe false 1 0).waitc = false ∧
    (∃ p, p ∈ (xF [(1, Cnt.old), (2, Cnt.ocp)]).outl ∧ p.fst ∈ (fe false 1 0).mem ∧ (fe false 1 0).f.sub ≠ 0) :=
  by decide +kernel
def st_fr3 : State := sFe (fe true 0 0x400) [(1, .old), (2, .old)]
theorem witness_PortEvents_fr3 :
    st_fr3.arg.tile = 0 ∧ (st_fr3.tile 0).fences[st_fr3.arg.n]? = some (fe true 0 1024) ∧
    st_fr3.frameOf (fe true 0 1024).firing = some (xF [(1, Cnt.old), (2, Cnt.old)]) ∧
    (xF [(1, Cnt.old), (2, Cnt.old)]).st = FState.live ∧ Clean (fe true 0 1024).firing ∧ (fe true 0 1024).waitc = true ∧
    (xF [(1, Cnt.old), (2, Cnt.old)]).old ≤ xbits (fe true 0 1024).f.x 9 3 ∧
    (xF [(1, Cnt.old), (2, Cnt.old)]).ost ≤ xbits (fe true 0 1024).f.x 6 3 ∧
    (xF [(1, Cnt.old), (2, Cnt.old)]).ocp ≤ xbits (fe true 0 1024).f.x 3 3 ∧
    (xF [(1, Cnt.old), (2, Cnt.old)]).oto ≤ xbits (fe true 0 1024).f.x 0 3 :=
  by decide +kernel
def st_fr4 : State := sFe (fe true 0 0x200) [(1, .old), (2, .old)]
theorem witness_PortEvents_fr4 :
    st_fr4.arg.tile = 0 ∧ (st_fr4.tile 0).fences[st_fr4.arg.n]? = some (fe true 0 512) ∧
    st_fr4.frameOf (fe true 0 512).firing = some (xF [(1, Cnt.old), (2, Cnt.old)]) ∧
    (xF [(1, Cnt.old), (2, Cnt.old)]).st = FState.live ∧ Clean (fe true 0 512).firing ∧ (fe true 0 512).waitc = true ∧
    (xbits (fe true 0 512).f.x 9 3 < (xF [(1, Cnt.old), (2, Cnt.old)]).old ∨ xbits (fe true 0 512).f.x 6 3 < (xF [(1, Cnt.old), (2, Cnt.old)]).ost ∨ xbits (fe true 0 512).f.x 3 3 < (xF [(1, Cnt.old), (2, Cnt.old)]).ocp ∨ xbits (fe true 0 512).f.x 0 3 < (xF [(1, Cnt.old), (2, Cnt.old)]).oto) :=
  by decide +kernel
def rq (a : AccOp) (va : Word := 0x1000) : Req := { id := 8, src := .port 0, own := 3, jid := 1, piece := { va := va, acc := a, lane := 0 } }
def sN (r : Req) (w : Nat := 0) (g : MDie → MDie := id) : State :=
  { (idle.writeN 0x1000 16 w).onMdie 8 g with net := [r], arg := { n := 0 } }
def aL : AccOp := .loads [(0, 0x1004, 4), (1, 0x1008, 4)]
def st_ls1 : State := sN (rq aL) 0x1122334455667788
theorem witness_LoadsAndStores_ls1 :
    st_ls1.arg.n = 0 ∧ st_ls1.MemOk ∧ Performs st_ls1 0 (rq aL) 8 4096 lease0 ∧
    (rq aL).piece.acc = AccOp.loads [(0, 4100, 4), (1, 4104, 4)] :=
  by refine ⟨?_, ?_, performs_of ?_, rfl⟩ <;> decide +kernel
def st_ls2 : State := sN (rq (.readRow 8)) 0x1122334455667788
def sRow : State := sN (rq (.readRow 64)) 0x1122334455667788
def rPart : Req := { rq (.readRow 8) with loc := some (8, 0x1000, false), part := some 1 }
def asm0 (k : Nat) : Asm := { req := rq (.readRow 64), die := 8, pa := 0x1000, left := k }
def sPart (k : Nat) : State := { sN rPart with asm := [(1, asm0 k)] }
def opR : MemOp := { id := 3, firing := placedFiring, f := fld 2 .b64 0 1, op := 0xBA, jid := 1, out := 1, cnt := some .old }
def sRel : State := (sN (rq aL)).onTile 0 fun c => { c with mops := [opR] }
theorem witness_LoadsAndStores_ls2 :
    st_ls2.arg.n = 0 ∧ st_ls2.MemOk ∧ Performs st_ls2 0 (rq (AccOp.readRow 8)) 8 4096 lease0 ∧
    (rq (AccOp.readRow 8)).piece.acc = AccOp.readRow 8 ∧ 4096 % 8 + 8 ≤ 8 :=
  by refine ⟨?_, ?_, performs_of ?_, ?_, ?_⟩ <;> decide +kernel
def st_ls3 : State := sN (rq (.stores [(0, 0x103C, [1, 2, 3, 4])])) 0x1122334455667788
theorem witness_LoadsAndStores_ls3 :
    st_ls3.arg.n = 0 ∧ st_ls3.MemOk ∧ Performs st_ls3 0 (rq (AccOp.stores [(0, 4156, [1, 2, 3, 4])])) 8 4096 lease0 ∧
    (rq (AccOp.stores [(0, 4156, [1, 2, 3, 4])])).piece.acc = AccOp.stores [(0, 4156, [1, 2, 3, 4])] ∧ ([1, 2, 3, 4] : List Byte).length ≤ 8 ∧
    addr 4156 % 64 + ([1, 2, 3, 4] : List Byte).length ≤ 64 ∧ 4096 % 64 = addr (rq (AccOp.stores [(0, 4156, [1, 2, 3, 4])])).piece.va % 64 :=
  by refine ⟨?_, ?_, performs_of ?_, ?_, ?_, ?_, ?_⟩ <;> decide +kernel
def st_ls4 : State := sN (rq (.writeRow [1, 2])) 0x1122334455667788
theorem witness_LoadsAndStores_ls4 :
    st_ls4.arg.n = 0 ∧ st_ls4.MemOk ∧ Performs st_ls4 0 (rq (AccOp.writeRow [1, 2])) 8 4096 lease0 ∧
    (rq (AccOp.writeRow [1, 2])).piece.acc = AccOp.writeRow [1, 2] ∧ 4096 % 8 + ([1, 2] : List Byte).length ≤ 8 :=
  by refine ⟨?_, ?_, performs_of ?_, ?_, ?_⟩ <;> decide +kernel
def sNl : State := { sN (rq aL) with md := [(8, {})] }
theorem witness_LoadsAndStores_ls5 :
    sNl.arg.n = 0 ∧ sNl.MemOk ∧ Arrives sNl 0 (rq aL) ∧ (rq aL).loc = none ∧ (rq aL).part = none ∧
    ownerOf sNl (rq aL).piece.va = Except.ok (some 8) ∧ sNl.spokeOpen 8 (rq aL).piece.va (rq aL).id = true ∧
    (∀ (op sub : Nat) (a b c : Word), (rq aL).piece.acc ≠ AccOp.sys op sub a b c) ∧
    (sNl.mdie 8).leaseOf (rq aL).jid (addr (rq aL).piece.va) = none :=
  by refine ⟨?_, ?_, ?_, ?_, ?_, ok_of ?_, ?_, (by intro _ _ _ _ _ e; cases e), ?_⟩ <;> decide +kernel
def lease1 : LEnt := { lease0 with perm := 2 }
def sPm : State := { sN (rq aL) with md := [(8, { lt := [(0, lease1)] })] }
theorem witness_LoadsAndStores_ls6 :
    sPm.arg.n = 0 ∧ sPm.MemOk ∧ Arrives sPm 0 (rq aL) ∧ (rq aL).loc = none ∧ (rq aL).part = none ∧
    ownerOf sPm (rq aL).piece.va = Except.ok (some 8) ∧ sPm.spokeOpen 8 (rq aL).piece.va (rq aL).id = true ∧
    (∀ (op sub : Nat) (a b c : Word), (rq aL).piece.acc ≠ AccOp.sys op sub a b c) ∧
    (sPm.mdie 8).leaseOf (rq aL).jid (addr (rq aL).piece.va) = some (0, lease1) ∧ (rq aL).piece.acc.need.ok lease1.perm = false :=
  by refine ⟨?_, ?_, ?_, ?_, ?_, ok_of ?_, ?_, (by intro _ _ _ _ _ e; cases e), ?_, ?_⟩ <;> decide +kernel
def aA (k : AKind) (ty : Ty) (b c : Word) : Req := rq (.atom k ty b c)
def r_at1 : Req := aA .add .i32 5 6
def st_at1 : State := sN r_at1 0xFFFFFFFFFFFFFFFE
def r_at2 : Req := aA .and .i64 5 6
def st_at2 : State := sN r_at2 15
def r_at3 : Req := aA .or .n64 5 6
def st_at3 : State := sN r_at3 48
def r_at4 : Req := aA .xor .i32 5 6
def st_at4 : State := sN r_at4 48
def r_at5 : Req := aA .xch .f64 5 6
def st_at5 : State := sN r_at5 48
def r_at6 : Req := aA .cas .i32 48 6
def st_at6 : State := sN r_at6 48
def r_at7 : Req := aA .cas .b64 49 6
def st_at7 : State := sN r_at7 48
def r_at8 : Req := aA .incWrap .n32 48 0
def st_at8 : State := sN r_at8 48
def r_at9 : Req := aA .incWrap .n32 49 0
def st_at9 : State := sN r_at9 48
def r_at10 : Req := aA .incSat .n32 48 0
def st_at10 : State := sN r_at10 48
def r_at11 : Req := aA .incSat .n64 49 0
def st_at11 : State := sN r_at11 48
def r_at12 : Req := aA .min .i32 4294967295 0
def st_at12 : State := sN r_at12 48
def r_at13 : Req := aA .min .n32 4294967295 0
def st_at13 : State := sN r_at13 48
def r_at14 : Req := aA .max .i64 18446744073709551615 0
def st_at14 : State := sN r_at14 48
def r_at15 : Req := aA .max .n64 49 0
def st_at15 : State := sN r_at15 48
def r_at16 : Req := aA .fadd .f32 1065353216 0
def st_at16 : State := sN r_at16 1078530011
def r_at17 : Req := aA .xch .va 0x300000000001000 0
def st_at17 : State := sN r_at17 48
def r_at18 : Req := aA .cas .va 0x100000000000030 7
def st_at18 : State := sN r_at18 0xFF00000000000030
theorem witness_Atomics_at1 :
    st_at1.arg.n = 0 ∧ st_at1.MemOk ∧ Performs st_at1 0 r_at1 8 4096 lease0 ∧ r_at1.piece.acc = AccOp.atom AKind.add Ty.i32 5 6 ∧
    Ty.i32 ≠ Ty.bf16 ∧ 8 ≤ Ty.i32.width ∧ Ty.i32.width % 8 = 0 ∧ AKind.add = AKind.add :=
  by refine ⟨?_, ?_, performs_of ?_, ?_, ?_, ?_, ?_, ?_⟩ <;> decide +kernel
theorem witness_Atomics_at2 :
    st_at2.arg.n = 0 ∧ st_at2.MemOk ∧ Performs st_at2 0 r_at2 8 4096 lease0 ∧ r_at2.piece.acc = AccOp.atom AKind.and Ty.i64 5 6 ∧
    Ty.i64 ≠ Ty.bf16 ∧ 8 ≤ Ty.i64.width ∧ Ty.i64.width % 8 = 0 ∧ AKind.and = AKind.and :=
  by refine ⟨?_, ?_, performs_of ?_, ?_, ?_, ?_, ?_, ?_⟩ <;> decide +kernel
theorem witness_Atomics_at3 :
    st_at3.arg.n = 0 ∧ st_at3.MemOk ∧ Performs st_at3 0 r_at3 8 4096 lease0 ∧ r_at3.piece.acc = AccOp.atom AKind.or Ty.n64 5 6 ∧
    Ty.n64 ≠ Ty.bf16 ∧ 8 ≤ Ty.n64.width ∧ Ty.n64.width % 8 = 0 ∧ AKind.or = AKind.or :=
  by refine ⟨?_, ?_, performs_of ?_, ?_, ?_, ?_, ?_, ?_⟩ <;> decide +kernel
theorem witness_Atomics_at4 :
    st_at4.arg.n = 0 ∧ st_at4.MemOk ∧ Performs st_at4 0 r_at4 8 4096 lease0 ∧ r_at4.piece.acc = AccOp.atom AKind.xor Ty.i32 5 6 ∧
    Ty.i32 ≠ Ty.bf16 ∧ 8 ≤ Ty.i32.width ∧ Ty.i32.width % 8 = 0 ∧ AKind.xor = AKind.xor :=
  by refine ⟨?_, ?_, performs_of ?_, ?_, ?_, ?_, ?_, ?_⟩ <;> decide +kernel
theorem witness_Atomics_at5 :
    st_at5.arg.n = 0 ∧ st_at5.MemOk ∧ Performs st_at5 0 r_at5 8 4096 lease0 ∧ r_at5.piece.acc = AccOp.atom AKind.xch Ty.f64 5 6 ∧
    Ty.f64 ≠ Ty.bf16 ∧ 8 ≤ Ty.f64.width ∧ Ty.f64.width % 8 = 0 ∧ AKind.xch = AKind.xch :=
  by refine ⟨?_, ?_, performs_of ?_, ?_, ?_, ?_, ?_, ?_⟩ <;> decide +kernel
theorem witness_Atomics_at6 :
    st_at6.arg.n = 0 ∧ st_at6.MemOk ∧ Performs st_at6 0 r_at6 8 4096 lease0 ∧ r_at6.piece.acc = AccOp.atom AKind.cas Ty.i32 48 6 ∧
    Ty.i32 ≠ Ty.bf16 ∧ 8 ≤ Ty.i32.width ∧ Ty.i32.width % 8 = 0 ∧ AKind.cas = AKind.cas :=
  by refine ⟨?_, ?_, performs_of ?_, ?_, ?_, ?_, ?_, ?_⟩ <;> decide +kernel
theorem witness_Atomics_at7 :
    st_at7.arg.n = 0 ∧ st_at7.MemOk ∧ Performs st_at7 0 r_at7 8 4096 lease0 ∧ r_at7.piece.acc = AccOp.atom AKind.cas Ty.b64 49 6 ∧
    Ty.b64 ≠ Ty.bf16 ∧ 8 ≤ Ty.b64.width ∧ Ty.b64.width % 8 = 0 ∧ AKind.cas = AKind.cas :=
  by refine ⟨?_, ?_, performs_of ?_, ?_, ?_, ?_, ?_, ?_⟩ <;> decide +kernel
theorem witness_Atomics_at8 :
    st_at8.arg.n = 0 ∧ st_at8.MemOk ∧ Performs st_at8 0 r_at8 8 4096 lease0 ∧
    r_at8.piece.acc = AccOp.atom AKind.incWrap Ty.n32 48 0 ∧ Ty.n32 ≠ Ty.bf16 ∧ 8 ≤ Ty.n32.width ∧ Ty.n32.width % 8 = 0 ∧
    AKind.incWrap = AKind.incWrap :=
  by refine ⟨?_, ?_, performs_of ?_, ?_, ?_, ?_, ?_, ?_⟩ <;> decide +kernel
theorem witness_Atomics_at9 :
    st_at9.arg.n = 0 ∧ st_at9.MemOk ∧ Performs st_at9 0 r_at9 8 4096 lease0 ∧
    r_at9.piece.acc = AccOp.atom AKind.incWrap Ty.n32 49 0 ∧ Ty.n32 ≠ Ty.bf16 ∧ 8 ≤ Ty.n32.width ∧ Ty.n32.width % 8 = 0 ∧
    AKind.incWrap = AKind.incWrap :=
  by refine ⟨?_, ?_, performs_of ?_, ?_, ?_, ?_, ?_, ?_⟩ <;> decide +kernel
theorem witness_Atomics_at10 :
    st_at10.arg.n = 0 ∧ st_at10.MemOk ∧ Performs st_at10 0 r_at10 8 4096 lease0 ∧
    r_at10.piece.acc = AccOp.atom AKind.incSat Ty.n32 48 0 ∧ Ty.n32 ≠ Ty.bf16 ∧ 8 ≤ Ty.n32.width ∧ Ty.n32.width % 8 = 0 ∧
    AKind.incSat = AKind.incSat :=
  by refine ⟨?_, ?_, performs_of ?_, ?_, ?_, ?_, ?_, ?_⟩ <;> decide +kernel
theorem witness_Atomics_at11 :
    st_at11.arg.n = 0 ∧ st_at11.MemOk ∧ Performs st_at11 0 r_at11 8 4096 lease0 ∧
    r_at11.piece.acc = AccOp.atom AKind.incSat Ty.n64 49 0 ∧ Ty.n64 ≠ Ty.bf16 ∧ 8 ≤ Ty.n64.width ∧ Ty.n64.width % 8 = 0 ∧
    AKind.incSat = AKind.incSat :=
  by refine ⟨?_, ?_, performs_of ?_, ?_, ?_, ?_, ?_, ?_⟩ <;> decide +kernel
theorem witness_Atomics_at12 :
    st_at12.arg.n = 0 ∧ st_at12.MemOk ∧ Performs st_at12 0 r_at12 8 4096 lease0 ∧
    r_at12.piece.acc = AccOp.atom AKind.min Ty.i32 4294967295 0 ∧ Ty.i32 ≠ Ty.bf16 ∧ 8 ≤ Ty.i32.width ∧ Ty.i32.width % 8 = 0 ∧
    AKind.min = AKind.min ∧ Ty.i32 ≠ Ty.f32 :=
  by refine ⟨?_, ?_, performs_of ?_, ?_, ?_, ?_, ?_, ?_, ?_⟩ <;> decide +kernel
theorem witness_Atomics_at13 :
    st_at13.arg.n = 0 ∧ st_at13.MemOk ∧ Performs st_at13 0 r_at13 8 4096 lease0 ∧
    r_at13.piece.acc = AccOp.atom AKind.min Ty.n32 4294967295 0 ∧ Ty.n32 ≠ Ty.bf16 ∧ 8 ≤ Ty.n32.width ∧ Ty.n32.width % 8 = 0 ∧
    AKind.min = AKind.min ∧ Ty.n32 ≠ Ty.f32 :=
  by refine ⟨?_, ?_, performs_of ?_, ?_, ?_, ?_, ?_, ?_, ?_⟩ <;> decide +kernel
theorem witness_Atomics_at14 :
    st_at14.arg.n = 0 ∧ st_at14.MemOk ∧ Performs st_at14 0 r_at14 8 4096 lease0 ∧
    r_at14.piece.acc = AccOp.atom AKind.max Ty.i64 18446744073709551615 0 ∧ Ty.i64 ≠ Ty.bf16 ∧ 8 ≤ Ty.i64.width ∧
    Ty.i64.width % 8 = 0 ∧ AKind.max = AKind.max ∧ Ty.i64 ≠ Ty.f32 :=
  by refine ⟨?_, ?_, performs_of ?_, ?_, ?_, ?_, ?_, ?_, ?_⟩ <;> decide +kernel
theorem witness_Atomics_at15 :
    st_at15.arg.n = 0 ∧ st_at15.MemOk ∧ Performs st_at15 0 r_at15 8 4096 lease0 ∧
    r_at15.piece.acc = AccOp.atom AKind.max Ty.n64 49 0 ∧ Ty.n64 ≠ Ty.bf16 ∧ 8 ≤ Ty.n64.width ∧ Ty.n64.width % 8 = 0 ∧
    AKind.max = AKind.max ∧ Ty.n64 ≠ Ty.f32 :=
  by refine ⟨?_, ?_, performs_of ?_, ?_, ?_, ?_, ?_, ?_, ?_⟩ <;> decide +kernel
theorem witness_Atomics_at16 :
    st_at16.arg.n = 0 ∧ st_at16.MemOk ∧ Performs st_at16 0 r_at16 8 4096 lease0 ∧
    r_at16.piece.acc = AccOp.atom AKind.fadd Ty.f32 1065353216 0 ∧ Ty.f32 ≠ Ty.bf16 ∧ 8 ≤ Ty.f32.width ∧ Ty.f32.width % 8 = 0 ∧
    AKind.fadd = AKind.fadd ∧ Ty.f32 = Ty.f32 :=
  by refine ⟨?_, ?_, performs_of ?_, ?_, ?_, ?_, ?_, ?_, ?_⟩ <;> decide +kernel
theorem witness_Atomics_at17 :
    st_at17.arg.n = 0 ∧ st_at17.MemOk ∧ Performs st_at17 0 r_at17 8 4096 lease0 ∧
    r_at17.piece.acc = AccOp.atom AKind.xch Ty.va 216172782113787904 0 ∧ Ty.va = Ty.va ∧ AKind.xch = AKind.xch :=
  by refine ⟨?_, ?_, performs_of ?_, ?_, ?_, ?_⟩ <;> decide +kernel
theorem witness_Atomics_at18 :
    st_at18.arg.n = 0 ∧ st_at18.MemOk ∧ Performs st_at18 0 r_at18 8 4096 lease0 ∧
    r_at18.piece.acc = AccOp.atom AKind.cas Ty.va 72057594037927984 7 ∧ Ty.va = Ty.va ∧ AKind.cas = AKind.cas :=
  by refine ⟨?_, ?_, performs_of ?_, ?_, ?_, ?_⟩ <;> decide +kernel
theorem witness_LoadsAndStores_lsr :
    sRow.arg.n = 0 ∧ sRow.MemOk ∧ Performs sRow 0 (rq (AccOp.readRow 64)) 8 4096 lease0 ∧
    (rq (AccOp.readRow 64)).piece.isRow = true ∧ 1 < ((rq (AccOp.readRow 64)).piece.split 4096).length :=
  by refine ⟨?_, ?_, performs_of ?_, ?_, ?_⟩ <;> decide +kernel
theorem witness_LoadsAndStores_lsp :
    sRow.arg.n = 0 ∧ sRow.MemOk ∧ (rq (AccOp.readRow 64)).piece.acc = AccOp.readRow 64 ∧ 4096 % 8 = 0 :=
  by decide +kernel
theorem witness_LoadsAndStores_lsw :
    (sPart 2).arg.n = 0 ∧ (sPart 2).MemOk ∧ Arrives (sPart 2) 0 rPart ∧ rPart.loc = some (8, 4096, false) ∧ Open (sPart 2) 8 4096 ∧
    rPart.part = some 1 ∧ (sPart 2).asm.get? 1 = some (asm0 2) ∧ (asm0 2).cause = 0 ∧ rPart.piece.acc = AccOp.readRow 8 ∧
    4096 % 8 + 8 ≤ 8 ∧ 1 < (asm0 2).left :=
  by decide +kernel
theorem witness_LoadsAndStores_lsl :
    (sPart 1).arg.n = 0 ∧ (sPart 1).MemOk ∧ Arrives (sPart 1) 0 rPart ∧ rPart.loc = some (8, 4096, false) ∧ Open (sPart 1) 8 4096 ∧
    rPart.part = some 1 ∧ (sPart 1).asm.get? 1 = some (asm0 1) ∧ (asm0 1).cause = 0 ∧ rPart.piece.acc = AccOp.readRow 8 ∧
    4096 % 8 + 8 ≤ 8 ∧ (asm0 1).left = 1 ∧ (asm0 1).req.src ≠ Src.outside ∧ (asm0 1).req.piece.whole = false :=
  by refine ⟨?_, ?_, ?_, ?_, ?_, ?_, ⟨?_, ?_, ?_, ?_, ?_, (by intro e; cases e), ?_⟩⟩ <;> decide +kernel
theorem witness_LoadsAndStores_lsf :
    sRel.arg.n = 0 ∧ sRel.MemOk ∧ sRel.net[0]? = some (rq aL) ∧ (rq aL).held = false ∧ earlierSame sRel 0 (rq aL) = false ∧
    relWaits sRel (rq aL) = false ∧ (rq aL).src = Src.port 0 ∧ (sRel.tile 0).mop? (rq aL).own = some opR ∧ 176 ≤ opR.op ∧
    opR.op < 191 ∧ 2 ≤ opR.f.sub.toNat % 4 ∧ opR.flush = false :=
  by decide +kernel
theorem witness_PortEvents_pl :
    sLa.arg.tile = 0 ∧ sLa.nthRep (Rep.forPort 0) sLa.arg.n = none ∧ (sLa.tile 0).mops = [opLa] ∧ opLa.land = [land0, land0] ∧
    [land0] ≠ [] :=
  by decide +kernel
theorem witness_PortEvents_fr1h :
    sFh.arg.tile = 0 ∧ (sFh.tile 0).fences[sFh.arg.n]? = some (fe false 3 0) ∧
    sFh.frameOf (fe false 3 0).firing = some (xF [(2, Cnt.ocp)]) ∧ (xF [(2, Cnt.ocp)]).st = FState.live ∧
    Clean (fe false 3 0).firing ∧ (fe false 3 0).waitc = false ∧
    (∀ (p : Nat × Cnt), p ∈ (xF [(2, Cnt.ocp)]).outl → p.fst ∈ (fe false 3 0).mem → (fe false 3 0).f.sub = 0 ∧ p.snd ≠ Cnt.ocp ∧ p.snd ≠ Cnt.oto) ∧
    (fe false 3 0).f.sub = 3 ∧ (fe false 3 0).flush = false :=
  by decide +kernel
def pA : Piece := { va := 0x1000, acc := .loads [(0, 0x1000, 4)] }
def r_at19 : Req := aA .fadd .bf16 0x3F80 0
def st_at19 : State := sN r_at19 0x4049
def rRed (k : AKind) (ty : Ty) (vs : List Word) : Req := rq (.ared k ty vs)
def sRed (r : Req) (w : Nat) : State := sN { r with src := .outside } w
def feF (fl : Bool) : Fence := { fe false 4 0 with flush := fl, ahead := [8] }
def sFF (fl : Bool) : State := (sFe (feF fl) []).onSw fun w => { w with areds := [rq (.ared .add .n64 [3])] }
theorem witness_Atomics_at19 :
    st_at19.arg.n = 0 ∧ st_at19.MemOk ∧ Performs st_at19 0 r_at19 8 4096 lease0 ∧
    r_at19.piece.acc = AccOp.atom AKind.fadd Ty.bf16 16256 0 ∧ Ty.bf16 = Ty.bf16 ∧ AKind.fadd = AKind.fadd :=
  by refine ⟨?_, ?_, performs_of ?_, ?_, ?_, ?_⟩ <;> decide +kernel
theorem witness_Atomics_ra1 :
    (sRed (rRed AKind.add Ty.n64 [3, 4]) 5).arg.n = 0 ∧ (sRed (rRed AKind.add Ty.n64 [3, 4]) 5).MemOk ∧
    Comes (sRed (rRed AKind.add Ty.n64 [3, 4]) 5) 0 { (rRed AKind.add Ty.n64 [3, 4]) with src := Src.outside } 8 4096 lease0 ∧
    { (rRed AKind.add Ty.n64 [3, 4]) with src := Src.outside }.piece.acc = AccOp.ared AKind.add Ty.n64 [3, 4] ∧
    (Ty.n64 = Ty.n64 ∨ Ty.n64 = Ty.i64 ∨ Ty.n64 = Ty.n32 ∨ Ty.n64 = Ty.i32) ∧ AKind.add = AKind.add :=
  by refine ⟨?_, ?_, comes_of ?_, ?_, ?_, ?_⟩ <;> decide +kernel
theorem witness_Atomics_ra2 :
    (sRed (rRed AKind.min Ty.i32 [4294967295, 4]) 5).arg.n = 0 ∧ (sRed (rRed AKind.min Ty.i32 [4294967295, 4]) 5).MemOk ∧
    Comes (sRed (rRed AKind.min Ty.i32 [4294967295, 4]) 5) 0 { (rRed AKind.min Ty.i32 [4294967295, 4]) with src := Src.outside } 8 4096 lease0 ∧
    { (rRed AKind.min Ty.i32 [4294967295, 4]) with src := Src.outside }.piece.acc = AccOp.ared AKind.min Ty.i32 [4294967295, 4] ∧
    (Ty.i32 = Ty.n64 ∨ Ty.i32 = Ty.i64 ∨ Ty.i32 = Ty.n32 ∨ Ty.i32 = Ty.i32) ∧ AKind.min = AKind.min :=
  by refine ⟨?_, ?_, comes_of ?_, ?_, ?_, ?_⟩ <;> decide +kernel
theorem witness_Atomics_ra3 :
    (sRed (rRed AKind.max Ty.n32 [4294967295, 4]) 5).arg.n = 0 ∧ (sRed (rRed AKind.max Ty.n32 [4294967295, 4]) 5).MemOk ∧
    Comes (sRed (rRed AKind.max Ty.n32 [4294967295, 4]) 5) 0 { (rRed AKind.max Ty.n32 [4294967295, 4]) with src := Src.outside } 8 4096 lease0 ∧
    { (rRed AKind.max Ty.n32 [4294967295, 4]) with src := Src.outside }.piece.acc = AccOp.ared AKind.max Ty.n32 [4294967295, 4] ∧
    (Ty.n32 = Ty.n64 ∨ Ty.n32 = Ty.i64 ∨ Ty.n32 = Ty.n32 ∨ Ty.n32 = Ty.i32) ∧ AKind.max = AKind.max :=
  by refine ⟨?_, ?_, comes_of ?_, ?_, ?_, ?_⟩ <;> decide +kernel
theorem witness_Atomics_ra4 :
    (sRed (rRed AKind.fadd Ty.f32 [1065353216, 1073741824]) 1065353216).arg.n = 0 ∧
    (sRed (rRed AKind.fadd Ty.f32 [1065353216, 1073741824]) 1065353216).MemOk ∧
    Comes (sRed (rRed AKind.fadd Ty.f32 [1065353216, 1073741824]) 1065353216) 0 { (rRed AKind.fadd Ty.f32 [1065353216, 1073741824]) with src := Src.outside } 8 4096 lease0 ∧
    { (rRed AKind.fadd Ty.f32 [1065353216, 1073741824]) with src := Src.outside }.piece.acc = AccOp.ared AKind.fadd Ty.f32 [1065353216, 1073741824] ∧
    Ty.f32 = Ty.f32 ∧ AKind.fadd = AKind.fadd :=
  by refine ⟨?_, ?_, comes_of ?_, ?_, ?_, ?_⟩ <;> decide +kernel
theorem witness_Atomics_ra5 :
    (sRed (rRed AKind.min Ty.f32 [3212836864, 1073741824]) 1065353216).arg.n = 0 ∧
    (sRed (rRed AKind.min Ty.f32 [3212836864, 1073741824]) 1065353216).MemOk ∧
    Comes (sRed (rRed AKind.min Ty.f32 [3212836864, 1073741824]) 1065353216) 0 { (rRed AKind.min Ty.f32 [3212836864, 1073741824]) with src := Src.outside } 8 4096 lease0 ∧
    { (rRed AKind.min Ty.f32 [3212836864, 1073741824]) with src := Src.outside }.piece.acc = AccOp.ared AKind.min Ty.f32 [3212836864, 1073741824] ∧
    Ty.f32 = Ty.f32 ∧ AKind.min = AKind.min :=
  by refine ⟨?_, ?_, comes_of ?_, ?_, ?_, ?_⟩ <;> decide +kernel
theorem witness_Atomics_ra6 :
    (sRed (rRed AKind.max Ty.f32 [3212836864, 1073741824]) 1065353216).arg.n = 0 ∧
    (sRed (rRed AKind.max Ty.f32 [3212836864, 1073741824]) 1065353216).MemOk ∧
    Comes (sRed (rRed AKind.max Ty.f32 [3212836864, 1073741824]) 1065353216) 0 { (rRed AKind.max Ty.f32 [3212836864, 1073741824]) with src := Src.outside } 8 4096 lease0 ∧
    { (rRed AKind.max Ty.f32 [3212836864, 1073741824]) with src := Src.outside }.piece.acc = AccOp.ared AKind.max Ty.f32 [3212836864, 1073741824] ∧
    Ty.f32 = Ty.f32 ∧ AKind.max = AKind.max :=
  by refine ⟨?_, ?_, comes_of ?_, ?_, ?_, ?_⟩ <;> decide +kernel
theorem witness_Atomics_ra7 :
    (sRed (rRed AKind.fadd Ty.bf16 [1065369600, 1073758080]) 1065369472).arg.n = 0 ∧
    (sRed (rRed AKind.fadd Ty.bf16 [1065369600, 1073758080]) 1065369472).MemOk ∧
    Comes (sRed (rRed AKind.fadd Ty.bf16 [1065369600, 1073758080]) 1065369472) 0 { (rRed AKind.fadd Ty.bf16 [1065369600, 1073758080]) with src := Src.outside } 8 4096 lease0 ∧
    { (rRed AKind.fadd Ty.bf16 [1065369600, 1073758080]) with src := Src.outside }.piece.acc = AccOp.ared AKind.fadd Ty.bf16 [1065369600, 1073758080] ∧
    Ty.bf16 = Ty.bf16 ∧ AKind.fadd = AKind.fadd :=
  by refine ⟨?_, ?_, comes_of ?_, ?_, ?_, ?_⟩ <;> decide +kernel
theorem witness_Atomics_ra8 :
    (sRed (rRed AKind.min Ty.bf16 [1065369600, 1073758080]) 2143305600).arg.n = 0 ∧
    (sRed (rRed AKind.min Ty.bf16 [1065369600, 1073758080]) 2143305600).MemOk ∧
    Comes (sRed (rRed AKind.min Ty.bf16 [1065369600, 1073758080]) 2143305600) 0 { (rRed AKind.min Ty.bf16 [1065369600, 1073758080]) with src := Src.outside } 8 4096 lease0 ∧
    { (rRed AKind.min Ty.bf16 [1065369600, 1073758080]) with src := Src.outside }.piece.acc = AccOp.ared AKind.min Ty.bf16 [1065369600, 1073758080] ∧
    Ty.bf16 = Ty.bf16 ∧ AKind.min = AKind.min :=
  by refine ⟨?_, ?_, comes_of ?_, ?_, ?_, ?_⟩ <;> decide +kernel
theorem witness_Atomics_ra9 :
    (sRed (rRed AKind.max Ty.bf16 [1065369600, 1073758080]) 2143305600).arg.n = 0 ∧
    (sRed (rRed AKind.max Ty.bf16 [1065369600, 1073758080]) 2143305600).MemOk ∧
    Comes (sRed (rRed AKind.max Ty.bf16 [1065369600, 1073758080]) 2143305600) 0 { (rRed AKind.max Ty.bf16 [1065369600, 1073758080]) with src := Src.outside } 8 4096 lease0 ∧
    { (rRed AKind.max Ty.bf16 [1065369600, 1073758080]) with src := Src.outside }.piece.acc = AccOp.ared AKind.max Ty.bf16 [1065369600, 1073758080] ∧
    Ty.bf16 = Ty.bf16 ∧ AKind.max = AKind.max :=
  by refine ⟨?_, ?_, comes_of ?_, ?_, ?_, ?_⟩ <;> decide +kernel
theorem witness_PortEvents_ff1 :
    (sFF true).arg.tile = 0 ∧ ((sFF true).tile 0).fences[(sFF true).arg.n]? = some (feF true) ∧
    (sFF true).frameOf (feF true).firing = some (xF []) ∧ (xF []).st = FState.live ∧ Clean (feF true).firing ∧
    (feF true).waitc = false ∧
    (∀ (p : Nat × Cnt), p ∈ (xF []).outl → p.fst ∈ (feF true).mem → (feF true).f.sub = 0 ∧ p.snd ≠ Cnt.ocp ∧ p.snd ≠ Cnt.oto) ∧
    (feF true).f.sub = 4 ∧ (feF true).flush = true ∧ (∃ r, r ∈ (sFF true).sw.areds ∧ r.id ∈ (feF true).ahead) :=
  by decide +kernel
theorem witness_PortEvents_ff2 :
    (sFF false).arg.tile = 0 ∧ ((sFF false).tile 0).fences[(sFF false).arg.n]? = some (feF false) ∧
    (sFF false).frameOf (feF false).firing = some (xF []) ∧ (xF []).st = FState.live ∧ Clean (feF false).firing ∧
    (feF false).waitc = false ∧
    (∀ (p : Nat × Cnt), p ∈ (xF []).outl → p.fst ∈ (feF false).mem → (feF false).f.sub = 0 ∧ p.snd ≠ Cnt.ocp ∧ p.snd ≠ Cnt.oto) ∧
    (feF false).f.sub = 4 ∧ (feF false).flush = false :=
  by decide +kernel
theorem witness_PortEvents_pi :
    sIs.arg.tile = 0 ∧ sIs.outstanding 0 < 256 ∧ (sIs.tile 0).mops = [opA] ∧ opA.pieces = [pA] ∧ opA.lent = false ∧
    (charged opA.op = false ∨ (sIs.tile 0).hasCredit opA.jid = true) ∧ (∀ (b : List Byte), pA.acc ≠ AccOp.writeRow b) ∧
    (sIs.tile 0).pissue.fst ≤ sIs.clk ∧ sIs.maySend 0 pA = true :=
  by refine ⟨?_, ?_, ?_, ?_, ?_, ?_, (by intro _ e; cases e), ?_, ?_⟩ <;> decide +kernel

end Homes

/-! ## Words -/

namespace Words

def rq (a : AccOp) (va : Word := 0x1000) : Req := { id := 8, src := .port 0, own := 3, jid := 1, piece := { va := va, acc := a, lane := 0 } }
def sN (r : Req) (w : Nat := 0) (g : MDie → MDie := id) : State :=
  { (idle.writeN 0x1000 16 w).onMdie 8 g with net := [r], arg := { n := 0 } }
def rCk (b : Word) : Req := rq (.cask .b64 b 9 0x2000)
theorem witness_Synchronization_sy1 :
    (sN (rCk 6) 5).arg.n = 0 ∧ (sN (rCk 6) 5).MemOk ∧ Performs (sN (rCk 6) 5) 0 (rCk 6) 8 4096 lease0 ∧
    ((rCk 6).piece.acc = AccOp.cask Ty.b64 6 9 8192 ∨ (rCk 6).piece.acc = AccOp.caddk Ty.b64 6 9 8192) ∧ Ty.b64.width % 32 = 0 ∧
    (rCk 6).piece.acc = AccOp.cask Ty.b64 6 9 8192 ∧
    BitVec.ofNat Ty.b64.width ((sN (rCk 6) 5).readN (hbmAt 8 4096) (Ty.b64.width / 8)) ≠ arg Ty.b64 6 :=
  by refine ⟨?_, ?_, performs_of ?_, ?_, ?_, ?_, ?_⟩ <;> decide +kernel
theorem witness_Synchronization_sy2 :
    (sN (rCk 5) 5).arg.n = 0 ∧ (sN (rCk 5) 5).MemOk ∧ Performs (sN (rCk 5) 5) 0 (rCk 5) 8 4096 lease0 ∧
    ((rCk 5).piece.acc = AccOp.cask Ty.b64 5 9 8192 ∨ (rCk 5).piece.acc = AccOp.caddk Ty.b64 5 9 8192) ∧ Ty.b64.width % 32 = 0 ∧
    (rCk 5).piece.acc = AccOp.cask Ty.b64 5 9 8192 ∧
    BitVec.ofNat Ty.b64.width ((sN (rCk 5) 5).readN (hbmAt 8 4096) (Ty.b64.width / 8)) = arg Ty.b64 5 ∧
    (((sN (rCk 5) 5).mdie 8).slice (sliceOf 4096)).sh.length < 64 :=
  by refine ⟨?_, ?_, performs_of ?_, ?_, ?_, ?_, ?_, ?_⟩ <;> decide +kernel
def rAk (b c : Word) : Req := rq (.caddk .n64 b c 0x2000)
theorem witness_Synchronization_sy3 :
    (sN (rAk 5 9) 5).arg.n = 0 ∧ (sN (rAk 5 9) 5).MemOk ∧ Performs (sN (rAk 5 9) 5) 0 (rAk 5 9) 8 4096 lease0 ∧
    ((rAk 5 9).piece.acc = AccOp.cask Ty.n64 5 9 8192 ∨ (rAk 5 9).piece.acc = AccOp.caddk Ty.n64 5 9 8192) ∧ Ty.n64.width % 32 = 0 ∧
    (rAk 5 9).piece.acc = AccOp.caddk Ty.n64 5 9 8192 ∧
    BitVec.ofNat Ty.n64.width ((sN (rAk 5 9) 5).readN (hbmAt 8 4096) (Ty.n64.width / 8)) + arg Ty.n64 5 ≠ arg Ty.n64 9 :=
  by refine ⟨?_, ?_, performs_of ?_, ?_, ?_, ?_, ?_⟩ <;> decide +kernel
theorem witness_Synchronization_sy3b :
    (sN (rAk 5 10) 5).arg.n = 0 ∧ (sN (rAk 5 10) 5).MemOk ∧ Performs (sN (rAk 5 10) 5) 0 (rAk 5 10) 8 4096 lease0 ∧
    ((rAk 5 10).piece.acc = AccOp.cask Ty.n64 5 10 8192 ∨ (rAk 5 10).piece.acc = AccOp.caddk Ty.n64 5 10 8192) ∧
    Ty.n64.width % 32 = 0 ∧ (rAk 5 10).piece.acc = AccOp.caddk Ty.n64 5 10 8192 ∧
    BitVec.ofNat Ty.n64.width ((sN (rAk 5 10) 5).readN (hbmAt 8 4096) (Ty.n64.width / 8)) + arg Ty.n64 5 = arg Ty.n64 10 ∧
    (((sN (rAk 5 10) 5).mdie 8).slice (sliceOf 4096)).sh.length < 64 :=
  by refine ⟨?_, ?_, performs_of ?_, ?_, ?_, ?_, ?_, ?_⟩ <;> decide +kernel
/-- A word of the I-structure zone, full or empty. -/
def sZ (r : Req) (full : Bool) : State := sN r 5 fun c => { c with npg := 1, tags := if full then [0x200] else [] }
theorem witness_Synchronization_sz1 :
    (sZ (rq AccOp.itake) true).arg.n = 0 ∧ (sZ (rq AccOp.itake) true).MemOk ∧
    Performs (sZ (rq AccOp.itake) true) 0 (rq AccOp.itake) 8 4096 lease0 ∧ 4096 < ((sZ (rq AccOp.itake) true).mdie 8).npg * 2 ^ 18 ∧
    waiting (sZ (rq AccOp.itake) true) 8 4096 = [] ∧ (rq AccOp.itake).piece.acc = AccOp.itake ∧
    ((sZ (rq AccOp.itake) true).mdie 8).tags.contains (4096 / 8) = true :=
  by refine ⟨?_, ?_, performs_of ?_, ?_, ?_, ?_, ?_⟩ <;> decide +kernel
theorem witness_Synchronization_sz2 :
    (sZ (rq AccOp.iread) true).arg.n = 0 ∧ (sZ (rq AccOp.iread) true).MemOk ∧
    Performs (sZ (rq AccOp.iread) true) 0 (rq AccOp.iread) 8 4096 lease0 ∧ 4096 < ((sZ (rq AccOp.iread) true).mdie 8).npg * 2 ^ 18 ∧
    waiting (sZ (rq AccOp.iread) true) 8 4096 = [] ∧ (rq AccOp.iread).piece.acc = AccOp.iread ∧
    ((sZ (rq AccOp.iread) true).mdie 8).tags.contains (4096 / 8) = true :=
  by refine ⟨?_, ?_, performs_of ?_, ?_, ?_, ?_, ?_⟩ <;> decide +kernel
theorem witness_Synchronization_sz3 :
    (sZ (rq (AccOp.iput 7)) false).arg.n = 0 ∧ (sZ (rq (AccOp.iput 7)) false).MemOk ∧
    Performs (sZ (rq (AccOp.iput 7)) false) 0 (rq (AccOp.iput 7)) 8 4096 lease0 ∧
    4096 < ((sZ (rq (AccOp.iput 7)) false).mdie 8).npg * 2 ^ 18 ∧ waiting (sZ (rq (AccOp.iput 7)) false) 8 4096 = [] ∧
    (rq (AccOp.iput 7)).piece.acc = AccOp.iput 7 ∧ ((sZ (rq (AccOp.iput 7)) false).mdie 8).tags.contains (4096 / 8) = false :=
  by refine ⟨?_, ?_, performs_of ?_, ?_, ?_, ?_, ?_⟩ <;> decide +kernel
theorem witness_Synchronization_sz4 :
    (sZ (rq AccOp.iclr) true).arg.n = 0 ∧ (sZ (rq AccOp.iclr) true).MemOk ∧
    Performs (sZ (rq AccOp.iclr) true) 0 (rq AccOp.iclr) 8 4096 lease0 ∧ 4096 < ((sZ (rq AccOp.iclr) true).mdie 8).npg * 2 ^ 18 ∧
    waiting (sZ (rq AccOp.iclr) true) 8 4096 = [] ∧ (rq AccOp.iclr).piece.acc = AccOp.iclr :=
  by refine ⟨?_, ?_, performs_of ?_, ?_, ?_, ?_⟩ <;> decide +kernel
theorem witness_Synchronization_sz5 :
    (sZ (rq AccOp.itake) false).arg.n = 0 ∧ (sZ (rq AccOp.itake) false).MemOk ∧
    Performs (sZ (rq AccOp.itake) false) 0 (rq AccOp.itake) 8 4096 lease0 ∧
    4096 < ((sZ (rq AccOp.itake) false).mdie 8).npg * 2 ^ 18 ∧ waiting (sZ (rq AccOp.itake) false) 8 4096 = [] ∧
    ((rq AccOp.itake).piece.acc = AccOp.itake ∨ (rq AccOp.itake).piece.acc = AccOp.iread) ∧
    ((sZ (rq AccOp.itake) false).mdie 8).tags.contains (4096 / 8) = false :=
  by refine ⟨?_, ?_, performs_of ?_, ?_, ?_, ?_, ?_⟩ <;> decide +kernel
theorem witness_Synchronization_sz6 :
    (sZ (rq (AccOp.iput 7)) true).arg.n = 0 ∧ (sZ (rq (AccOp.iput 7)) true).MemOk ∧
    Performs (sZ (rq (AccOp.iput 7)) true) 0 (rq (AccOp.iput 7)) 8 4096 lease0 ∧
    4096 < ((sZ (rq (AccOp.iput 7)) true).mdie 8).npg * 2 ^ 18 ∧ waiting (sZ (rq (AccOp.iput 7)) true) 8 4096 = [] ∧
    (rq (AccOp.iput 7)).piece.acc = AccOp.iput 7 ∧ ((sZ (rq (AccOp.iput 7)) true).mdie 8).tags.contains (4096 / 8) = true :=
  by refine ⟨?_, ?_, performs_of ?_, ?_, ?_, ?_, ?_⟩ <;> decide +kernel
def st_sb1 : State := sN (rq (.binit 0xFFFFFFFF)) 5
theorem witness_Synchronization_sb1 :
    st_sb1.arg.n = 0 ∧ st_sb1.MemOk ∧ Performs st_sb1 0 (rq (AccOp.binit 4294967295)) 8 4096 lease0 ∧ waiting st_sb1 8 4096 = [] ∧
    (rq (AccOp.binit 4294967295)).piece.acc = AccOp.binit 4294967295 ∧ (4294967295 : Word).toNat % 2 ^ 32 ≠ 0 ∧
    field 4294967295 32 32 = 0 :=
  by refine ⟨?_, ?_, performs_of ?_, ?_, ?_, ?_, ?_⟩ <;> decide +kernel
def st_sb2 : State := sN (rq .arrive) (3 + 1 * 2 ^ 32 + 6 * 2 ^ 64)
theorem witness_Synchronization_sb2 :
    st_sb2.arg.n = 0 ∧ st_sb2.MemOk ∧ Performs st_sb2 0 (rq AccOp.arrive) 8 4096 lease0 ∧ waiting st_sb2 8 4096 = [] ∧
    (rq AccOp.arrive).piece.acc = AccOp.arrive ∧
    field (st_sb2.readWord (hbmAt 8 4096)) 32 32 + 1 < field (st_sb2.readWord (hbmAt 8 4096)) 0 32 :=
  by refine ⟨?_, ?_, performs_of ?_, ?_, ?_, ?_⟩ <;> decide +kernel
def st_sb3 : State := sN (rq .arrive) (3 + 2 * 2 ^ 32 + 6 * 2 ^ 64)
theorem witness_Synchronization_sb3 :
    st_sb3.arg.n = 0 ∧ st_sb3.MemOk ∧ Performs st_sb3 0 (rq AccOp.arrive) 8 4096 lease0 ∧ waiting st_sb3 8 4096 = [] ∧
    (rq AccOp.arrive).piece.acc = AccOp.arrive ∧
    field (st_sb3.readWord (hbmAt 8 4096)) 32 32 + 1 = field (st_sb3.readWord (hbmAt 8 4096)) 0 32 :=
  by refine ⟨?_, ?_, performs_of ?_, ?_, ?_, ?_⟩ <;> decide +kernel
def st_sb4 : State := sN (rq (.bwait 5)) (3 + 2 * 2 ^ 32 + 6 * 2 ^ 64)
theorem witness_Synchronization_sb4 :
    st_sb4.arg.n = 0 ∧ st_sb4.MemOk ∧ Performs st_sb4 0 (rq (AccOp.bwait 5)) 8 4096 lease0 ∧ waiting st_sb4 8 4096 = [] ∧
    (rq (AccOp.bwait 5)).piece.acc = AccOp.bwait 5 ∧ BitVec.toNat (st_sb4.readWord (hbmAt 8 (4096 + 8)) - 5 - 1) < 2 ^ 63 :=
  by refine ⟨?_, ?_, performs_of ?_, ?_, ?_, ?_⟩ <;> decide +kernel
def st_sb5 : State := sN (rq (.bwait 6)) (3 + 2 * 2 ^ 32 + 6 * 2 ^ 64)
theorem witness_Synchronization_sb5 :
    st_sb5.arg.n = 0 ∧ st_sb5.MemOk ∧ Performs st_sb5 0 (rq (AccOp.bwait 6)) 8 4096 lease0 ∧ waiting st_sb5 8 4096 = [] ∧
    (rq (AccOp.bwait 6)).piece.acc = AccOp.bwait 6 ∧ 2 ^ 63 ≤ BitVec.toNat (st_sb5.readWord (hbmAt 8 (4096 + 8)) - 6 - 1) :=
  by refine ⟨?_, ?_, performs_of ?_, ?_, ?_, ?_⟩ <;> decide +kernel
def at8 (s : State) (n : Nat := 0) (k : Nat := 0) : State := { s with arg := { die := 8, n := n, k := k } }
def rD : Req := rq (.cask .b64 5 9 0x2000)
def sDf : State := at8 ((idle.writeN 0x1000 8 5).onSlice 8 32 fun x => { x with df := [(0x1000, rD)] }) 32
theorem witness_SliceEvents_sl1 :
    sDf.arg.die = 8 ∧ sDf.MemOk ∧ sDf.arg.n = sliceOf 4096 ∧ ((sDf.mdie 8).slice (sliceOf 4096)).df = [(4096, rD)] ∧
    rD.piece.acc = AccOp.cask Ty.b64 5 9 8192 ∧ rD.src ≠ Src.outside ∧ rD.part = none ∧
    ((sDf.mdie 8).slice (sliceOf 4096)).sh.length < 64 ∧ sDf.abBad 8 4096 = false ∧ sDf.arg.flag = false ∧
    sDf.readWord (hbmAt 8 4096) = 5 :=
  by refine ⟨?_, ?_, ?_, ?_, ?_, (by intro e; cases e), ?_, ?_, ?_, ?_, ?_⟩ <;> decide +kernel
def opW : MemOp := { id := 3, firing := placedFiring, f := fld 0 .b64 0 1, op := 0xBA, jid := 1, out := 1, cnt := some .old }
def rI : Req := rq .itake
def sWd : State := at8 ((idle.onTile 0 fun c => { (c.setFrame 0 { placedFrame with st := .ending, old := 1 }) with mops := [opW] }).onSlice 8 32 fun x => { x with idq := [(0x1000, rI)] }) 8
theorem witness_SliceEvents_sl2 :
    sWd.arg.die = 8 ∧ sWd.sw.mwaits = [] ∧ sWd.sw.heldp = [] ∧ findDeferred sWd sWd.arg.n = some (8, 32, rI) ∧
    sWd.opOf rI = some opW ∧ sWd.isEnding opW.firing = true ∧ ((sWd.mdie 8).slice 32).df = [] ∧ rI.part = none :=
  by decide +kernel
def eSh (p : Option (Nat × Word × Word)) : ShEnt := { place := 0, jid := 1, va := 0x1000, old := 5, new := 9, tmpl := 0x2000, push := p }
def tmplN : Nat := (0x8000 + 1 * 2 ^ 16 + 1 * 2 ^ 28 + 3 * 2 ^ 32) + 0x77 * 2 ^ 64 + 0x88 * 2 ^ 128 + 0x3000 * 2 ^ 192
def sSh (p : Option (Nat × Word × Word)) : State := at8 ((idle.writeN 0x2000 32 tmplN).onSlice 8 2 fun x => { x with sh := [eSh p] }) 0 2
theorem witness_SliceEvents_sl3 :
    (sSh none).arg.die = 8 ∧ (sSh none).arg.k = 2 ∧ (sSh none).arg.n = 0 ∧ (((sSh none).mdie 8).slice 2).sh = [eSh none] ∧
    (eSh none).push = none ∧ addr (eSh none).tmpl % 32 = 0 ∧ contLocate (sSh none) (eSh none).jid (eSh none).tmpl = some (8, 8192) ∧
    (sSh none).abBad 8 8192 = false ∧
    tmplGood (List.map (fun i => (sSh none).readWord (hbmAt 8 (8192 + 8 * i))) (List.range 4)) (eSh none).jid = true ∧
    contLocate (sSh none) (eSh none).jid (BitVec.ofNat 64 (field ((sSh none).readWord (hbmAt 8 (8192 + 8 * 3))) 5 52 * 32 + 32 * (field ((sSh none).readWord (hbmAt 8 (8192 + 8 * 0))) 32 32 % 2 ^ field ((sSh none).readWord (hbmAt 8 (8192 + 8 * 0))) 28 4))) = some (8, 12320) ∧
    ((sSh none).queue (field ((sSh none).readWord (hbmAt 8 (8192 + 8 * 0))) 0 15)).kind = 0 ∧
    ((sSh none).queue (field ((sSh none).readWord (hbmAt 8 (8192 + 8 * 0))) 0 15)).jid = (eSh none).jid ∧ (eSh none).jid ≠ 0 ∧
    Ready (sSh none) (eSh none).jid (eSh none).tmpl 32 Need.rw true ∧
    Ready (sSh none) (eSh none).jid (BitVec.ofNat 64 (field ((sSh none).readWord (hbmAt 8 (8192 + 8 * 3))) 5 52 * 32 + 32 * (field ((sSh none).readWord (hbmAt 8 (8192 + 8 * 0))) 32 32 % 2 ^ field ((sSh none).readWord (hbmAt 8 (8192 + 8 * 0))) 28 4))) 32 Need.rw true :=
  by decide +kernel
def sPu : State := (sSh (some (0, 0x3020, 0))).onQueue 0 fun q => { q with dv := true, def6 := 0x5000 / 64, tail := 3 }
theorem witness_SliceEvents_sl4 :
    sPu.arg.die = 8 ∧ sPu.arg.k = 2 ∧ sPu.arg.n = 0 ∧ ((sPu.mdie 8).slice 2).sh = [eSh (some (0, 12320, 0))] ∧
    (eSh (some (0, 12320, 0))).push = some (0, 12320, 0) ∧ (sPu.queue 0).dv = true ∧
    jobRead sPu (sPu.queue 0).jid (BitVec.ofNat 64 ((sPu.queue 0).def6 * 64)) 64 = Except.ok (List.replicate 64 0) ∧
    cardBad (contCard (List.map (BitVec.ofNat 64) (wordNats (List.replicate 64 0) 8)) 12320 0) = false ∧ Pushable sPu 0 8 16576 ∧
    shuttleTurn sPu 0 = true ∧ Ready sPu (sPu.queue 0).jid (BitVec.ofNat 64 ((sPu.queue 0).def6 * 64)) 64 Need.r true :=
  by refine ⟨?_, ?_, ?_, ?_, ?_, ?_, ok_of ?_, ?_, ⟨?_, ?_, ?_, ok_of ?_, ?_⟩, ?_, ?_⟩ <;> decide +kernel
def sIs (p : Nat) (w : Word) : State := { (idle.onMdie 8 fun c => { c with npg := 3, lt := if p = 0 then [] else c.lt }) with arg := { die := 8, w := w } }
theorem witness_SliceEvents_sl5 : (sIs 1 5).arg.die = 8 ∧ memDies.contains 8 = true ∧ 0 < ((sIs 1 5).mdie 8).pinned := by decide +kernel
theorem witness_SliceEvents_sl6 : (sIs 0 5).arg.die = 8 ∧ memDies.contains 8 = true ∧ ((sIs 0 5).mdie 8).pinned = 0 := by decide +kernel
def sBu (n : Nat) : State := at8 (idle.onMdie 8 fun c => { c with npg := n, isbusy := true, tags := [3] })
theorem witness_SliceEvents_sl7 :
    (sBu 3).arg.die = 8 ∧ ((sBu 3).mdie 8).isbusy = true ∧ (∀ (k : Nat), k < 128 → (((sBu 3).mdie 8).slice k).idq = []) :=
  by decide +kernel
theorem witness_SliceEvents_sl8 :
    (sBu 0).arg.die = 8 ∧ ((sBu 0).mdie 8).isbusy = true ∧ (∀ (k : Nat), k < 128 → (((sBu 0).mdie 8).slice k).idq = []) :=
  by decide +kernel
def rF : Req := rq (.sys 0xD2 0 0x1000 0 0)
def sFl : State := at8 (idle.onMdie 8 fun c => { c with flips := [rF] })
theorem witness_SliceEvents_sl9 :
    sFl.arg.die = 8 ∧ sFl.arg.n = 0 ∧ (sFl.mdie 8).flips = [rF] ∧ rF.piece.acc = AccOp.sys 210 0 4096 0 0 ∧ rF.src ≠ Src.outside ∧
    rF.part = none ∧ flipPage sFl 8 rF = some (0, lease0) ∧ pageBusy sFl 8 lease0 = false ∧ nbits lease0.perm 4 1 = 0 :=
  by refine ⟨?_, ?_, ?_, ?_, (by intro e; cases e), ?_, ?_, ?_, ?_⟩ <;> decide +kernel
def rCv : Req := rq (.cask .va 0x100000000000030 7 0x2000)
def sCv : State := sN rCv 0xFF00000000000030
theorem witness_Synchronization_sy5 :
    sCv.arg.n = 0 ∧ sCv.MemOk ∧ Performs sCv 0 rCv 8 4096 lease0 ∧ rCv.piece.acc = AccOp.cask Ty.va 72057594037927984 7 8192 ∧
    ((sCv.mdie 8).slice (sliceOf 4096)).sh.length < 64 :=
  by refine ⟨?_, ?_, performs_of ?_, ?_, ?_⟩ <;> decide +kernel

end Words

/-! ## Queues -/

namespace Queues

def frT : Firing := firing [[.hand h0], [.scal 0x1000], [.scal 16]]
def fC : Fields := fld 0 .h 0 3
def cq (sub : Nat) : Copy := { id := 4, firing := frT, f := fld sub .h 0 3, op := 0xA0, jid := 1, lane := 0, handle := h0 }
/-- Memory tile 32 with a buffer and a change, and nothing issued. -/
def sM (g : MTile → MTile) (n : Nat := 0) : State :=
  { ((buffers (world frT) (buf 0) (buf 0 1)).onTile 0 fun c => { c with bwen := false }).onMtile 32 g with issuing := none, arg := { tile := 32, n := n } }
def c0 : Copy := { cq 0 with handle := 0 }
def sCa : State := sM fun x => { x with cin := [c0] }
theorem witness_CopyEvents_ca :
    sCa.arg.tile = 32 ∧ sCa.arg.n = 0 ∧ (sCa.mtile 32).cin = [c0] ∧ c0.op = 160 ∧ c0.cancel = false ∧
    copyCheck sCa 32 c0 = Except.ok (bufOf sCa 0 h0, 4096, 16) ∧ poisonPort c0.firing 3 c0.lane = none ∧
    ((sCa.mtile 32).chan (xbits c0.f.x 0 2)).copies.length < 8 :=
  by refine ⟨?_, ?_, ?_, ?_, ?_, ok_of ?_, ?_, ?_⟩ <;> decide +kernel
def pc (k : Nat) : Piece := { va := BitVec.ofNat 64 (0x1000 + 16 * k), acc := .readRow 16, row := k }
def c1 : Copy := { cq 0 with pieces := [pc 0, pc 1], sent := 1, stop := 32 }
def sCi : State := sM fun x => { x with chans := [(0, { copies := [c1] })] }
theorem witness_CopyEvents_ci :
    sCi.arg.tile = 32 ∧ chanReady sCi 32 0 = some (c1, pc 1) ∧ 0 = ((sCi.mtile 32).crr + 1) % 4 ∧
    ((∃ j, (pc 1).acc = AccOp.readRow j ∧ pc 1 = pc 1) ∨ ∃ bs, (pc 1).acc = AccOp.writeRow bs ∧ (sCi.mtile 32).ue = [] ∧
      (bufOf sCi (tileDie 32) c1.handle).m = 32 ∧ (sCi.mtile 32).poison? (bufOf sCi (tileDie 32) c1.handle).d = none ∧ sCi.early = [] ∧
      pc 1 = { pc 1 with acc := AccOp.writeRow (sCi.readBytes (padAddr 32 ((bufOf sCi (tileDie 32) c1.handle).x.rowOff (pc 1).row + (pc 1).off)) bs.length) }) :=
  by refine ⟨?_, ?_, ?_, Or.inl ⟨16, ?_, ?_⟩⟩ <;> decide +kernel
def c2 (sub : Nat) : Copy := { cq sub with pieces := [pc 0], sent := 1, stop := 64 }
def rep2 : Rep := { req := { id := 8, src := .chan 32 0, own := 4, jid := 1, piece := pc 0 }, bytes := List.replicate 16 3 }
def sCl (sub : Nat) : State := { sM fun x => { x with chans := [(0, { copies := [c2 sub] })] } with reps := [rep2] }
theorem witness_CopyEvents_cl0 :
    (sCl 0).arg.tile = 32 ∧ (((sCl 0).mtile 32).chan 0).copies = [c2 0] ∧ (((sCl 0).mtile 32).chan 0).waits = [] ∧
    (((sCl 0).mtile 32).chan 0).wq = [] ∧ (((sCl 0).mtile 32).chan 0).cans = [] ∧ (c2 0).cancel = false ∧ (c2 0).op = 160 ∧
    (sCl 0).nthRep (Rep.forChan 32) (sCl 0).arg.n = some (rep2, 0) ∧ rep2.req.src = Src.chan 32 0 ∧ rep2.cause = 0 ∧
    (c2 0).id = rep2.req.own ∧ (c2 0).f.sub = 0 :=
  by decide +kernel
def bs16 : List Byte := List.replicate 16 3
def sLd : State := sM fun x => { x with chans := [(0, { copies := [c2 0], land := [((c2 0).id, 0, bs16, some 0)] })] }
theorem witness_CopyEvents_cl1 :
    (sCl 1).arg.tile = 32 ∧ (((sCl 1).mtile 32).chan 0).copies = [c2 1] ∧ (((sCl 1).mtile 32).chan 0).waits = [] ∧
    (((sCl 1).mtile 32).chan 0).wq = [] ∧ (((sCl 1).mtile 32).chan 0).cans = [] ∧ (c2 1).cancel = false ∧ (c2 1).op = 160 ∧
    (sCl 1).nthRep (Rep.forChan 32) (sCl 1).arg.n = some (rep2, 0) ∧ rep2.req.src = Src.chan 32 0 ∧ rep2.cause = 0 ∧
    (c2 1).id = rep2.req.own ∧ (c2 1).f.sub ≠ 0 ∧ (c2 1).done.length + 1 = (c2 1).sent ∧ (c2 1).sent = (c2 1).pieces.length :=
  by decide +kernel
def cM : Copy := { cq 0 with op := 0xA1 }
def sCm : State := sM (fun x => { x with chans := [(2, { mma := [cM] })] }) 0
theorem witness_CopyEvents_cm :
    sCm.arg.tile = 32 ∧
    (List.flatMap (fun k => List.map (fun c => (k, c)) ((sCm.mtile 32).chan k).mma) (List.range 4))[sCm.arg.n]? = some (2, cM) ∧
    sCm.isEnding cM.firing = false ∧ (sCm.tile cM.firing.tile).qmat.ents.length < 2 ∧
    sCm.frozenAt cM.firing.tile cM.firing.ctx = false :=
  by decide +kernel
def bs64 : List Byte := List.replicate 64 7
def sQ (n : Nat) (g : Switch → Switch) (a : Args := {}) : State := { (idle.onSw g) with arg := { a with n := n } }
def hp (n : Nat) (len : Nat) (st : Nat := 1) : State := sQ n (fun w => { w with queues := [(0, { state := st, kind := 0, jid := 1, base := 0x100, tail := 63 })] }) { data := some (List.replicate len 7) }
abbrev push0 (s : State) : Prop := Pushable s 0 8 0x4FC0
theorem witness_QueuesAndLaunches_hp1 :
    ((hp 1 64).arg.n % 64 ≠ 0 ∨ ((hp 1 64).arg.data.getD []).length ≠ 64 ∨ 2 ^ 21 ≤ (hp 1 64).arg.n) :=
  by decide +kernel
theorem witness_QueuesAndLaunches_hp1b :
    ((hp (2 ^ 21) 64).arg.n % 64 ≠ 0 ∨ ((hp (2 ^ 21) 64).arg.data.getD []).length ≠ 64 ∨ 2 ^ 21 ≤ (hp (2 ^ 21) 64).arg.n) :=
  by decide +kernel
theorem witness_QueuesAndLaunches_hp3 :
    (hp 0 64 2).arg.n % 64 = 0 ∧ ((hp 0 64 2).arg.data.getD []).length = 64 ∧ (hp 0 64 2).arg.n < 2 ^ 21 ∧
    ((hp 0 64 2).queue ((hp 0 64 2).arg.n / 64)).slot ≠ (hp 0 64 2).clk + 1 :=
  by decide +kernel
def reqP : Req := { id := 8, src := .port 0, own := 3, jid := 1, piece := { va := 0, acc := .sys 0xC3 0 0 0 0 } }
def reqQ : Req := { reqP with piece := { va := 0, acc := .sys 0xC0 0 0 0 0 } }
def pL : Push := { queue := 0, entry := bs64, req := reqP }
def pQ : Push := { queue := 0, entry := bs64, req := reqQ }
def qu (st tail : Nat) : Queue := { state := st, kind := 0, jid := 1, base := 0x100, tail := tail }
def sPp (p : Push) (q : Queue) : State := sQ 0 fun w => { w with pushes := [p], queues := [(0, q)] }
theorem witness_QueuesAndLaunches_qp1 :
    (sPp pL (qu 1 63)).sw.pushes[(sPp pL (qu 1 63)).arg.n]? = some pL ∧
    pushNext (sPp pL (qu 1 63)) (sPp pL (qu 1 63)).arg.n pL = true ∧ (sPp pL (qu 1 63)).sw.snoops = [] ∧
    (sPp pL (qu 1 63)).lineDone = sPp pL (qu 1 63) ∧ ((sPp pL (qu 1 63)).queue pL.queue).ctl = none ∧
    Pushable (sPp pL (qu 1 63)) pL.queue 8 20416 :=
  by refine ⟨?_, ?_, ?_, ?_, ?_, ⟨?_, ?_, ?_, ok_of ?_, ?_⟩⟩ <;> decide +kernel
theorem witness_QueuesAndLaunches_qp2 :
    (sPp pL (qu 1 64)).sw.pushes[(sPp pL (qu 1 64)).arg.n]? = some pL ∧
    pushNext (sPp pL (qu 1 64)) (sPp pL (qu 1 64)).arg.n pL = true ∧ (sPp pL (qu 1 64)).sw.snoops = [] ∧
    (sPp pL (qu 1 64)).lineDone = sPp pL (qu 1 64) ∧ ((sPp pL (qu 1 64)).queue pL.queue).ctl = none ∧ pL.isLaunch = true ∧
    ((sPp pL (qu 1 64)).queue pL.queue).state = 1 ∧ ((sPp pL (qu 1 64)).queue pL.queue).full = true :=
  by decide +kernel
theorem witness_QueuesAndLaunches_qp3 :
    (sPp pL (qu 2 64)).sw.pushes[(sPp pL (qu 2 64)).arg.n]? = some pL ∧
    pushNext (sPp pL (qu 2 64)) (sPp pL (qu 2 64)).arg.n pL = true ∧ (sPp pL (qu 2 64)).sw.snoops = [] ∧
    (sPp pL (qu 2 64)).lineDone = sPp pL (qu 2 64) ∧ ((sPp pL (qu 2 64)).queue pL.queue).ctl = none ∧ pL.isLaunch = true ∧
    ((sPp pL (qu 2 64)).queue pL.queue).state ≠ 1 :=
  by decide +kernel
theorem witness_QueuesAndLaunches_qp4 :
    (sPp pQ (qu 1 64)).sw.pushes[(sPp pQ (qu 1 64)).arg.n]? = some pQ ∧
    pushNext (sPp pQ (qu 1 64)) (sPp pQ (qu 1 64)).arg.n pQ = true ∧ (sPp pQ (qu 1 64)).sw.snoops = [] ∧
    (sPp pQ (qu 1 64)).lineDone = sPp pQ (qu 1 64) ∧ ((sPp pQ (qu 1 64)).queue pQ.queue).ctl = none ∧ pQ.isLaunch = false ∧
    ((sPp pQ (qu 1 64)).queue pQ.queue).state = 1 ∧ ((sPp pQ (qu 1 64)).queue pQ.queue).full = true :=
  by decide +kernel
theorem witness_QueuesAndLaunches_qp5 :
    (sPp pQ (qu 3 64)).sw.pushes[(sPp pQ (qu 3 64)).arg.n]? = some pQ ∧
    pushNext (sPp pQ (qu 3 64)) (sPp pQ (qu 3 64)).arg.n pQ = true ∧ (sPp pQ (qu 3 64)).sw.snoops = [] ∧
    (sPp pQ (qu 3 64)).lineDone = sPp pQ (qu 3 64) ∧ ((sPp pQ (qu 3 64)).queue pQ.queue).ctl = none ∧ pQ.isLaunch = false ∧
    ((sPp pQ (qu 3 64)).queue pQ.queue).state ≠ 1 :=
  by decide +kernel
def sHe (q : Queue) : State := sQ 0 fun w => { w with heldp := [pL], queues := [(0, q)] }
theorem witness_QueuesAndLaunches_hl1 :
    (sHe (qu 1 63)).sw.heldp[(sHe (qu 1 63)).arg.n]? = some pL ∧
    (∀ (y : Push), y ∈ List.take (sHe (qu 1 63)).arg.n (sHe (qu 1 63)).sw.heldp → y.queue ≠ pL.queue) ∧
    (sHe (qu 1 63)).sw.snoops = [] ∧ ((sHe (qu 1 63)).queue pL.queue).ctl = none ∧ (sHe (qu 1 63)).lineDone = sHe (qu 1 63) ∧
    ((sHe (qu 1 63)).queue pL.queue).slot ≠ (sHe (qu 1 63)).clk + 1 ∧ pL.req.src ≠ Src.outside ∧ pL.isLaunch = true ∧
    Pushable (sHe (qu 1 63)) pL.queue 8 20416 :=
  by refine ⟨?_, ?_, ?_, ?_, ?_, ?_, (by intro e; cases e), ?_, ⟨?_, ?_, ?_, ok_of ?_, ?_⟩⟩ <;> decide +kernel
theorem witness_QueuesAndLaunches_hl2 :
    (sHe (qu 1 64)).sw.heldp[(sHe (qu 1 64)).arg.n]? = some pL ∧
    (∀ (y : Push), y ∈ List.take (sHe (qu 1 64)).arg.n (sHe (qu 1 64)).sw.heldp → y.queue ≠ pL.queue) ∧
    (sHe (qu 1 64)).sw.snoops = [] ∧ ((sHe (qu 1 64)).queue pL.queue).ctl = none ∧ (sHe (qu 1 64)).lineDone = sHe (qu 1 64) ∧
    ((sHe (qu 1 64)).queue pL.queue).slot ≠ (sHe (qu 1 64)).clk + 1 ∧ pL.req.src ≠ Src.outside ∧ pL.isLaunch = true ∧
    ((sHe (qu 1 64)).queue pL.queue).state = 1 ∧ ((sHe (qu 1 64)).queue pL.queue).full = true :=
  by refine ⟨?_, ?_, ?_, ?_, ?_, ?_, (by intro e; cases e), ?_, ?_, ?_⟩ <;> decide +kernel
theorem witness_QueuesAndLaunches_hl3 :
    (sHe (qu 0 64)).sw.heldp[(sHe (qu 0 64)).arg.n]? = some pL ∧
    (∀ (y : Push), y ∈ List.take (sHe (qu 0 64)).arg.n (sHe (qu 0 64)).sw.heldp → y.queue ≠ pL.queue) ∧
    (sHe (qu 0 64)).sw.snoops = [] ∧ ((sHe (qu 0 64)).queue pL.queue).ctl = none ∧ (sHe (qu 0 64)).lineDone = sHe (qu 0 64) ∧
    ((sHe (qu 0 64)).queue pL.queue).slot ≠ (sHe (qu 0 64)).clk + 1 ∧ pL.req.src ≠ Src.outside ∧ pL.isLaunch = true ∧
    ((sHe (qu 0 64)).queue pL.queue).state ≠ 1 :=
  by refine ⟨?_, ?_, ?_, ?_, ?_, ?_, (by intro e; cases e), ?_, ?_⟩ <;> decide +kernel
def sCf (q : Queue) (v : Nat) : State := sQ 0 (fun w => { w with queues := [(0, q)] }) { v := v }
def st_qw1 : State := sCf { state := 0, jid := 1, dlog := 16, head := 5, tail := 9 } 1
theorem witness_QueuesAndLaunches_qw1 :
    (∀ (c : QSnap), (st_qw1.queue st_qw1.arg.n).ctl = some c → c.clk ≠ st_qw1.clk) ∧ (st_qw1.queue st_qw1.arg.n).state = 0 ∧
    st_qw1.arg.v = 1 ∧ 6 ≤ (st_qw1.queue st_qw1.arg.n).dlog ∧ (st_qw1.queue st_qw1.arg.n).dlog ≤ 16 ∧
    (st_qw1.job (st_qw1.queue st_qw1.arg.n).jid).valid = true :=
  by decide +kernel
def st_qw2 : State := sCf { state := 0, jid := 1, dlog := 17, head := 5, tail := 9 } 1
theorem witness_QueuesAndLaunches_qw2 :
    (∀ (c : QSnap), (st_qw2.queue st_qw2.arg.n).ctl = some c → c.clk ≠ st_qw2.clk) ∧ (st_qw2.queue st_qw2.arg.n).state = 0 ∧
    st_qw2.arg.v = 1 ∧
    ((st_qw2.queue st_qw2.arg.n).dlog < 6 ∨ 16 < (st_qw2.queue st_qw2.arg.n).dlog ∨ (st_qw2.job (st_qw2.queue st_qw2.arg.n).jid).valid = false) :=
  by decide +kernel
def st_qw3 : State := sCf { state := 1, jid := 1, head := 9, tail := 9 } 3
def st_qw4 : State := sCf { state := 1, jid := 1, head := 8, tail := 9 } 3
theorem witness_QueuesAndLaunches_qw4 :
    (∀ (c : QSnap), (st_qw4.queue st_qw4.arg.n).ctl = some c → c.clk ≠ st_qw4.clk) ∧
    ((st_qw4.queue st_qw4.arg.n).state ≠ 0 ∨ st_qw4.arg.v ≠ 1) :=
  by decide +kernel
def regP : Region := { region0 with cfgs := [{ iters := 4, next := 0x1FF, plcs := [{ rx := 0, ry := 0, blk := 0, gbn := 0 }] }] }
def cardN (g : Nat) : Nat := g + (16 + 2 ^ 32) * 2 ^ 128
def sPo (g : Nat) : State :=
  { (idle.writeN 0x4000 64 (cardN g)) with clk := 4, sw := { sw0 with popclk := some 0, launch := [], graphs := [(1, { jid := 1, img := 0, dir := [0], regions := [regP] })], queues := [(0, qu 1 1), (9, { state := 1, kind := 1, jid := 1, base := 0x200 })] } }
def card (g : Nat) : List Byte := toBytes 64 (cardN g)
def lP (g : Nat) : Launch := launchOf ((sPo g).onSw fun w => { w with popclk := some 4, popg := 0, poplast := [(0, 0)] }) 0 0 (card g)
theorem witness_QueuesAndLaunches_cp1 :
    (∀ (k : Nat), (sPo 1).sw.popclk = some k → k + 4 ≤ (sPo 1).clk) ∧ (sPo 1).sw.launch.length < 16384 ∧
    choosePop (sPo 1) = some (0, 0) ∧
    jobRead (sPo 1) ((sPo 1).queue 0).jid (((sPo 1).queue 0).slotVa ((sPo 1).queue 0).head) 64 = Except.ok (card 1) ∧
    ((sPo 1).queue 0).state = 1 ∧ ((sPo 1).queue 0).popEmpty (sPo 1).clk = false ∧ ((sPo 1).queue 0).ctl = none ∧
    (sPo 1).sw.marks = [] ∧ cardGate (sPo 1) 0 = (sPo 1, true) ∧ (sPo 1).sw.snoops = [] ∧ (sPo 1).lineDone = sPo 1 ∧
    (sPo 1).sw.cancd = [] ∧
    checkCard
        ((((sPo 1).onSw fun w =>
                  { w with popclk := some (sPo 1).clk, popg := 0, poplast := w.poplast.set ((sPo 1).queue 0).pri 0 }).onQueue
              0 fun x =>
              { x with head := (x.head + 1) % 2 ^ 32, since := (sPo 1).clk, epoch := x.epoch + (x.head + 1) / 2 ^ 32 }).onSw
          fun w =>
          { w with named := List.filter (fun c => !(c.fst == 0 && c.snd.fst == ((sPo 1).queue 0).head)) w.named })
        { (launchOf ((sPo 1).onSw fun w => { w with popclk := some (sPo 1).clk, popg := 0, poplast := w.poplast.set ((sPo 1).queue 0).pri 0 }) 0 ((sPo 1).queue 0).head (card 1)) with entry := ((sPo 1).queue 0).head + 2 ^ 32 * ((sPo 1).queue 0).epoch } =
      Except.ok (lP 1) :=
  by refine ⟨(by intro k hk; have e : some 0 = some k := hk; cases e; decide +kernel), ?_, ?_, ok_of ?_, ?_, ?_, ?_, ?_, ?_, ?_, ?_, ?_, ok_of ?_⟩ <;> decide +kernel
theorem witness_QueuesAndLaunches_cp2 :
    (∀ (k : Nat), (sPo 5).sw.popclk = some k → k + 4 ≤ (sPo 5).clk) ∧ (sPo 5).sw.launch.length < 16384 ∧
    choosePop (sPo 5) = some (0, 0) ∧
    jobRead (sPo 5) ((sPo 5).queue 0).jid (((sPo 5).queue 0).slotVa ((sPo 5).queue 0).head) 64 = Except.ok (card 5) ∧
    ((sPo 5).queue 0).state = 1 ∧ ((sPo 5).queue 0).popEmpty (sPo 5).clk = false ∧ ((sPo 5).queue 0).ctl = none ∧
    (sPo 5).sw.marks = [] ∧ cardGate (sPo 5) 0 = (sPo 5, true) ∧ (sPo 5).sw.snoops = [] ∧ (sPo 5).lineDone = sPo 5 ∧
    (sPo 5).sw.cancd = [] ∧
    checkCard
        ((((sPo 5).onSw fun w =>
                  { w with popclk := some (sPo 5).clk, popg := 0, poplast := w.poplast.set ((sPo 5).queue 0).pri 0 }).onQueue
              0 fun x =>
              { x with head := (x.head + 1) % 2 ^ 32, since := (sPo 5).clk, epoch := x.epoch + (x.head + 1) / 2 ^ 32 }).onSw
          fun w =>
          { w with named := List.filter (fun c => !(c.fst == 0 && c.snd.fst == ((sPo 5).queue 0).head)) w.named })
        { (launchOf ((sPo 5).onSw fun w => { w with popclk := some (sPo 5).clk, popg := 0, poplast := w.poplast.set ((sPo 5).queue 0).pri 0 }) 0 ((sPo 5).queue 0).head (card 5)) with entry := ((sPo 5).queue 0).head + 2 ^ 32 * ((sPo 5).queue 0).epoch } =
      Except.error 3 :=
  by refine ⟨(by intro k hk; have e : some 0 = some k := hk; cases e; decide +kernel), ?_, ?_, ok_of ?_, ?_, ?_, ?_, ?_, ?_, ?_, ?_, ?_, err_of ?_⟩ <;> decide +kernel
def lr : LReq := { who := .launch 0 0, jid := 1, pages := [0] }
def sLr : State := { (idle.onMdie 8 fun c => { c with lreq := [lr] }) with arg := { die := 8 } }
theorem witness_QueuesAndLaunches_lr1 :
    sLr.arg.die = 8 ∧ sLr.dieUp 8 = true ∧ (sLr.mdie 8).lreq = [lr] ∧ (sLr.mdie 8).pgpend = [] ∧ sLr.sw.binds = [] ∧
    lr.who = LWho.launch 0 0 ∧ lr.pages = [0] ∧
    List.find? (fun e => e.snd.covers lr.jid (addr (pageVa 0))) (sLr.mdie 8).lt = some (0, lease0) ∧ lease0.drain = false ∧
    ltRoom (sLr.mdie 8) [lease0.age] 0 = true :=
  by decide +kernel
def lL : Launch := { launch0 with stage := .leasing, units := [], unitNo := 0, dealt := 0 }
def sAd : State := sQ 0 fun w => { w with launch := [lL], admno := 7 }
theorem witness_QueuesAndLaunches_la1 :
    sAd.sw.launch[sAd.arg.n]? = some lL ∧ lL.stage = LStage.leasing ∧ lL.need = [] ∧ lL.stop = false :=
  by decide +kernel
def mdT : MDie := { lt := [(0, { lease0 with lcnt := 0 }), (1, { lease0 with vpage := 1, age := 1 })], inv := [(8, [0])] }
def reqT : Req := { reqP with id := 8 }
def sTl : State := { idle with md := [(8, mdT)], sw := { sw0 with waits := [reqT] }, arg := { die := 8, n := 0 } }
theorem witness_QueuesAndLaunches_ti1 :
    sTl.arg.die = 8 ∧ sTl.arg.n = 0 ∧ sTl.md = [(8, mdT)] ∧ mdT.inv = [(8, [0])] ∧
    (∀ (e : Nat × LEnt), e ∈ mdT.lt → e.snd.age ∈ [0] → e.snd.lcnt + e.snd.ecnt = 0) ∧ sTl.sw.waits = [reqT] ∧ reqT.id = 8 ∧
    reqT.part = none :=
  by decide +kernel
def lD : Launch := { launch0 with card := [1, 0, 16 + 2 ^ 32, 0, 0, 0, 0, 0], units := [], unitNo := 0, sheaf := [(0, 0, 1)], slots := [(0, 0)] }
def sDl : State := { idle with sw := { sw0 with launch := [lD], graphs := [(1, { jid := 1, img := 0, dir := [0], regions := [regP] })] }, arg := { n := 0, k := 0 } }
theorem witness_QueuesAndLaunches_sd1 :
    sDl.sw.launch = [lD] ∧ sDl.arg.n = 0 ∧ sDl.arg.k = 0 ∧ lD.stage = LStage.running ∧ lD.stop = false ∧ lD.serves 0 = true ∧
    sDl.graph? lD.gnum = some { jid := 1, img := 0, dir := [0], regions := [regP] } ∧ sDl.region? lD.gnum 0 = some regP ∧
    regP.done = false ∧ regionOpen sDl { jid := 1, img := 0, dir := [0], regions := [regP] } regP lD.cfg = true ∧
    lD.sheaf = [(0, 0, 1)] ∧ (dealTiles regP lD.blk)[regP.rr % (dealTiles regP lD.blk).length]? = some 0 ∧
    ((sDl.tile 0).allocOf regP.ctx).length < 16 ∧
    (sDl.tile 0).entry regP.ctx lD.blk = some { ctx := 0, blk := 0, block := placedBlock 0 } ∧
    (placedBlock 0).cells ≤ (sDl.tile 0).quotaOf regP.ctx ∧ 1 - 0 ≤ (placedBlock 0).lw ∧ 0 < 1 :=
  by decide +kernel
def lE : Launch := { launch0 with units := [], card := [1, 0, 16, 0, 0, 0, 0, 0] }
def sLc : State := sQ 0 fun w => { w with launch := [lE] }
theorem witness_QueuesAndLaunches_lc1 :
    sLc.sw.launch = [lE] ∧ sLc.arg.n = 0 ∧ lE.isOver = true ∧ lE.flush = false ∧ lE.unk = false ∧ lE.ents = [] ∧
    addr (lE.word 5) = 0 ∧ sLc.sw.cancels = [] ∧ sLc.sw.unbinds = [] :=
  by decide +kernel
theorem witness_CopyEvents_cl2 :
    sLd.arg.tile = 32 ∧ ((sLd.mtile 32).chan 0).copies = [c2 0] ∧ ((sLd.mtile 32).chan 0).waits = [] ∧
    ((sLd.mtile 32).chan 0).wq = [] ∧ ((sLd.mtile 32).chan 0).cans = [] ∧ (c2 0).cancel = false ∧ (c2 0).op = 160 ∧
    sLd.nthRep (Rep.forChan 32) sLd.arg.n = none ∧ 0 < 4 ∧ (∀ (j : Nat), j < 0 → ((sLd.mtile 32).chan j).land = []) ∧
    ((sLd.mtile 32).chan 0).land = [((c2 0).id, 0, bs16, some 0)] ∧ (c2 0).done.length + 1 = (c2 0).sent ∧
    (c2 0).sent = (c2 0).pieces.length :=
  by decide +kernel

def lR (fl : Bool) : Launch := { lE with card := [1, 0, 16, 0, 0, 0x6000, 0, 0], flush := fl }
def tlbE : TlbEnt := { jid := 1, size := 0, perm := 15, vpage := 0, w2 := 0, w3 := 0 }
def sRc (fl : Bool) : State := { (sQ 0 fun w => { w with launch := [lR fl] }) with md := [(8, { lt := [(0, lease0)], tlb := [tlbE] })] }
theorem witness_QueuesAndLaunches_cr1 :
    (sRc false).sw.launch = [lR false] ∧ (sRc false).arg.n = 0 ∧ (sRc false).MemOk ∧ (lR false).isOver = true ∧
    (lR false).ents = [] ∧ addr ((lR false).word 5) ≠ 0 ∧ addr ((lR false).word 5) % 16 = 0 ∧ (lR false).flush = false ∧
    (sRc false).tlbGate (lR false).jid (addr ((lR false).word 5) + 8) 8 Need.aw = (sRc false, true) ∧
      (sRc false).sw.snoops = [] ∧
        (sRc false).lineDone = sRc false ∧
          vaG (BitVec.ofNat 64 (addr ((lR false).word 5) + 8)) = false ∧
            ownerOf (sRc false) (BitVec.ofNat 64 (addr ((lR false).word 5) + 8)) = Except.ok (some 8) ∧
              tlbLook (sRc false) 8 (lR false).jid (BitVec.ofNat 64 (addr ((lR false).word 5) + 8)) = (Walk.ok tlbE, sRc false) ∧
                Need.aw.ok tlbE.perm = true ∧
                  (sRc false).chanDead 8 24584 = false ∧
                    (sRc false).abBad 8 24584 = false ∧
                      xlate tlbE.size tlbE.w2 tlbE.w3 (addr (BitVec.ofNat 64 (addr ((lR false).word 5) + 8))) = 24584 :=
  by refine ⟨?_, ?_, ?_, ?_, ?_, ?_, ?_, ?_, ⟨?_, ?_, ?_, ?_, ok_of ?_, ?_, ?_, ?_, ?_, ?_⟩⟩ <;> decide +kernel
theorem witness_QueuesAndLaunches_cr2 :
    (sRc true).sw.launch = [lR true] ∧ (sRc true).arg.n = 0 ∧ (sRc true).MemOk ∧ (lR true).isOver = true ∧ (lR true).ents = [] ∧
    addr ((lR true).word 5) ≠ 0 ∧ addr ((lR true).word 5) % 16 = 0 ∧ (lR true).flush = true ∧
    (sRc true).tlbGate (lR true).jid (addr ((lR true).word 5) + 0) 8 Need.aw = (sRc true, true) ∧
      (sRc true).sw.snoops = [] ∧
        (sRc true).lineDone = sRc true ∧
          vaG (BitVec.ofNat 64 (addr ((lR true).word 5) + 0)) = false ∧
            ownerOf (sRc true) (BitVec.ofNat 64 (addr ((lR true).word 5) + 0)) = Except.ok (some 8) ∧
              tlbLook (sRc true) 8 (lR true).jid (BitVec.ofNat 64 (addr ((lR true).word 5) + 0)) = (Walk.ok tlbE, sRc true) ∧
                Need.aw.ok tlbE.perm = true ∧
                  (sRc true).chanDead 8 24576 = false ∧
                    (sRc true).abBad 8 24576 = false ∧
                      xlate tlbE.size tlbE.w2 tlbE.w3 (addr (BitVec.ofNat 64 (addr ((lR true).word 5) + 0))) = 24576 :=
  by refine ⟨?_, ?_, ?_, ?_, ?_, ?_, ?_, ?_, ⟨?_, ?_, ?_, ?_, ok_of ?_, ?_, ?_, ?_, ?_, ?_⟩⟩ <;> decide +kernel

end Queues

/-! ## Faults -/

namespace Faults

/-- A fault detected in the frame of tile 0. -/
def flt (fi : Nat) (rsm : Bool := false) : FaultInfo := { cause := 5, tile := 0, fi := fi, w1 := 3, va := 0x1000, extra := 4, defer := true, tcode := 0, mapv := 1, time := 7, rsm := rsm }
def sFl (e : FaultInfo) (g : Switch → Switch := id) : State := { idle.onSw g with detected := [e] }
theorem witness_FaultsAndTests_fa0 :
    (sFl (flt 1)).detected = [flt 1] ∧ (sFl (flt 1)).frame? (flt 1).tile (flt 1).fi = none :=
  by decide +kernel
theorem witness_FaultsAndTests_fa1 :
    (sFl (flt 0 true)).detected = [flt 0 true] ∧ (sFl (flt 0 true)).frame? (flt 0 true).tile (flt 0 true).fi = some placedFrame ∧
    { (sFl (flt 0 true)) with detected := [] }.launchOf placedFrame.unit = some launch0 ∧ ((flt 0 true).rsm = true ∨ (flt 0 true).log = true) :=
  by decide +kernel
def rec0 : PendRec := { jid := 1, fq := 9, unit := some { queue := 0, entry := 0, no := 0 }, words := [5] }
def ends0 (w : Switch) : Switch := { w with recs := [rec0] }
theorem witness_FaultsAndTests_fa2 :
    (sFl (flt 0) ends0).detected = [flt 0] ∧ (sFl (flt 0) ends0).frame? (flt 0).tile (flt 0).fi = some placedFrame ∧
    { (sFl (flt 0) ends0) with detected := [] }.launchOf placedFrame.unit = some launch0 ∧ (flt 0).rsm = false ∧ (flt 0).log = false ∧
    unitEnding { (sFl (flt 0) ends0) with detected := [] } placedFrame.unit = true :=
  by decide +kernel
theorem witness_FaultsAndTests_fa3 :
    (sFl (flt 0)).detected = [flt 0] ∧ (sFl (flt 0)).frame? (flt 0).tile (flt 0).fi = some placedFrame ∧
    { (sFl (flt 0)) with detected := [] }.launchOf placedFrame.unit = some launch0 ∧ (flt 0).rsm = false ∧ (flt 0).log = false ∧
    unitEnding { (sFl (flt 0)) with detected := [] } placedFrame.unit = false ∧
    (∀ (c : QSnap), ((sFl (flt 0)).queue placedFrame.unit.queue).ctl = some c → c.clk ≠ (sFl (flt 0)).clk) :=
  by decide +kernel
def recN (fl : Bool := true) : PendRec := { jid := 1, fq := 9, words := [5, 6, 7, 8, 9, 10, 11, 0], flush := fl }
def sRd (ovf : Bool) (st : Nat) (fl : Bool := true) : State := idle.onSw fun w => { w with
  recs := [recN fl], jobs := [(1, { valid := true, fq := 9, ovf := ovf })]
  queues := [(0, { state := 1, kind := 0, jid := 1, base := 0x100 }), (9, { state := st, kind := 1, jid := 1, base := 0x200 })] }
def gF : Graph := { jid := 1, img := 0, dir := [0], regions := [region0], st := .freezing }
def sFz (busy : Bool) : State := { idle.onSw fun w => { w with graphs := [(1, gF)] } with
  arg := { n := 1 }, detected := if busy then [flt 0] else [] }
theorem witness_FaultsAndTests_fz1 :
    (sFz true).graph? (sFz true).arg.n = some gF ∧ gF.st = GState.freezing ∧ (sFz true).sw.freezes = [] ∧ (sFz true).late = [] ∧
    waveDone (sFz true) gF = false :=
  by decide +kernel
theorem witness_FaultsAndTests_fz2 :
    (sFz false).graph? (sFz false).arg.n = some gF ∧ gF.st = GState.freezing ∧ (sFz false).sw.freezes = [] ∧ (sFz false).late = [] ∧
    waveDone (sFz false) gF = true :=
  by decide +kernel
def sDl (k : Nat) : State := { idle.onSw fun w => { w with jobs := [(1, { valid := true, fq := 9, dls := [(3, 100)] })] } with arg := { n := 1 }, clk := k }
theorem witness_FaultsAndTests_dl1 :
    ((sDl 100).job (sDl 100).arg.n).dls = [(3, 100)] ∧ ((sDl 100).job (sDl 100).arg.n).valid = true ∧
    ((sDl 100).job (sDl 100).arg.n).susp = false ∧ (sDl 100).clk ≤ 100 :=
  by decide +kernel
theorem witness_FaultsAndTests_dl2 :
    ((sDl 101).job (sDl 101).arg.n).dls = [(3, 100)] ∧ ((sDl 101).job (sDl 101).arg.n).valid = true ∧
    ((sDl 101).job (sDl 101).arg.n).susp = false ∧ 100 < (sDl 101).clk ∧
    (∀ (q : Nat × Queue), q ∈ (sDl 101).sw.queues → ∀ (c : QSnap), q.snd.ctl = some c → c.clk ≠ (sDl 101).clk) :=
  by decide +kernel
def rS : Req := { id := 8, src := .port 0, own := 3, jid := 1, piece := { va := 0, acc := .sys 0xE8 0 2 0 0 } }
def sSc (g : Scan → Scan) : State := { idle.onTile 2 fun c => { c with scan := g { state := 1, go := some rS, auto := true } } with arg := { tile := 2 } }
def sEnd : State := sSc fun c => { c with ended := true }
/-- Whether the test passes is a free value's; one of the two clauses applies. -/
theorem witness_FaultsAndTests_sc1 :
    (sEnd.tile sEnd.arg.tile).scan.ended = true ∧ (sEnd.tile sEnd.arg.tile).scan.go = some rS ∧
    (rS.src ≠ Src.outside ∧ rS.part = none) ∧
    (Config.scanSig sEnd.arg.tile (sEnd.tile sEnd.arg.tile).scan.done = scanExpOf sEnd sEnd.arg.tile ∨
      Config.scanSig sEnd.arg.tile (sEnd.tile sEnd.arg.tile).scan.done ≠ scanExpOf sEnd sEnd.arg.tile) :=
  ⟨by decide +kernel, by decide +kernel, by decide +kernel, Decidable.em _⟩
def sLate : State := { (sSc fun c => { c with state := 2, abtAt := 6, abts := [{ rS with id := 9, piece := { va := 0, acc := .sys 0xE8 1 2 0 0 } }] }) with clk := 5 }
def lW2 : Launch := { launch0 with card := [1, 0, 16 + 2 ^ 32, 0, 0, 0, 0, 0], dealt := 0, slots := [(0, 0)] }
def sWa : State := { ((idle.onTile 33 fun c => { c with scan := { state := 1, go := some rS, auto := true } }).onSw fun w => { w with launch := [lW2] }) with arg := { tile := 33 } }
def rA : Req := { rS with id := 9, piece := { va := 0, acc := .sys 0xE8 1 2 0 0 } }
def sc2s : State := sSc fun c => { c with state := 2, abts := [rA] }
theorem witness_FaultsAndTests_fr0 :
    (sRd true 1 false).sw.recs = [recN false] ∧ (sRd true 1 false).arg.n = 0 ∧
    (∀ (u : UnitId), (recN false).unit = some u → (sRd true 1 false).unitFrames u = []) ∧
    ((recN false).unit = none → ∀ (e : Nat × Nat × Nat), e ∈ (recN false).mem → (sRd true 1 false).stillOut e = false) ∧
    (recN false).flush = false :=
  by decide +kernel
theorem witness_FaultsAndTests_fr1 :
    (sRd true 1).sw.recs = [recN] ∧ (sRd true 1).arg.n = 0 ∧ (∀ (u : UnitId), recN.unit = some u → (sRd true 1).unitFrames u = []) ∧
    (recN.unit = none → ∀ (e : Nat × Nat × Nat), e ∈ recN.mem → (sRd true 1).stillOut e = false) ∧ recN.flush = true ∧
    recN.after = none ∧ ((sRd true 1).queue recN.fq).slot ≠ (sRd true 1).clk + 1 ∧ ((sRd true 1).queue recN.fq).kind = 1 ∧
    ((sRd true 1).queue recN.fq).jid = recN.jid ∧ Pushable ((sRd true 1).onSw fun w => { w with recs := [] }) recN.fq 8 32768 :=
  by refine ⟨?_, ?_, ?_, ?_, ?_, ?_, ?_, ?_, ?_, ⟨?_, ?_, ?_, ok_of ?_, ?_⟩⟩ <;> decide +kernel
theorem witness_FaultsAndTests_fr2 :
    (sRd true 2).sw.recs = [recN] ∧ (sRd true 2).arg.n = 0 ∧ (∀ (u : UnitId), recN.unit = some u → (sRd true 2).unitFrames u = []) ∧
    (recN.unit = none → ∀ (e : Nat × Nat × Nat), e ∈ recN.mem → (sRd true 2).stillOut e = false) ∧ recN.flush = true ∧
    recN.after = none ∧ ((sRd true 2).queue recN.fq).slot ≠ (sRd true 2).clk + 1 ∧
    (((sRd true 2).queue recN.fq).kind ≠ 1 ∨ ((sRd true 2).queue recN.fq).jid ≠ recN.jid ∨ ((sRd true 2).queue recN.fq).state ≠ 1 ∨ ((sRd true 2).queue recN.fq).full = true) :=
  by decide +kernel
theorem witness_FaultsAndTests_sc0 :
    (((sSc id).tile (sSc id).arg.tile).scan.state = 1 ∨ ((sSc id).tile (sSc id).arg.tile).scan.state = 2 ∧ ((sSc id).tile (sSc id).arg.tile).scan.abtAt = (sSc id).clk + 1) ∧
    ((sSc id).tile (sSc id).arg.tile).scan.ended = false ∧
    (∀ (a : Req), a ∈ ((sSc id).tile (sSc id).arg.tile).scan.abts → a.src ≠ Src.outside ∧ a.part = none) :=
  by decide +kernel
theorem witness_FaultsAndTests_sc0b :
    ((sLate.tile sLate.arg.tile).scan.state = 1 ∨ (sLate.tile sLate.arg.tile).scan.state = 2 ∧ (sLate.tile sLate.arg.tile).scan.abtAt = sLate.clk + 1) ∧
    (sLate.tile sLate.arg.tile).scan.ended = false ∧
    (∀ (a : Req), a ∈ (sLate.tile sLate.arg.tile).scan.abts → a.src ≠ Src.outside ∧ a.part = none) :=
  by decide +kernel
theorem witness_FaultsAndTests_sc2 :
    (sWa.tile sWa.arg.tile).scan.state = 1 ∧ (sWa.tile sWa.arg.tile).scan.ended = false ∧ (sWa.tile sWa.arg.tile).scan.auto = true ∧
    wantOf sWa sWa.arg.tile ≠ none :=
  by decide +kernel
theorem witness_FaultsAndTests_sc3 :
    (sc2s.tile sc2s.arg.tile).scan.state = 2 ∧ (sc2s.tile sc2s.arg.tile).scan.go = some rS ∧
    (rS.src ≠ Src.outside ∧ rS.part = none) ∧
    (∀ (a : Req), a ∈ (sc2s.tile sc2s.arg.tile).scan.abts → a.src ≠ Src.outside ∧ a.part = none) :=
  by refine ⟨?_, ?_, ⟨(by intro e; cases e), ?_⟩, ?_⟩ <;> decide +kernel

end Faults

/-! ## Maps -/

namespace Maps

def sM (a : Args) (m : List (Nat × Word) := sw0.map) (c : Nat := 5) (g : Switch → Switch := id) : State :=
  { world placedFiring with clk := c, issuing := none, sw := g { sw0 with map := m }, arg := a }
def m0 : List (Nat × Word) := [(0, 1), (1, 0x00075300), (10, 1), (14, 1), (16, 0x0000000300000003), (288, 0x20041)]
def gone (l : List (Nat × Word)) (k : Nat) : List (Nat × Word) := l.filter fun e => e.1 != k
abbrev up0 (g : Nat) : List (Nat × Word) := (0, 1) :: (1, 0x00075300) :: (2, BitVec.ofNat 64 (1 + g * 4)) :: (sw0.map.drop 3)
def st_m1 : State := sM { die := 0 }
theorem witness_MapEvents_m1 :
    Sorted st_m1.sw.map ∧ st_m1.version + 1 < 2 ^ 64 ∧ st_m1.arg.die < 8 ∧ st_m1.dieState st_m1.arg.die ≠ 3 :=
  by decide +kernel
def fwUp (w : Switch) : Switch := { w with boot := (0, { state := 2 }) :: w.boot }
def st_m2 : State := sM { part := .die 0 2 [] } m0 5 fwUp
def st_m2b : State := sM { part := .die 11 2 [] } m0 5 (fun w => { w with boot := (11, { state := 2 }) :: w.boot })
theorem witness_MapEvents_m2b :
    Sorted st_m2b.sw.map ∧ st_m2b.version + 1 < 2 ^ 64 ∧ st_m2b.arg.part = Part.die 11 2 [] ∧ 11 < 12 ∧ st_m2b.dieState 11 = 0 ∧
    (st_m2b.fw 11).state = 2 ∧ (st_m2b.heat 11).off = false ∧ st_m2b.switchRuns = true :=
  by decide +kernel
def st_m3 : State := sM { part := .link 192 99 100 } (gone sw0.map 288)
theorem witness_MapEvents_m3 :
    Sorted st_m3.sw.map ∧ st_m3.version + 1 < 2 ^ 64 ∧ st_m3.arg.part = Part.link 192 99 100 ∧ 192 ≤ 192 ∧
    field (st_m3.mapWord (linkMix 192)) 0 2 = 0 ∧ st_m3.switchRuns = true :=
  by decide +kernel
def st_m3b : State := sM { part := .link 0 64 64 } (gone sw0.map 96)
def st_m4 : State := sM { part := .stack 15 0xFFFFFFFF }
theorem witness_MapEvents_m4 :
    Sorted st_m4.sw.map ∧ st_m4.version + 1 < 2 ^ 64 ∧ st_m4.arg.part = Part.stack 15 4294967295 ∧ 15 < 16 ∧
    field (st_m4.mapWord (296 + 15)) 0 2 = 0 ∧ 4294967295 < 2 ^ 32 ∧ st_m4.switchRuns = true :=
  by decide +kernel
def st_m5 : State := sM { tile := 0 }
theorem witness_MapEvents_m5 :
    Sorted st_m5.sw.map ∧ st_m5.version + 1 < 2 ^ 64 ∧ isTile st_m5.arg.tile = true ∧ st_m5.dieUp (tileDie st_m5.arg.tile) = true ∧
    st_m5.tileLive st_m5.arg.tile = true :=
  by decide +kernel
def st_m6 : State := sM { die := 8 }
theorem witness_MapEvents_m6 :
    Sorted st_m6.sw.map ∧ st_m6.version + 1 < 2 ^ 64 ∧ st_m6.arg.die < 12 ∧ st_m6.dieState st_m6.arg.die ≠ 3 :=
  by decide +kernel
theorem witness_MapEvents_m6b :
    Sorted st_m1.sw.map ∧ st_m1.version + 1 < 2 ^ 64 ∧ st_m1.arg.die < 12 ∧ st_m1.dieState st_m1.arg.die ≠ 3 :=
  by decide +kernel
def st_m7 : State := sM { die := 9 } sw0.map 4800000000
theorem witness_MapEvents_m7 :
    Sorted st_m7.sw.map ∧ st_m7.version + 1 < 2 ^ 64 ∧ 8 ≤ st_m7.arg.die ∧ st_m7.arg.die < 12 ∧ st_m7.dieState st_m7.arg.die = 0 ∧
    4800000000 ≤ st_m7.clk :=
  by decide +kernel
def st_m7b : State := sM { die := 9 } sw0.map 4799999999
theorem witness_MapEvents_m7b :
    Sorted st_m7b.sw.map ∧ st_m7b.version + 1 < 2 ^ 64 ∧ 8 ≤ st_m7b.arg.die ∧ st_m7b.arg.die < 12 ∧
    st_m7b.dieState st_m7b.arg.die = 0 ∧ st_m7b.clk < 4800000000 :=
  by decide +kernel
def st_m8 : State := sM { n := 192, k := 8, v := 128 }
theorem witness_MapEvents_m8 :
    Sorted st_m8.sw.map ∧ st_m8.version + 1 < 2 ^ 64 ∧ st_m8.arg.n ≤ 192 ∧
    (field (st_m8.mapWord (linkMix st_m8.arg.n)) 0 2 = 1 ∨ field (st_m8.mapWord (linkMix st_m8.arg.n)) 0 2 = 2) :=
  by decide +kernel
def st_m8b : State := sM { n := 192, k := 77, v := 128 } (sw0.map.map fun e => if e.1 = 288 then (288, 2) else e)
theorem witness_MapEvents_m8b :
    Sorted st_m8b.sw.map ∧ st_m8b.version + 1 < 2 ^ 64 ∧ st_m8b.arg.n ≤ 192 ∧
    (field (st_m8b.mapWord (linkMix st_m8b.arg.n)) 0 2 = 1 ∨ field (st_m8b.mapWord (linkMix st_m8b.arg.n)) 0 2 = 2) :=
  by decide +kernel
def st_m9 : State := sM { n := 0, k := 31 }
theorem witness_MapEvents_m9 :
    Sorted st_m9.sw.map ∧ st_m9.version + 1 < 2 ^ 64 ∧ st_m9.arg.n < 16 ∧ st_m9.arg.k < 32 ∧
    (field (st_m9.mapWord (296 + st_m9.arg.n)) 0 2 = 1 ∨ field (st_m9.mapWord (296 + st_m9.arg.n)) 0 2 = 2) ∧
    field (st_m9.mapWord (296 + st_m9.arg.n)) (2 + st_m9.arg.k) 1 = 1 :=
  by decide +kernel
def mL : List (Nat × Word) := (sw0.map.take 6) ++ [(96, 0x10101), (288, 0x20041), (296, 0x4003FFFFFFFD)]
def st_m10 : State := sM { n := 0, flag := true } mL
theorem witness_MapEvents_m10 :
    Sorted st_m10.sw.map ∧ st_m10.version + 1 < 2 ^ 64 ∧ st_m10.arg.n < 160 ∧
    (field (st_m10.mapWord (linkMix st_m10.arg.n)) 0 2 = 1 ∨ field (st_m10.mapWord (linkMix st_m10.arg.n)) 0 2 = 2) ∧
    st_m10.arg.flag = true :=
  by decide +kernel
def st_m11 : State := sM { n := 0, flag := false } mL
theorem witness_MapEvents_m11 :
    Sorted st_m11.sw.map ∧ st_m11.version + 1 < 2 ^ 64 ∧ st_m11.arg.n < 160 ∧
    (field (st_m11.mapWord (linkMix st_m11.arg.n)) 0 2 = 1 ∨ field (st_m11.mapWord (linkMix st_m11.arg.n)) 0 2 = 2) ∧
    st_m11.arg.flag = false :=
  by decide +kernel
def th (t : Therm) (w : Switch) : Switch := { w with therm := [(0, t)] }
def st_p1 : State := sM { die := 0, v := 99 } sw0.map 5 (th { hot := some 3, temp := 104, max := 104 })
theorem witness_PowerEvents_p1 :
    Sorted st_p1.sw.map ∧ st_p1.version + 1 < 2 ^ 64 ∧ st_p1.arg.die < 13 ∧ st_p1.arg.v < 100 :=
  by decide +kernel
def st_p2 : State := sM { die := 0, v := 100 }
def st_p2b : State := sM { die := 0, v := 100 } (up0 (2*2^24/4))
theorem witness_PowerEvents_p2b :
    Sorted st_p2b.sw.map ∧ st_p2b.version + 1 < 2 ^ 64 ∧ st_p2b.arg.die < 8 ∧ 100 ≤ st_p2b.arg.v ∧ st_p2b.arg.v < 110 ∧
    (st_p2b.heat st_p2b.arg.die).hot = none ∧ st_p2b.dieUp st_p2b.arg.die = true ∧ st_p2b.gradeOf st_p2b.arg.die < 3 ∧
    (st_p2b.heat st_p2b.arg.die).low ≠ some st_p2b.clk :=
  by decide +kernel
def st_p3 : State := sM { die := 0 } sw0.map 24000003 (th { hot := some 3, temp := 104 })
theorem witness_PowerEvents_p3 :
    Sorted st_p3.sw.map ∧ st_p3.version + 1 < 2 ^ 64 ∧ st_p3.arg.die < 8 ∧ (st_p3.heat st_p3.arg.die).hot = some 3 ∧
    3 + 24000000 ≤ st_p3.clk ∧ st_p3.dieUp st_p3.arg.die = true ∧ st_p3.gradeOf st_p3.arg.die < 3 ∧
    (st_p3.heat st_p3.arg.die).low ≠ some st_p3.clk :=
  by decide +kernel
def st_p3b : State := sM { die := 0 } sw0.map 24000002 (th { hot := some 3, temp := 104 })
theorem witness_PowerEvents_p3b :
    Sorted st_p3b.sw.map ∧ st_p3b.version + 1 < 2 ^ 64 ∧ st_p3b.arg.die < 8 ∧ (st_p3b.heat st_p3b.arg.die).hot = some 3 ∧
    st_p3b.clk < 3 + 24000000 :=
  by decide +kernel
def st_p4 : State := sM { v := 8000 } sw0.map 2400003 (fun w => { w with pwrhot := some 3 })
theorem witness_PowerEvents_p4 :
    Sorted st_p4.sw.map ∧ st_p4.version + 1 < 2 ^ 64 ∧ (∀ (c : Nat), st_p4.sw.pwrhot = some c → c + 2400000 ≤ st_p4.clk) ∧
    st_p4.arg.v < 2 ^ 16 ∧ st_p4.arg.v ≤ st_p4.sw.pwrcap :=
  by refine ⟨?_, ?_, (by intro c e; have e' : some 3 = some c := e; cases e'; decide +kernel), ?_, ?_⟩ <;> decide +kernel
def mG3 : List (Nat × Word) := (0, 1) :: (1, 0x00075300) :: (2, 1 + 3 * 4) :: (sw0.map.drop 3)
def st_p5 : State := sM { v := 8001 } mG3 2400003 (fun w => { w with pwrhot := some 3 })
theorem witness_PowerEvents_p5 :
    Sorted st_p5.sw.map ∧ st_p5.version + 1 < 2 ^ 64 ∧ (∀ (c : Nat), st_p5.sw.pwrhot = some c → c + 2400000 ≤ st_p5.clk) ∧
    st_p5.arg.v < 2 ^ 16 ∧ st_p5.sw.pwrcap < st_p5.arg.v ∧ (∀ (d : Nat), d < 8 → st_p5.dieUp d = true → st_p5.gradeOf d = 3) :=
  by refine ⟨?_, ?_, (by intro c e; have e' : some 3 = some c := e; cases e'; decide +kernel), ?_, ?_, ?_⟩ <;> decide +kernel
def st_p6 : State := sM { die := 0 } mG3 240000003 (th { cool := some 3, temp := 20 })
def st_p6b : State := sM { die := 0 } mG3 240000003 (th { cool := some 3, temp := 20, low := some 240000003 })
theorem witness_PowerEvents_p6 :
    Sorted st_p6.sw.map ∧ st_p6.version + 1 < 2 ^ 64 ∧ st_p6.arg.die < 8 ∧ (st_p6.heat st_p6.arg.die).cool = some 3 ∧
    3 + 240000000 ≤ st_p6.clk ∧ (∀ (x : Happening), x ∈ st_p6.agenda.head? → x.dt ≠ 0) ∧
    (∀ (e : Nat), e < 8 → (st_p6.heat e).low ≠ some st_p6.clk) ∧ st_p6.dieUp st_p6.arg.die = true ∧ 0 < st_p6.gradeOf st_p6.arg.die :=
  by decide +kernel
def st_p7 : State := sM { die := 0, v := 110 }
theorem witness_PowerEvents_p7 :
    Sorted st_p7.sw.map ∧ st_p7.version + 1 < 2 ^ 64 ∧ st_p7.arg.die < 8 ∧ 110 ≤ st_p7.arg.v ∧
    (st_p7.heat st_p7.arg.die).off = false ∧ st_p7.dieState st_p7.arg.die ≠ 3 :=
  by decide +kernel
def st_p8 : State := sM { die := 0, v := 89 } sw0.map 5 (th { off := true })
theorem witness_PowerEvents_p8 :
    Sorted st_p8.sw.map ∧ st_p8.version + 1 < 2 ^ 64 ∧ (st_p8.heat st_p8.arg.die).off = true ∧ st_p8.arg.v < 90 :=
  by decide +kernel
def st_p8b : State := sM { die := 0, v := 90 } sw0.map 5 (th { off := true })
theorem witness_PowerEvents_p8b :
    Sorted st_p8b.sw.map ∧ st_p8b.version + 1 < 2 ^ 64 ∧ (st_p8b.heat st_p8b.arg.die).off = true ∧ 90 ≤ st_p8b.arg.v :=
  by decide +kernel
def st_p9 : State := sM { die := 12, v := 110 }
theorem witness_PowerEvents_p9 :
    Sorted st_p9.sw.map ∧ st_p9.version + 1 < 2 ^ 64 ∧ 8 ≤ st_p9.arg.die ∧ st_p9.arg.die < 13 ∧ 110 ≤ st_p9.arg.v :=
  by decide +kernel
theorem witness_PowerEvents_p5_2 :
    Sorted st_p5.sw.map ∧ st_p5.version + 1 < 2 ^ 64 ∧ st_p5.arg.die < 13 ∧ 110 ≤ st_p5.arg.v ∧
    (st_p5.heat st_p5.arg.die).off = false :=
  by decide +kernel
theorem witness_PowerEvents_p6b :
    Sorted st_p6b.sw.map ∧ st_p6b.version + 1 < 2 ^ 64 ∧ st_p6b.arg.die < 8 ∧ (st_p6b.heat st_p6b.arg.die).cool = some 3 ∧
    3 + 240000000 ≤ st_p6b.clk ∧ (∀ (x : Happening), x ∈ st_p6b.agenda.head? → x.dt ≠ 0) ∧ 0 < 8 ∧
    (st_p6b.heat 0).low = some st_p6b.clk :=
  by decide +kernel

end Maps

/-! ## Modules -/

namespace Modules

def sA (g : Switch → Switch := id) (a : Args := {}) (net : List Req := []) : State := { idle.onSw g with arg := a, net := net }
def rAr (dev : Nat) : Req := { id := 5, src := .outside, own := 0, jid := 1, piece := { va := BitVec.ofNat 64 (2 ^ 56 + dev * 2 ^ 46 + 0x1000), acc := .ared .add .n64 [3] } }
def st_ar1 : State := sA fun w => { w with areds := [rAr 0] }
def rA7 : Req := { rAr 0 with held := true, piece := { va := BitVec.ofNat 64 (2 ^ 56 + 7 * 2 ^ 46 + 0x1000), acc := .ared .add .n64 [3] } }
def st_ar2 : State := sA fun w => { w with areds := [rA7] }
def st_rw1 : State := sA (fun w => { w with rwin := [(3, { v := true, pend := true, len := 4 })] }) { n := 3 }
theorem witness_ModuleEvents_rw1 : (st_rw1.rwin st_rw1.arg.n).pend = true ∧ (st_rw1.rwin st_rw1.arg.n).v = true := by decide +kernel
def st_rw2 : State := sA id { n := 63, w := 5 + 0xFFFFFFFF00000000, w2 := 0xFFFFFFFFFFFF }
theorem witness_ModuleEvents_rw2 : st_rw2.arg.n < 64 := by decide +kernel
def lk (l : Link) (a : Args) (c : Nat := 5) : State := { sA (fun w => { w with links := [(192, l)] }) { a with n := 192 } with clk := c }
def st_la1 : State := lk {} { words := [30, 7, 2, 6, 0x30000] } 8192
def st_la2 : State := lk {} { words := [30, 7, 2, 6, 1] } 8192
def vcDry : LinkVc := { fsc := 0, fr := 0, dry := some 4 }
def st_ls1 : State := lk { vcs := [(0, vcDry)] } {} 65540
def st_ls2 : State := lk { vcs := [(0, vcDry)] } {} 65539
def st_rt1 : State := lk { sync := some 4 } {} 65540
def st_rt2 : State := lk { sync := some 4 } {} 65539
def st_rt3 : State := lk { sync := some 4, since := [1, 2] } { flag := true } 65540
def st_rt4 : State := lk { sync := some 4, since := [1, 2] } {} 65540
def sraSw : Word := BitVec.ofNat 64 (12 * 2 ^ 34 + 0x9900)
def st_hb1 : State := sA id { w := sraSw }
theorem witness_ModuleEvents_hb1 :
    sraOf st_hb1.arg.w = some (RegWin.sw, 39168) ∧ regDead st_hb1 RegWin.sw 39168 = false ∧ st_hb1.arg.words = [] :=
  by decide +kernel
def st_hb2 : State := sA id { w := sraSw, words := [77] }
theorem witness_ModuleEvents_hb2 :
    sraOf st_hb2.arg.w = some (RegWin.sw, 39168) ∧ regDead st_hb2 RegWin.sw 39168 = false ∧ st_hb2.arg.words = [77] :=
  by decide +kernel
def st_hb3 : State := sA id { w := 2 ^ 63 }
def st_hb4 : State := sA id { w := 2 ^ 63, words := [77] }
def st_rgw : State := sA id { w := sraSw, w2 := 77 }
def st_rgw2 : State := sA id { w := sraSw + 0x10, w2 := 77 }
theorem witness_ModuleEvents_rgw :
    sraOf st_rgw.arg.w = some (RegWin.sw, 39168) ∧ regDead st_rgw RegWin.sw 39168 = false ∧ (RegWin.sw, 39168) = (RegWin.sw, 39168) :=
  by decide +kernel
def ad (w : Switch) : Switch := { w with adpjid := 1, adpap := [(0, BitVec.ofNat 64 (1 + 0 * 2 ^ 40))] }
def tlbd (a : Args) : State := { (sA ad a) with md := [(8, { lt := [(0, lease0)], tlb := [{ jid := 1, size := 0, perm := 3, vpage := 0, w2 := 0, w3 := 0 }] })] }
def st_hd1 : State := tlbd { n := 0x1000, k := 8 }
def st_hd2 : State := tlbd { n := 0x103C, data := some [1, 2, 3, 4, 5, 6] }
def vaHost (off : Nat) : Word := BitVec.ofNat 64 (0x20 * 2 ^ 50 + off)
def rH (a : AccOp) (off : Nat) : Req := { id := 8, src := .port 0, own := 3, jid := 1, piece := { va := vaHost off, acc := a } }
def sH (r : Req) (ph : Nat) : State := sA (fun w => { w with hwsize := 0x1000, hwbase := 0x40000, adphj := [(0, BitVec.ofNat 64 ph)] }) {} [r]
def rHr : Req := rH (.readRow 8) 0xFF8
def rHw : Req := rH (.writeRow [1, 2]) 0x20
def rHl (off : Nat) : Req := rH (.loads [(0, vaHost off, 4)]) (off / 64 * 64)
def rHs : Req := rH (.stores [(0, vaHost 0xFFC, [1, 2, 3, 4])]) 0xFC0
def sF (en : Nat) : State := sA (fun w => { w with faben := [(0, BitVec.ofNat 64 en)] }) { fab := { jid := 1, va := 0x1000, acc := .arrive } }
theorem witness_ModuleEvents_fb1 :
    vaG (sF 2).arg.fab.va = false ∧ ((sF 2).job (sF 2).arg.fab.jid).valid = true ∧
    (∀ (op sub : Nat) (a b c : Word), (sF 2).arg.fab.acc ≠ AccOp.sys op sub a b c) ∧
    (∀ (t : Ty) (b c d : Word), (sF 2).arg.fab.acc ≠ AccOp.cask t b c d) ∧
    (∀ (t : Ty) (b c d : Word), (sF 2).arg.fab.acc ≠ AccOp.caddk t b c d) ∧ jobBit (sF 2).sw.faben (sF 2).arg.fab.jid = true :=
  by refine ⟨?_, ?_, (by intro op sub a b c e; cases e), (by intro t b c d e; cases e), (by intro t b c d e; cases e), ?_⟩ <;> decide +kernel
theorem witness_ModuleEvents_fb2 :
    vaG (sF 0).arg.fab.va = false ∧ ((sF 0).job (sF 0).arg.fab.jid).valid = true ∧
    (∀ (op sub : Nat) (a b c : Word), (sF 0).arg.fab.acc ≠ AccOp.sys op sub a b c) ∧
    (∀ (t : Ty) (b c d : Word), (sF 0).arg.fab.acc ≠ AccOp.cask t b c d) ∧
    (∀ (t : Ty) (b c d : Word), (sF 0).arg.fab.acc ≠ AccOp.caddk t b c d) ∧ jobBit (sF 0).sw.faben (sF 0).arg.fab.jid = false :=
  by refine ⟨?_, ?_, (by intro op sub a b c e; cases e), (by intro t b c d e; cases e), (by intro t b c d e; cases e), ?_⟩ <;> decide +kernel
def rSn : Req := { rH (.readRow 8) 0x20 with piece := { va := 0x1000, acc := .readRow 8 }, held := true, loc := some (8, 0x1000, true) }
def bs64 : List Byte := List.replicate 64 9
def sSn (d : Option (List Byte)) : State := sA id { data := d } [rSn]
def sSw : State := sA fun w => { w with snoops := [(8, 0x1000, false)] }
def rX : Req := { id := 8, src := .port 0, own := 3, jid := 1, piece := { va := 0, acc := .sys 0xD4 1 0 0 0 } }
def sX (dead : Bool) : State := sA (fun w => { w with xrg := [(2, { armed := true, jid := 1, chain := [0], elems := 2, dest := 0x1000, conts := [(0, [5, 6], rX)] })], map := if dead then (0, 1) :: (1, 0x75300) :: (2, 3) :: w.map.drop 3 else w.map }) { n := 2 }
def tX : State := match jobWrite (sX false) 1 0x1000 ([5, 6].flatMap fun e => toBytes 4 e) with | .ok t => t | .error _ => sX false
theorem witness_ModuleEvents_ar1 :
    st_ar1.sw.areds = [rAr 0] ∧ st_ar1.arg.n = 0 ∧ st_ar1.arg.words = [] ∧ (rAr 0).piece.acc = AccOp.ared AKind.add Ty.n64 [3] ∧
    (rAr 0).held = false :=
  by decide +kernel
theorem witness_ModuleEvents_ar2 :
    st_ar2.sw.areds = [rA7] ∧ st_ar2.arg.n = 0 ∧ st_ar2.arg.words = [] ∧ rA7.piece.acc = AccOp.ared AKind.add Ty.n64 [3] ∧
    rA7.held = true ∧ vaDev rA7.piece.va ≠ st_ar2.sw.fabid :=
  by decide +kernel
theorem witness_ModuleEvents_la1 :
    linkUp st_la1 st_la1.arg.n = true ∧ st_la1.arg.words = [30, 7, 2, 6, 196608] ∧ (st_la1.link st_la1.arg.n).vcs = [] ∧
    (st_la1.link st_la1.arg.n).last < st_la1.clk / 4096 ∧
    (∀ (t : Nat), (st_la1.link st_la1.arg.n).sync = some t → st_la1.clk < t + 65536) ∧ field 196608 0 16 = 0 :=
  by decide +kernel
theorem witness_ModuleEvents_la2 :
    linkUp st_la2 st_la2.arg.n = true ∧ st_la2.arg.words = [30, 7, 2, 6, 1] ∧ (st_la2.link st_la2.arg.n).vcs = [] ∧
    (st_la2.link st_la2.arg.n).last < st_la2.clk / 4096 ∧
    (∀ (t : Nat), (st_la2.link st_la2.arg.n).sync = some t → st_la2.clk < t + 65536) ∧ field 1 0 16 ≠ 0 ∧
    (st_la2.link st_la2.arg.n).fresh = false :=
  by decide +kernel
theorem witness_ModuleEvents_ls1 :
    linkUp st_ls1 st_ls1.arg.n = true ∧ (st_ls1.link st_ls1.arg.n).sync = none ∧
    (∃ v, v ∈ (st_ls1.link st_ls1.arg.n).vcs ∧ ∃ t, v.snd.dry = some t ∧ t + 65536 ≤ st_ls1.clk) :=
  by decide +kernel
theorem witness_ModuleEvents_ls2 :
    linkUp st_ls2 st_ls2.arg.n = true ∧ (st_ls2.link st_ls2.arg.n).sync = none ∧
    (∀ (v : Nat × LinkVc), v ∈ (st_ls2.link st_ls2.arg.n).vcs → ∀ (t : Nat), v.snd.dry = some t → st_ls2.clk < t + 65536) :=
  by decide +kernel
theorem witness_ModuleEvents_rt1 :
    linkUp st_rt1 st_rt1.arg.n = true ∧ (st_rt1.link st_rt1.arg.n).sync = some 4 ∧ 4 + 65536 ≤ st_rt1.clk ∧
    (st_rt1.link st_rt1.arg.n).fails = [] ∧ (st_rt1.link st_rt1.arg.n).since = [] :=
  by decide +kernel
theorem witness_ModuleEvents_rt2 :
    linkUp st_rt2 st_rt2.arg.n = true ∧ (st_rt2.link st_rt2.arg.n).sync = some 4 ∧ st_rt2.clk < 4 + 65536 :=
  by decide +kernel
theorem witness_ModuleEvents_rt3 :
    linkUp st_rt3 st_rt3.arg.n = true ∧ (st_rt3.link st_rt3.arg.n).sync = some 4 ∧ 4 + 65536 ≤ st_rt3.clk ∧
    (st_rt3.link st_rt3.arg.n).since = [1, 2] ∧ st_rt3.clk < 1 + 2400000000 ∧ st_rt3.clk < 2 + 2400000000 ∧ st_rt3.arg.n ≤ 192 ∧
    Sorted st_rt3.sw.map ∧ st_rt3.version + 2 < 2 ^ 64 ∧ st_rt3.arg.flag = true :=
  by decide +kernel
theorem witness_ModuleEvents_rt4 :
    linkUp st_rt4 st_rt4.arg.n = true ∧ (st_rt4.link st_rt4.arg.n).sync = some 4 ∧ 4 + 65536 ≤ st_rt4.clk ∧
    (st_rt4.link st_rt4.arg.n).since = [1, 2] ∧ st_rt4.clk < 1 + 2400000000 ∧ st_rt4.clk < 2 + 2400000000 ∧ st_rt4.arg.n ≤ 192 ∧
    Sorted st_rt4.sw.map ∧ st_rt4.version + 2 < 2 ^ 64 ∧ st_rt4.arg.flag = false :=
  by decide +kernel
theorem witness_ModuleEvents_hb3 :
    (sraOf st_hb3.arg.w = none ∨ ∃ w off, sraOf st_hb3.arg.w = some (w, off) ∧ regDead st_hb3 w off = true) ∧ st_hb3.arg.words = [] :=
  by refine ⟨Or.inl ?_, ?_⟩ <;> decide +kernel
theorem witness_ModuleEvents_hb4 :
    (sraOf st_hb4.arg.w = none ∨ ∃ w off, sraOf st_hb4.arg.w = some (w, off) ∧ regDead st_hb4 w off = true) ∧ st_hb4.arg.words ≠ [] :=
  by refine ⟨Or.inl ?_, ?_⟩ <;> decide +kernel
theorem witness_ModuleEvents_hw1 :
    (sH rHr 2).net[(sH rHr 2).arg.n]? = some rHr ∧ vaG rHr.piece.va = false ∧ vaHome rHr.piece.va = 32 ∧
    earlierSame (sH rHr 2) (sH rHr 2).arg.n rHr = false ∧ relWaits (sH rHr 2) rHr = false ∧ (sH rHr 2).arg.data = none ∧
    rHr.src ≠ Src.outside ∧ rHr.part = none ∧ jobBit (sH rHr 2).sw.adphj rHr.jid = true ∧ rHr.piece.acc = AccOp.readRow 8 ∧
    addr rHr.piece.va % 2 ^ 50 % 8 = 0 ∧ 8 ≤ 8 ∧ addr rHr.piece.va % 2 ^ 50 + 8 ≤ (sH rHr 2).sw.hwsize :=
  by refine ⟨?_, ?_, ?_, ?_, ?_, ?_, (by intro e; cases e), ?_, ?_, ?_, ?_, ?_, ?_⟩ <;> decide +kernel
theorem witness_ModuleEvents_hw2 :
    (sH rHw 2).net[(sH rHw 2).arg.n]? = some rHw ∧ vaG rHw.piece.va = false ∧ vaHome rHw.piece.va = 32 ∧
    earlierSame (sH rHw 2) (sH rHw 2).arg.n rHw = false ∧ relWaits (sH rHw 2) rHw = false ∧ (sH rHw 2).arg.data = none ∧
    rHw.src ≠ Src.outside ∧ rHw.part = none ∧ jobBit (sH rHw 2).sw.adphj rHw.jid = true ∧ rHw.piece.acc = AccOp.writeRow [1, 2] ∧
    addr rHw.piece.va % 2 ^ 50 % 8 = 0 ∧ ([1, 2] : List Byte).length ≤ 8 ∧ addr rHw.piece.va % 2 ^ 50 + ([1, 2] : List Byte).length ≤ (sH rHw 2).sw.hwsize :=
  by refine ⟨?_, ?_, ?_, ?_, ?_, ?_, (by intro e; cases e), ?_, ?_, ?_, ?_, ?_, ?_⟩ <;> decide +kernel
theorem witness_ModuleEvents_hw3 :
    (sH (rHl 4092) 2).net[(sH (rHl 4092) 2).arg.n]? = some (rHl 4092) ∧ vaG (rHl 4092).piece.va = false ∧
    vaHome (rHl 4092).piece.va = 32 ∧ earlierSame (sH (rHl 4092) 2) (sH (rHl 4092) 2).arg.n (rHl 4092) = false ∧
    relWaits (sH (rHl 4092) 2) (rHl 4092) = false ∧ (sH (rHl 4092) 2).arg.data = none ∧ (rHl 4092).src ≠ Src.outside ∧
    (rHl 4092).part = none ∧ jobBit (sH (rHl 4092) 2).sw.adphj (rHl 4092).jid = true ∧
    (rHl 4092).piece.acc = AccOp.loads [(0, vaHost 4092, 4)] ∧ vaG (vaHost 4092) = false ∧
    addr (vaHost 4092) % 2 ^ 50 < (sH (rHl 4092) 2).sw.hwsize :=
  by refine ⟨?_, ?_, ?_, ?_, ?_, ?_, (by intro e; cases e), ?_, ?_, ?_, ?_, ?_⟩ <;> decide +kernel
theorem witness_ModuleEvents_hw4 :
    (sH (rHl 4096) 2).net[(sH (rHl 4096) 2).arg.n]? = some (rHl 4096) ∧ vaG (rHl 4096).piece.va = false ∧
    vaHome (rHl 4096).piece.va = 32 ∧ earlierSame (sH (rHl 4096) 2) (sH (rHl 4096) 2).arg.n (rHl 4096) = false ∧
    relWaits (sH (rHl 4096) 2) (rHl 4096) = false ∧ (sH (rHl 4096) 2).arg.data = none ∧ (rHl 4096).src ≠ Src.outside ∧
    (rHl 4096).part = none ∧ jobBit (sH (rHl 4096) 2).sw.adphj (rHl 4096).jid = true ∧
    (rHl 4096).piece.acc = AccOp.loads [(0, vaHost 4096, 4)] ∧ vaG (vaHost 4096) = false ∧
    (sH (rHl 4096) 2).sw.hwsize ≤ addr (vaHost 4096) % 2 ^ 50 :=
  by refine ⟨?_, ?_, ?_, ?_, ?_, ?_, (by intro e; cases e), ?_, ?_, ?_, ?_, ?_⟩ <;> decide +kernel
theorem witness_ModuleEvents_hw5 :
    (sH rHs 2).net[(sH rHs 2).arg.n]? = some rHs ∧ vaG rHs.piece.va = false ∧ vaHome rHs.piece.va = 32 ∧
    earlierSame (sH rHs 2) (sH rHs 2).arg.n rHs = false ∧ relWaits (sH rHs 2) rHs = false ∧ (sH rHs 2).arg.data = none ∧
    rHs.src ≠ Src.outside ∧ rHs.part = none ∧ jobBit (sH rHs 2).sw.adphj rHs.jid = true ∧
    rHs.piece.acc = AccOp.stores [(0, vaHost 4092, [1, 2, 3, 4])] ∧ vaG (vaHost 4092) = false ∧
    addr (vaHost 4092) % 2 ^ 50 < (sH rHs 2).sw.hwsize :=
  by refine ⟨?_, ?_, ?_, ?_, ?_, ?_, (by intro e; cases e), ?_, ?_, ?_, ?_, ?_⟩ <;> decide +kernel
theorem witness_ModuleEvents_hw6 :
    (sH rHr 0).net[(sH rHr 0).arg.n]? = some rHr ∧ vaG rHr.piece.va = false ∧ vaHome rHr.piece.va = 32 ∧
    earlierSame (sH rHr 0) (sH rHr 0).arg.n rHr = false ∧ relWaits (sH rHr 0) rHr = false ∧ (sH rHr 0).arg.data = none ∧
    rHr.src ≠ Src.outside ∧ rHr.part = none ∧ jobBit (sH rHr 0).sw.adphj rHr.jid = false ∧ rHr.isSys = false ∧
    ((rHr.piece.split (addr rHr.piece.va)).length ≤ 1 ∨ rHr.piece.isRow = false) :=
  by refine ⟨?_, ?_, ?_, ?_, ?_, ?_, (by intro e; cases e), ?_, ?_, ?_, ?_⟩ <;> decide +kernel
theorem witness_ModuleEvents_sn1 :
    (sSn none).net[(sSn none).arg.n]? = some rSn ∧ rSn.held = true ∧ rSn.loc = some (8, 4096, true) ∧ (sSn none).arg.data = none :=
  by decide +kernel
theorem witness_ModuleEvents_sn2 :
    (sSn (some bs64)).net[(sSn (some bs64)).arg.n]? = some rSn ∧ rSn.held = true ∧ rSn.loc = some (8, 4096, true) ∧
    (sSn (some bs64)).arg.data = some bs64 ∧ bs64.length = 64 :=
  by decide +kernel
theorem witness_ModuleEvents_sn3 :
    sSw.net.length ≤ sSw.arg.n ∧ sSw.sw.snoops[sSw.arg.n - sSw.net.length]? = some (8, 4096, false) ∧ sSw.arg.data = none :=
  by decide +kernel
theorem witness_ModuleEvents_x1 :
    ((sX false).group (sX false).arg.n).chain = [0] ∧ ((sX false).group (sX false).arg.n).conts = [(0, [5, 6], rX)] ∧
    ((sX false).group (sX false).arg.n).later = [] ∧ [5, 6] ≠ [] ∧ rX.src ≠ Src.outside ∧ rX.part = none ∧
    destGate (sX false) ((sX false).group (sX false).arg.n) = (sX false, true) ∧ (sX false).sw.snoops = [] ∧
    (sX false).lineDone = sX false ∧ ((sX false).group (sX false).arg.n).armed = true ∧ (sX false).dieState 0 ≠ 3 ∧
    [5, 6].length ≤ 16 ∧
    jobWrite (sX false) ((sX false).group (sX false).arg.n).jid (BitVec.ofNat 64 (addr ((sX false).group (sX false).arg.n).dest)) (List.flatMap (fun e => toBytes 4 e) [5, 6]) = Except.ok tX :=
  by refine ⟨?_, ?_, ?_, ?_, (by intro e; cases e), ?_, ?_, ?_, ?_, ?_, ?_, ?_, ok_of ?_⟩ <;> decide +kernel
theorem witness_ModuleEvents_x2 :
    ((sX true).group (sX true).arg.n).chain = [0] ∧ ((sX true).group (sX true).arg.n).conts = [(0, [5, 6], rX)] ∧
    ((sX true).group (sX true).arg.n).later = [] ∧ [5, 6] ≠ [] ∧ rX.src ≠ Src.outside ∧ rX.part = none ∧
    destGate (sX true) ((sX true).group (sX true).arg.n) = (sX true, true) ∧ (sX true).sw.snoops = [] ∧
    (sX true).lineDone = sX true ∧ (sX true).dieState 0 = 3 :=
  by refine ⟨?_, ?_, ?_, ?_, (by intro e; cases e), ?_, ?_, ?_, ?_, ?_⟩ <;> decide +kernel
def rHr2 : Req := rH (.readRow 16) 0x20
theorem witness_ModuleEvents_rgw2 :
    sraOf st_rgw2.arg.w = some (RegWin.sw, 39184) ∧ regDead st_rgw2 RegWin.sw 39184 = false ∧
    (RegWin.sw, 39184) ≠ (RegWin.sw, 39168) :=
  by decide +kernel
theorem witness_ModuleEvents_hd1 :
    st_hd1.sw.hdm = [] ∧ field (st_hd1.sw.adpap.getD (nbits st_hd1.arg.n 40 2) 0) 0 1 = 1 ∧
    ownerWaits st_hd1 st_hd1.sw.adpjid (BitVec.ofNat 64 (field (st_hd1.sw.adpap.getD (nbits st_hd1.arg.n 40 2) 0) 40 17 * 2 ^ 40 + st_hd1.arg.n % 2 ^ 40)) = false ∧
    st_hd1.arg.data = none ∧
    tlbLocate st_hd1 st_hd1.sw.adpjid (BitVec.ofNat 64 (field (st_hd1.sw.adpap.getD (nbits st_hd1.arg.n 40 2) 0) 40 17 * 2 ^ 40 + st_hd1.arg.n % 2 ^ 40)) Need.r = (Except.ok (Spot.dram 8 4096), st_hd1) ∧
    st_hd1.lineHeld 8 4096 (min st_hd1.arg.k (64 - st_hd1.arg.n % 64)) = false ∧
    st_hd1.lineTake 2 8 4096 (min st_hd1.arg.k (64 - st_hd1.arg.n % 64)) = st_hd1 ∧ st_hd1.abBad 8 4096 = false :=
  by refine ⟨?_, ?_, ?_, ?_, Prod.ext (ok_of ?_) ?_, ?_, ?_, ?_⟩ <;> decide +kernel
theorem witness_ModuleEvents_hd2 :
    st_hd2.sw.hdm = [] ∧ field (st_hd2.sw.adpap.getD (nbits st_hd2.arg.n 40 2) 0) 0 1 = 1 ∧
    ownerWaits st_hd2 st_hd2.sw.adpjid (BitVec.ofNat 64 (field (st_hd2.sw.adpap.getD (nbits st_hd2.arg.n 40 2) 0) 40 17 * 2 ^ 40 + st_hd2.arg.n % 2 ^ 40)) = false ∧
    st_hd2.arg.data = some [1, 2, 3, 4, 5, 6] ∧
    tlbLocate st_hd2 st_hd2.sw.adpjid (BitVec.ofNat 64 (field (st_hd2.sw.adpap.getD (nbits st_hd2.arg.n 40 2) 0) 40 17 * 2 ^ 40 + st_hd2.arg.n % 2 ^ 40)) Need.w = (Except.ok (Spot.dram 8 4156), st_hd2) ∧
    st_hd2.lineHeld 8 4156 (min ([1, 2, 3, 4, 5, 6] : List Byte).length (64 - st_hd2.arg.n % 64)) = false ∧
    st_hd2.lineTake 2 8 4156 (min ([1, 2, 3, 4, 5, 6] : List Byte).length (64 - st_hd2.arg.n % 64)) = st_hd2 :=
  by refine ⟨?_, ?_, ?_, ?_, Prod.ext (ok_of ?_) ?_, ?_, ?_⟩ <;> decide +kernel
theorem witness_ModuleEvents_hw0 :
    (sH rHr2 0).net[(sH rHr2 0).arg.n]? = some rHr2 ∧ vaG rHr2.piece.va = false ∧ vaHome rHr2.piece.va = 32 ∧
    earlierSame (sH rHr2 0) (sH rHr2 0).arg.n rHr2 = false ∧ relWaits (sH rHr2 0) rHr2 = false ∧ (sH rHr2 0).arg.data = none ∧
    rHr2.src ≠ Src.outside ∧ rHr2.part = none ∧
    ((rHr2.piece.acc = AccOp.readRow 16 ∧ (fun j => AccOp.readRow (min 8 (16 - 8 * j))) = fun j => AccOp.readRow (min 8 (16 - 8 * j))) ∨ ∃ bs, rHr2.piece.acc = AccOp.writeRow bs ∧ 16 = bs.length ∧ (fun j => AccOp.readRow (min 8 (16 - 8 * j))) = fun j => AccOp.writeRow (List.take 8 (List.drop (8 * j) bs))) ∧
    addr rHr2.piece.va % 2 ^ 50 % 8 = 0 ∧ 8 < 16 :=
  by refine ⟨?_, ?_, ?_, ?_, ?_, ?_, (by intro e; cases e), ?_, Or.inl ⟨?_, rfl⟩, ?_, ?_⟩ <;> decide +kernel

end Modules

/-! ## Channels -/

namespace Channels

def sB (a : Args := {}) (g : Switch → Switch := id) (c : Nat := 5) : State := { (world placedFiring).onSw g with issuing := none, arg := a, clk := c }
theorem witness_ChannelsAndFirmware_b1 : sB.sw.trained = false := by decide +kernel
def st_b3 : State := sB { die := 11 }
theorem witness_ChannelsAndFirmware_b3 :
    st_b3.arg.die < 12 ∧ st_b3.dieState st_b3.arg.die = 0 ∧ (st_b3.heat st_b3.arg.die).off = false ∧ st_b3.switchRuns = true ∧
    (st_b3.fw st_b3.arg.die).state = 0 :=
  by decide +kernel
def st_at1 : State := sB { w := 0x10 }
def st_at2 : State := sB { w := 0x11 }
def st_at3 : State := sB { w := 0x11 } fun w => { w with cert := [1], attleaf := 32768 }
def st_at1b : State := sB { w := 0x11 } fun w => { w with attrep := some (1, 64, [7]) }
def st_at4 : State := sB { w := 0x11 } fun w => { w with cert := [1], attdst := 32 }
def st_at5 : State := sB { w := 0x11 } fun w => { w with cert := [1], attdst := 64 }
def sP (p : PChan) (c : Nat := 9360) : State := { sB { die := 8, n := 255 } id c with md := [(8, { lt := [(0, lease0)], pcs := [(254, { next := 99999 }), (255, p)] })] }
def st_rf1 : State := sP { debt := 8 }
def st_rf2 : State := sP { debt := 8 } 9359
def st_rf3 : State := sP { debt := 7 } 18719
def st_rf4 : State := { sP {} 18719 with md := [(8, { glintv := 0, pcs := [(254, { debt := -8 }), (255, { debt := -8, dem := [(3, 4)] })] })] }
def st_rf5 : State := { sP {} 9362 with md := [(8, { glintv := 0, pcs := [(254, { debt := -8 }), (255, { debt := -8 })] })] }
def st_cc1 : State := sP { debt := 8, owed := [(3, 4)] } 5
def st_cc2 : State := sP { debt := 7, owed := [(3, 4)], dem := [(3, 4)] } 5
def st_cc3 : State := sP { openr := [(3, 4)], dem := [(3, 4)], warm := true }
def st_cc3b : State := sP { openr := [(3, 4)], dem := [(3, 4)], warm := true, policy := [(65536 * 3 + 4, 1), (3, 1), (196612, 0)] }
def st_cc4 : State := sP { dem := [(3, 4)] }
def st_cc5 : State := sP { dem := [(3, 4)], counts := [(65536 * 3 + 4, 1023)] }
def sG (ue ce : List Nat) : State := { sP { glnext := 2 ^ 60 } 0 with md := [(8, { ue := ue, ce := ce, pcs := [(254, { debt := -8 }), (255, { glnext := 1, debt := -8 })] })] }
def a0 : Acct := { jid := 1, active := true, credit := 7 }
def sW (c : Nat) : State := { (idle.onTile 0 fun x => { x with bwlast := 1024, accts := [(5, a0)] }) with clk := c }
theorem witness_ChannelsAndFirmware_bw1 :
    ((sW 2048).tile (sW 2048).arg.tile).accts = [(5, a0)] ∧ a0.active = true ∧
    ((sW 2048).tile (sW 2048).arg.tile).bwlast < (sW 2048).clk / 1024 * 1024 :=
  by decide +kernel
theorem witness_ChannelsAndFirmware_bw2 : (sW 2047).clk / 1024 * 1024 ≤ ((sW 2047).tile (sW 2047).arg.tile).bwlast := by decide +kernel
theorem witness_ChannelsAndFirmware_at1 :
    (field st_at1.arg.w 0 1 = 0 ∨ st_at1.sw.attrep ≠ none) :=
  by decide +kernel
theorem witness_ChannelsAndFirmware_at1b :
    (field st_at1b.arg.w 0 1 = 0 ∨ st_at1b.sw.attrep ≠ none) :=
  by decide +kernel
theorem witness_ChannelsAndFirmware_at2 :
    field st_at2.arg.w 0 1 = 1 ∧ st_at2.sw.attrep = none ∧ st_at2.sw.cert = [] :=
  by decide +kernel
theorem witness_ChannelsAndFirmware_at3 :
    field st_at3.arg.w 0 1 = 1 ∧ st_at3.sw.attrep = none ∧ st_at3.sw.cert ≠ [] ∧ 32768 ≤ st_at3.sw.attleaf :=
  by decide +kernel
theorem witness_ChannelsAndFirmware_at4 :
    field st_at4.arg.w 0 1 = 1 ∧ st_at4.sw.attrep = none ∧ st_at4.sw.cert ≠ [] ∧ st_at4.sw.attleaf < 32768 ∧
    st_at4.sw.attdst % 64 ≠ 0 :=
  by decide +kernel
theorem witness_ChannelsAndFirmware_at5 :
    field st_at5.arg.w 0 1 = 1 ∧ st_at5.sw.attrep = none ∧ st_at5.sw.cert ≠ [] ∧ st_at5.sw.attleaf < 32768 :=
  by decide +kernel
theorem witness_ChannelsAndFirmware_cc1 :
    (8 ≤ st_cc1.arg.die ∧ st_cc1.arg.die < 12 ∧ st_cc1.arg.n < 256 ∧ st_cc1.dieUp st_cc1.arg.die = true) ∧
    (st_cc1.pcNow st_cc1.arg.die st_cc1.arg.n).next ≤ st_cc1.clk ∧
    (st_cc1.pcNow st_cc1.arg.die (twin st_cc1.arg.n)).wants st_cc1.clk = none ∧
    (st_cc1.pcNow st_cc1.arg.die st_cc1.arg.n).busR ≠ st_cc1.clk + 1 ∧
    (st_cc1.pcNow st_cc1.arg.die st_cc1.arg.n).busC ≠ st_cc1.clk + 1 ∧
    (st_cc1.pcNow st_cc1.arg.die (twin st_cc1.arg.n)).busR ≠ st_cc1.clk + 1 ∧
    (st_cc1.pcNow st_cc1.arg.die (twin st_cc1.arg.n)).busC ≠ st_cc1.clk + 1 ∧
    ((st_cc1.pcNow st_cc1.arg.die st_cc1.arg.n).warm = false ∨ (st_cc1.pcNow st_cc1.arg.die st_cc1.arg.n).dem = []) ∧
    (st_cc1.pcNow st_cc1.arg.die st_cc1.arg.n).debt = 8 :=
  by decide +kernel
theorem witness_ChannelsAndFirmware_cc2 :
    (8 ≤ st_cc2.arg.die ∧ st_cc2.arg.die < 12 ∧ st_cc2.arg.n < 256 ∧ st_cc2.dieUp st_cc2.arg.die = true) ∧
    (st_cc2.pcNow st_cc2.arg.die st_cc2.arg.n).next ≤ st_cc2.clk ∧
    (st_cc2.pcNow st_cc2.arg.die (twin st_cc2.arg.n)).wants st_cc2.clk = none ∧
    (st_cc2.pcNow st_cc2.arg.die st_cc2.arg.n).busR ≠ st_cc2.clk + 1 ∧
    (st_cc2.pcNow st_cc2.arg.die st_cc2.arg.n).busC ≠ st_cc2.clk + 1 ∧
    (st_cc2.pcNow st_cc2.arg.die (twin st_cc2.arg.n)).busR ≠ st_cc2.clk + 1 ∧
    (st_cc2.pcNow st_cc2.arg.die (twin st_cc2.arg.n)).busC ≠ st_cc2.clk + 1 ∧
    ((st_cc2.pcNow st_cc2.arg.die st_cc2.arg.n).warm = false ∨ (st_cc2.pcNow st_cc2.arg.die st_cc2.arg.n).dem = []) ∧
    (st_cc2.pcNow st_cc2.arg.die st_cc2.arg.n).debt ≠ 8 ∧ (st_cc2.pcNow st_cc2.arg.die st_cc2.arg.n).owed = [(3, 4)] :=
  by decide +kernel
theorem witness_ChannelsAndFirmware_cc3 :
    (8 ≤ st_cc3.arg.die ∧ st_cc3.arg.die < 12 ∧ st_cc3.arg.n < 256 ∧ st_cc3.dieUp st_cc3.arg.die = true) ∧
    (st_cc3.pcNow st_cc3.arg.die st_cc3.arg.n).next ≤ st_cc3.clk ∧
    (st_cc3.pcNow st_cc3.arg.die (twin st_cc3.arg.n)).wants st_cc3.clk = none ∧
    (st_cc3.pcNow st_cc3.arg.die st_cc3.arg.n).busR ≠ st_cc3.clk + 1 ∧
    (st_cc3.pcNow st_cc3.arg.die st_cc3.arg.n).busC ≠ st_cc3.clk + 1 ∧
    (st_cc3.pcNow st_cc3.arg.die (twin st_cc3.arg.n)).busR ≠ st_cc3.clk + 1 ∧
    (st_cc3.pcNow st_cc3.arg.die (twin st_cc3.arg.n)).busC ≠ st_cc3.clk + 1 ∧
    (st_cc3.pcNow st_cc3.arg.die st_cc3.arg.n).dem = [(3, 4)] ∧
    ((st_cc3.pcNow st_cc3.arg.die st_cc3.arg.n).warm = true ∨ (st_cc3.pcNow st_cc3.arg.die st_cc3.arg.n).debt ≠ 8 ∧ (st_cc3.pcNow st_cc3.arg.die st_cc3.arg.n).owed = [] ∧ (st_cc3.pcNow st_cc3.arg.die st_cc3.arg.n).openr.get? 3 = some 4) :=
  by decide +kernel
theorem witness_ChannelsAndFirmware_cc3b :
    (8 ≤ st_cc3b.arg.die ∧ st_cc3b.arg.die < 12 ∧ st_cc3b.arg.n < 256 ∧ st_cc3b.dieUp st_cc3b.arg.die = true) ∧
    (st_cc3b.pcNow st_cc3b.arg.die st_cc3b.arg.n).next ≤ st_cc3b.clk ∧
    (st_cc3b.pcNow st_cc3b.arg.die (twin st_cc3b.arg.n)).wants st_cc3b.clk = none ∧
    (st_cc3b.pcNow st_cc3b.arg.die st_cc3b.arg.n).busR ≠ st_cc3b.clk + 1 ∧
    (st_cc3b.pcNow st_cc3b.arg.die st_cc3b.arg.n).busC ≠ st_cc3b.clk + 1 ∧
    (st_cc3b.pcNow st_cc3b.arg.die (twin st_cc3b.arg.n)).busR ≠ st_cc3b.clk + 1 ∧
    (st_cc3b.pcNow st_cc3b.arg.die (twin st_cc3b.arg.n)).busC ≠ st_cc3b.clk + 1 ∧
    (st_cc3b.pcNow st_cc3b.arg.die st_cc3b.arg.n).dem = [(3, 4)] ∧
    ((st_cc3b.pcNow st_cc3b.arg.die st_cc3b.arg.n).warm = true ∨ (st_cc3b.pcNow st_cc3b.arg.die st_cc3b.arg.n).debt ≠ 8 ∧ (st_cc3b.pcNow st_cc3b.arg.die st_cc3b.arg.n).owed = [] ∧ (st_cc3b.pcNow st_cc3b.arg.die st_cc3b.arg.n).openr.get? 3 = some 4) :=
  by decide +kernel
theorem witness_ChannelsAndFirmware_cc4 :
    (8 ≤ st_cc4.arg.die ∧ st_cc4.arg.die < 12 ∧ st_cc4.arg.n < 256 ∧ st_cc4.dieUp st_cc4.arg.die = true) ∧
    (st_cc4.pcNow st_cc4.arg.die st_cc4.arg.n).next ≤ st_cc4.clk ∧
    (st_cc4.pcNow st_cc4.arg.die (twin st_cc4.arg.n)).wants st_cc4.clk = none ∧
    (st_cc4.pcNow st_cc4.arg.die st_cc4.arg.n).busR ≠ st_cc4.clk + 1 ∧
    (st_cc4.pcNow st_cc4.arg.die st_cc4.arg.n).busC ≠ st_cc4.clk + 1 ∧
    (st_cc4.pcNow st_cc4.arg.die (twin st_cc4.arg.n)).busR ≠ st_cc4.clk + 1 ∧
    (st_cc4.pcNow st_cc4.arg.die (twin st_cc4.arg.n)).busC ≠ st_cc4.clk + 1 ∧
    (st_cc4.pcNow st_cc4.arg.die st_cc4.arg.n).warm = false ∧ (st_cc4.pcNow st_cc4.arg.die st_cc4.arg.n).debt ≠ 8 ∧
    (st_cc4.pcNow st_cc4.arg.die st_cc4.arg.n).owed = [] ∧ (st_cc4.pcNow st_cc4.arg.die st_cc4.arg.n).dem = [(3, 4)] ∧
    (st_cc4.pcNow st_cc4.arg.die st_cc4.arg.n).openr.get? 3 ≠ some 4 :=
  by decide +kernel
theorem witness_ChannelsAndFirmware_cc5 :
    (8 ≤ st_cc5.arg.die ∧ st_cc5.arg.die < 12 ∧ st_cc5.arg.n < 256 ∧ st_cc5.dieUp st_cc5.arg.die = true) ∧
    (st_cc5.pcNow st_cc5.arg.die st_cc5.arg.n).next ≤ st_cc5.clk ∧
    (st_cc5.pcNow st_cc5.arg.die (twin st_cc5.arg.n)).wants st_cc5.clk = none ∧
    (st_cc5.pcNow st_cc5.arg.die st_cc5.arg.n).busR ≠ st_cc5.clk + 1 ∧
    (st_cc5.pcNow st_cc5.arg.die st_cc5.arg.n).busC ≠ st_cc5.clk + 1 ∧
    (st_cc5.pcNow st_cc5.arg.die (twin st_cc5.arg.n)).busR ≠ st_cc5.clk + 1 ∧
    (st_cc5.pcNow st_cc5.arg.die (twin st_cc5.arg.n)).busC ≠ st_cc5.clk + 1 ∧
    (st_cc5.pcNow st_cc5.arg.die st_cc5.arg.n).warm = false ∧ (st_cc5.pcNow st_cc5.arg.die st_cc5.arg.n).debt ≠ 8 ∧
    (st_cc5.pcNow st_cc5.arg.die st_cc5.arg.n).owed = [] ∧ (st_cc5.pcNow st_cc5.arg.die st_cc5.arg.n).dem = [(3, 4)] ∧
    (st_cc5.pcNow st_cc5.arg.die st_cc5.arg.n).openr.get? 3 ≠ some 4 :=
  by decide +kernel
theorem witness_ChannelsAndFirmware_gl1 :
    (8 ≤ (sG [pcGranule 255 1] []).arg.die ∧ (sG [pcGranule 255 1] []).arg.die < 12 ∧ (sG [pcGranule 255 1] []).arg.n < 256 ∧ (sG [pcGranule 255 1] []).dieUp (sG [pcGranule 255 1] []).arg.die = true) ∧
    ((sG [pcGranule 255 1] []).mdie (sG [pcGranule 255 1] []).arg.die).glintv ≠ 0 ∧
    16 * (sG [pcGranule 255 1] []).capOf (sG [pcGranule 255 1] []).arg.die ≠ 0 ∧
    max ((sG [pcGranule 255 1] []).pcNow (sG [pcGranule 255 1] []).arg.die (sG [pcGranule 255 1] []).arg.n).gldue ((sG [pcGranule 255 1] []).mdie (sG [pcGranule 255 1] []).arg.die).rbase ≤ (sG [pcGranule 255 1] []).clk ∧
    gleanerTurn (sG [pcGranule 255 1] []) (sG [pcGranule 255 1] []).arg.die (sG [pcGranule 255 1] []).arg.n = true ∧
    pcGranule (sG [pcGranule 255 1] []).arg.n (((sG [pcGranule 255 1] []).pcNow (sG [pcGranule 255 1] []).arg.die (sG [pcGranule 255 1] []).arg.n).glnext % (16 * (sG [pcGranule 255 1] []).capOf (sG [pcGranule 255 1] []).arg.die)) ∈ ((sG [pcGranule 255 1] []).mdie (sG [pcGranule 255 1] []).arg.die).ue :=
  by decide +kernel
theorem witness_ChannelsAndFirmware_gl2 :
    (8 ≤ (sG [] [pcGranule 255 1]).arg.die ∧ (sG [] [pcGranule 255 1]).arg.die < 12 ∧ (sG [] [pcGranule 255 1]).arg.n < 256 ∧ (sG [] [pcGranule 255 1]).dieUp (sG [] [pcGranule 255 1]).arg.die = true) ∧
    ((sG [] [pcGranule 255 1]).mdie (sG [] [pcGranule 255 1]).arg.die).glintv ≠ 0 ∧
    16 * (sG [] [pcGranule 255 1]).capOf (sG [] [pcGranule 255 1]).arg.die ≠ 0 ∧
    max ((sG [] [pcGranule 255 1]).pcNow (sG [] [pcGranule 255 1]).arg.die (sG [] [pcGranule 255 1]).arg.n).gldue ((sG [] [pcGranule 255 1]).mdie (sG [] [pcGranule 255 1]).arg.die).rbase ≤ (sG [] [pcGranule 255 1]).clk ∧
    gleanerTurn (sG [] [pcGranule 255 1]) (sG [] [pcGranule 255 1]).arg.die (sG [] [pcGranule 255 1]).arg.n = true ∧
    (¬pcGranule (sG [] [pcGranule 255 1]).arg.n (((sG [] [pcGranule 255 1]).pcNow (sG [] [pcGranule 255 1]).arg.die (sG [] [pcGranule 255 1]).arg.n).glnext % (16 * (sG [] [pcGranule 255 1]).capOf (sG [] [pcGranule 255 1]).arg.die)) ∈ ((sG [] [pcGranule 255 1]).mdie (sG [] [pcGranule 255 1]).arg.die).ue) ∧
    pcGranule (sG [] [pcGranule 255 1]).arg.n (((sG [] [pcGranule 255 1]).pcNow (sG [] [pcGranule 255 1]).arg.die (sG [] [pcGranule 255 1]).arg.n).glnext % (16 * (sG [] [pcGranule 255 1]).capOf (sG [] [pcGranule 255 1]).arg.die)) ∈ ((sG [] [pcGranule 255 1]).mdie (sG [] [pcGranule 255 1]).arg.die).ce :=
  by decide +kernel
theorem witness_ChannelsAndFirmware_gl3 :
    (8 ≤ (sG [] []).arg.die ∧ (sG [] []).arg.die < 12 ∧ (sG [] []).arg.n < 256 ∧ (sG [] []).dieUp (sG [] []).arg.die = true) ∧
    ((sG [] []).mdie (sG [] []).arg.die).glintv ≠ 0 ∧ 16 * (sG [] []).capOf (sG [] []).arg.die ≠ 0 ∧
    max ((sG [] []).pcNow (sG [] []).arg.die (sG [] []).arg.n).gldue ((sG [] []).mdie (sG [] []).arg.die).rbase ≤ (sG [] []).clk ∧
    gleanerTurn (sG [] []) (sG [] []).arg.die (sG [] []).arg.n = true ∧
    (¬pcGranule (sG [] []).arg.n (((sG [] []).pcNow (sG [] []).arg.die (sG [] []).arg.n).glnext % (16 * (sG [] []).capOf (sG [] []).arg.die)) ∈ ((sG [] []).mdie (sG [] []).arg.die).ue) ∧
    (¬pcGranule (sG [] []).arg.n (((sG [] []).pcNow (sG [] []).arg.die (sG [] []).arg.n).glnext % (16 * (sG [] []).capOf (sG [] []).arg.die)) ∈ ((sG [] []).mdie (sG [] []).arg.die).ce) :=
  by decide +kernel
def st_b4 : State := sB { die := 11 } fun w => { w with boot := (11, { state := 1 }) :: w.boot }
theorem witness_ChannelsAndFirmware_b4 :
    st_b4.arg.die < 12 ∧ st_b4.dieState st_b4.arg.die = 0 ∧ (st_b4.heat st_b4.arg.die).off = false ∧ st_b4.switchRuns = true ∧
    (st_b4.fw st_b4.arg.die).state = 1 :=
  by decide +kernel
theorem witness_ChannelsAndFirmware_rf4 :
    (8 ≤ st_rf4.arg.die ∧ st_rf4.arg.die < 12 ∧ st_rf4.arg.n < 256 ∧ st_rf4.dieUp st_rf4.arg.die = true) ∧
    (st_rf4.mdie st_rf4.arg.die).glintv = 0 ∧
    ((st_rf4.mdie st_rf4.arg.die).pc st_rf4.arg.n).dem = (3, 4) :: ((st_rf4.mdie st_rf4.arg.die).pc st_rf4.arg.n).dem.tail :=
  by decide +kernel
theorem witness_ChannelsAndFirmware_rf5 :
    (8 ≤ st_rf5.arg.die ∧ st_rf5.arg.die < 12 ∧ st_rf5.arg.n < 256 ∧ st_rf5.dieUp st_rf5.arg.die = true) ∧
    (st_rf5.mdie st_rf5.arg.die).glintv = 0 ∧ ((st_rf5.mdie st_rf5.arg.die).pc st_rf5.arg.n).dem = [] ∧
    ((st_rf5.mdie st_rf5.arg.die).pc st_rf5.arg.n).owed = [] ∧ ((st_rf5.mdie st_rf5.arg.die).pc st_rf5.arg.n).debt = -8 ∧
    ((st_rf5.mdie st_rf5.arg.die).pc (twin st_rf5.arg.n)).dem = [] ∧
    ((st_rf5.mdie st_rf5.arg.die).pc (twin st_rf5.arg.n)).owed = [] ∧
    ((st_rf5.mdie st_rf5.arg.die).pc (twin st_rf5.arg.n)).debt = -8 ∧
    max ((st_rf5.mdie st_rf5.arg.die).pc (twin st_rf5.arg.n)).refdue (st_rf5.mdie st_rf5.arg.die).rbase = max ((st_rf5.mdie st_rf5.arg.die).pc st_rf5.arg.n).refdue (st_rf5.mdie st_rf5.arg.die).rbase ∧
    ((st_rf5.mdie st_rf5.arg.die).pc st_rf5.arg.n).next ≤ max ((st_rf5.mdie st_rf5.arg.die).pc st_rf5.arg.n).refdue (st_rf5.mdie st_rf5.arg.die).rbase + 9360 ∧
    ((st_rf5.mdie st_rf5.arg.die).pc (twin st_rf5.arg.n)).next ≤ max ((st_rf5.mdie st_rf5.arg.die).pc st_rf5.arg.n).refdue (st_rf5.mdie st_rf5.arg.die).rbase + 9360 ∧
    ((st_rf5.mdie st_rf5.arg.die).pc st_rf5.arg.n).busR ≤ max ((st_rf5.mdie st_rf5.arg.die).pc st_rf5.arg.n).refdue (st_rf5.mdie st_rf5.arg.die).rbase ∧
    ((st_rf5.mdie st_rf5.arg.die).pc st_rf5.arg.n).busC ≤ max ((st_rf5.mdie st_rf5.arg.die).pc st_rf5.arg.n).refdue (st_rf5.mdie st_rf5.arg.die).rbase ∧
    ((st_rf5.mdie st_rf5.arg.die).pc (twin st_rf5.arg.n)).busR ≤ max ((st_rf5.mdie st_rf5.arg.die).pc st_rf5.arg.n).refdue (st_rf5.mdie st_rf5.arg.die).rbase ∧
    ((st_rf5.mdie st_rf5.arg.die).pc (twin st_rf5.arg.n)).busC ≤ max ((st_rf5.mdie st_rf5.arg.die).pc st_rf5.arg.n).refdue (st_rf5.mdie st_rf5.arg.die).rbase ∧
    max ((st_rf5.mdie st_rf5.arg.die).pc st_rf5.arg.n).refdue (st_rf5.mdie st_rf5.arg.die).rbase + 9361 < st_rf5.clk ∧
    st_rf5.clk < max ((st_rf5.mdie st_rf5.arg.die).pc st_rf5.arg.n).refdue (st_rf5.mdie st_rf5.arg.die).rbase + 2 * 9360 :=
  by decide +kernel

end Channels

/-! ## Well-formed words (R53): an ill-formed term for each check -/

/-- ADD.i32 of two tokens. -/
def addF : Fields := { fld 0 .i32 0 with d1 := none }
theorem test_wf_good : (Instr.add addF).wf = true := by decide +kernel
theorem test_wf_op : wordFault 0x2D addF = some .op := by decide +kernel
theorem test_wf_sub : (Instr.add { addF with sub := 1 }).wf = false ∧ wordFault 0x10 { addF with sub := 1 } = some .sub := by decide +kernel
theorem test_wf_ty : (Instr.add { addF with ty := .f32 }).wf = false ∧ wordFault 0x10 { addF with ty := .f32 } = some .ty := by decide +kernel
theorem test_wf_arkc : (Instr.add { addF with ar := 3 }).wf = false ∧ wordFault 0x10 { addF with ar := 3 } = some .arkc := by decide +kernel
theorem test_wf_sl : (Instr.abs { addF with ar := 1, sl := 1 }).wf = false ∧ wordFault 0x19 { addF with ar := 1, sl := 1 } = some .sl := by
  decide +kernel
theorem test_wf_ck : (Instr.add { addF with ck := 1 }).wf = false ∧ wordFault 0x10 { addF with ck := 1 } = some .ck := by decide +kernel
theorem test_wf_d0 : (Instr.sendRet { addF with sub := 1, ar := 1 }).wf = false
    ∧ wordFault 0x06 { addF with sub := 1, ar := 1 } = some .d0 := by decide +kernel
theorem test_wf_iter : wordFault 0x09 { addF with d0 := none } = some .d0 := by decide +kernel
theorem test_wf_port : wordFault 0x10 { addF with d0 := some { ix := 5, port := 3 } } = some .d0 := by decide +kernel
theorem test_wf_d1 : (Instr.merge { addF with d1 := addF.d0 }).wf = false
    ∧ wordFault 0x05 { addF with d1 := addF.d0 } = some .d1 := by decide +kernel
theorem test_wf_x : (Instr.add { addF with x := 1 }).wf = false ∧ wordFault 0x10 { addF with x := 1 } = some .x := by decide +kernel
/-- R50: V = 0 with an index is no destination. -/
theorem test_dest_bits : decode 0x1003800001000000 = .error .d0 := ex_err (by decide +kernel)
/-- R52: an opcode that is not assigned. -/
theorem test_no_op : decode 0xFF00000000000000 = .error .op := ex_err (by decide +kernel)

/-! ## The manual's worked examples -/

/-- The value on a port of the tokens that a firing of one lane leaves in the lane unit of tile 0, by destination. -/
def left (i : Instr) (ops : List Word) (port : Nat) : Option Payload :=
  match exec i (at0 (firing (ops.map fun v => [.scal v]))) with
  | .next t => (((t.tile 0).laneOut.headD []).find? fun k => k.port == port).map (·.pay)
  | _ => none
/-- The table after R151. -/
theorem test_div : left (.div (fld 0 .i32 0)) [0xFFFFFFF9, 2] 0 = some (.scalar 0xFFFFFFFFFFFFFFFD) := by decide +kernel
theorem test_rem : left (.rem (fld 0 .i32 0)) [0xFFFFFFF9, 2] 0 = some (.scalar 0xFFFFFFFFFFFFFFFF) := by decide +kernel
theorem test_div_edge : left (.div (fld 0 .i32 0)) [0x80000000, 0xFFFFFFFF] 0 = some (.scalar 0xFFFFFFFF80000000) := by decide +kernel
theorem test_rem_edge : left (.rem (fld 0 .i32 0)) [0x80000000, 0xFFFFFFFF] 0 = some (.scalar 0) := by decide +kernel
theorem test_mulh : left (.mulh (fld 0 .i32 0)) [0xFFFFFFFE, 3] 0 = some (.scalar 0xFFFFFFFFFFFFFFFF) := by decide +kernel
theorem test_addx_c : left (.addx (fld 0 .n8 0 3)) [200, 100, 1] 0 = some (.scalar 0x2D)
    ∧ left (.addx (fld 0 .n8 0 3)) [200, 100, 1] 1 = some (.scalar 1) := by decide +kernel
theorem test_addx_s : left (.addx (fld 1 .i8 0)) [100, 50] 0 = some (.scalar 0x7F)
    ∧ left (.addx (fld 1 .i8 0)) [100, 50] 1 = some (.scalar 1) := by decide +kernel
theorem test_clz : left (.clz (fld 0 .n32 0 1)) [0] 0 = some (.scalar 0x20) := by decide +kernel
theorem test_brev : left (.brev (fld 0 .n8 0 1)) [1] 0 = some (.scalar 0x80) := by decide +kernel
/-- The table of encodings of -3.25 in the chapter on number formats, f32 given, and the two examples after it (R89). -/
theorem test_formats :
    [2, 3, 4, 5, 6, 7, 8].map (fun x => left (.cvtff (fld 0 .f32 x 1)) [0xC0500000] 0)
      = [0xC050, 0xC280, 0xC5, 0xC2, 0x32, 0x35, 0xD].map (fun v => some (.scalar v)) := by decide +kernel
theorem test_formats_saturate : [4, 5].map (fun x => left (.cvtff (fld 0 .f32 x 1)) [0x43FA0000] 0)
    = [0x7E, 0x60].map (fun v => some (.scalar v)) := by decide +kernel
/-- R159: 1 by -0, 0 by 0, the roots of -0 and of -1. -/
theorem test_fdiv : left (.fdiv (fld 0 .f32 0)) [0x3F800000, 0x80000000] 0 = some (.scalar 0xFF800000)
    ∧ left (.fdiv (fld 0 .f32 0)) [0, 0] 0 = some (.scalar 0x7FC00000) := by decide +kernel
theorem test_fsqrt : left (.fsqrt (fld 0 .f32 0 1)) [0x80000000] 0 = some (.scalar 0x80000000)
    ∧ left (.fsqrt (fld 0 .f32 0 1)) [0xBF800000] 0 = some (.scalar 0x7FC00000) := by decide +kernel
/-- The table of R160. -/
theorem test_rcpa : left (.rcpa (fld 0 .f32 0 1)) [0x80000000] 0 = some (.scalar 0xFF800000)
    ∧ left (.rcpa (fld 0 .f32 0 1)) [0xFF800000] 0 = some (.scalar 0x80000000) := by decide +kernel
theorem test_expa : left (.expa (fld 0 .f32 0 1)) [0] 0 = some (.scalar 0x3F800000)
    ∧ left (.expa (fld 0 .f32 0 1)) [0xFF800000] 0 = some (.scalar 0) := by decide +kernel

/-! ## Statements of the whole machine -/

/-- The word of ADD.i32 of two tokens to port 0 of instruction 1, and the machine about to run it. -/
def addWord : Nat := 0x1003800081000000
/-- The instruction. -/
def addOne : Instr := .add { addF with d0 := some { ix := 1, port := 0 } }
theorem witness_StepRunsInstruction_issued :
    (idle.withFetchWord 64 addWord).detected = [] ∧ (idle.withFetchWord 64 addWord).issuing = some placedFiring
    ∧ (idle.withFetchWord 64 addWord).blockOf placedFiring = some (placedBlock addWord)
    ∧ (placedBlock addWord).words[placedFiring.ix]? = some (w64 addWord) ∧ decode (w64 addWord) = .ok addOne :=
  by refine ⟨?_, ?_, ?_, ?_, ex_ok ?_⟩ <;> decide +kernel
theorem witness_StepRunsInstruction_detected : { idle with detected := [Faults.flt 0] }.detected ≠ [] := by decide
/-- A machine whose next happening is a lane issue of tile 0. -/
def offS (e : Instr) : State := { idle with sw := { sw0 with powered := false }, agenda := [{ dt := 1, ev := e, arg := { tile := 0 } }] }
def agendaS : State := { idle with agenda := [{ dt := 1, ev := .readyQueueIssue, arg := { tile := 0 } }] }
theorem witness_StepRunsInstruction_off1 :
    (offS .deuriLinkTrain).detected = [] ∧ (offS .deuriLinkTrain).issuing = none ∧
    (offS .deuriLinkTrain).agenda = [{ dt := 1, ev := .deuriLinkTrain, arg := { tile := 0 } }] ∧ (offS .deuriLinkTrain).sw.powered = false ∧
    ({ dt := 1, ev := .deuriLinkTrain, arg := { tile := 0 } } : Happening).ev = .deuriLinkTrain := by decide +kernel
theorem witness_StepRunsInstruction_off2 :
    (offS .readyQueueIssue).detected = [] ∧ (offS .readyQueueIssue).issuing = none ∧
    (offS .readyQueueIssue).agenda = [{ dt := 1, ev := .readyQueueIssue, arg := { tile := 0 } }] ∧ (offS .readyQueueIssue).sw.powered = false ∧
    ({ dt := 1, ev := .readyQueueIssue, arg := { tile := 0 } } : Happening).ev ≠ .deuriLinkTrain := by decide +kernel
theorem witness_StepRunsInstruction_agenda :
    agendaS.detected = [] ∧ agendaS.issuing = none ∧ agendaS.agenda = [{ dt := 1, ev := Instr.readyQueueIssue }] ∧
    agendaS.sw.powered = true :=
  by decide +kernel
theorem witness_StepRunsInstruction_placed : decode (BitVec.ofNat 64 addWord) = .ok addOne := ex_ok (by decide +kernel)
theorem witness_DecodeEncode : addOne.wf = true ∧ encode addOne = some (w64 addWord) := by decide +kernel
theorem witness_EncodeDecode_good : decode (w64 addWord) = .ok addOne := ex_ok (by decide +kernel)
theorem witness_EncodeDecode_bad : assigned (opOf 0x2D00000000000000) = false := by decide +kernel
/-- A machine with a byte listed and a step to take. -/
def busyS : State := (idle.withFetchWord 64 addWord).writeN 0x1000 8 5
/-- The state after it. -/
def busyT : State := match step busyS with | .next t => t | _ => busyS
theorem witness_MemoryStep : Memory.wf busyS.mem = true ∧ busyS.mem ≠ [] ∧ step busyS = .next busyT :=
  by refine ⟨?_, ?_, next_of ?_⟩ <;> decide +kernel
theorem witness_MemoryReadsBack : Memory.wf busyS.mem = true ∧ 3 < tRows (shape 0) ∧ 3 < tCols (shape 0)
    ∧ (∀ i < tRows (shape 0), ∀ j < tRows (shape 0), i < j → (buf 0).rowOff i + rowBytes (shape 0) ≤ (buf 0).rowOff j) := by decide +kernel
theorem witness_LaneFrame : (at0 (firing [[.scal 1], [.scal 2]])).issuing = some (firing [[.scal 1], [.scal 2]])
    ∧ Instr.add addF ∈ laneInstrs addF ∧ left (.add addF) [1, 2] 0 = some (.scalar 3) := by decide +kernel
theorem witness_FloatArithmetic : (at0 LaneUnit.frA).issuing = some LaneUnit.frA := by decide +kernel
theorem witness_Approximations : (at0 LaneUnit.frA).issuing = some LaneUnit.frA ∧ (fld 0 .f32 0).ty = .f32 := by decide +kernel
theorem witness_LoadAddress : (at0 LaneUnit.frA).issuing = some LaneUnit.frA := by decide +kernel

/-! ## Reset -/

/-- R107, R187, R387, R396, R443: reset values of the Reset columns. -/
theorem test_reset_quota : regRead State.reset (.comp 0) 0 = 8192 := by decide +kernel
theorem test_reset_version : regRead State.reset .sw 0x8000 = 1 := by decide +kernel
/-- The last number of each array that R107, R177, R396 and R342 count. -/
theorem witness_ResetState : 15 < 16 ∧ 4095 < 4096 ∧ 7 < 8 ∧ 12 < 13 ∧ 32767 < 32768 := by decide
theorem test_reset_memory : State.reset.mem = [] ∧ Memory.wf State.reset.mem = true := by decide +kernel

end Sys2Proof.Tests
end

section
/-! SUPPORT. What the end of frames and units leaves of the switch die: `op_sw` says that an operation leaves all of it, and
`SameMap` that the resource map stays and no MAPRD.WAIT comes to wait. -/

namespace Sys2Proof.Machine

/-! ## Operations that leave the switch die as it is -/

/-- Steps that each leave the switch die leave it together. -/
theorem foldl_sw {α : Type} {g : State → α → State} (hg : ∀ s x, (g s x).sw = s.sw) (s : State) (xs : List α) :
    (xs.foldl g s).sw = s.sw :=
  foldl_keeps (P := fun u => u.sw = s.sw) (fun u x h => (hg u x).trans h) xs rfl

@[simp] theorem State.onFrame_sw (s : State) (t fi : Nat) (g : Frame → Frame) : (s.onFrame t fi g).sw = s.sw := by rw [onFrame_only]
@[simp] theorem State.uncount_sw (s : State) (fr : Firing) (c : Cnt) : (s.uncount fr c).sw = s.sw := by rw [uncount_only]
@[simp] theorem State.releaseAll_sw (s : State) (die : Nat) (hs : List Word) : (s.releaseAll die hs).sw = s.sw := by rw [releaseAll_only]
@[simp] theorem State.releaseOps_sw (s : State) (fr : Firing) : (s.releaseOps fr).sw = s.sw := by rw [releaseOps_only]
@[simp] theorem State.emit_sw (s : State) (fr : Firing) (d : Option Dest) (lb : Nat) (outs : List (Option LVal)) :
    (s.emit fr d lb outs).sw = s.sw := by rw [emit_only]
@[simp] theorem State.emit1_sw (s : State) (fr : Firing) (d : Option Dest) (lane : Nat) (v : LVal) : (s.emit1 fr d lane v).sw = s.sw :=
  emit_sw _ _ _ _ _
@[simp] theorem State.taint_sw (s : State) (m d : Nat) (r : PRec) : (s.taint m d r).sw = s.sw := rfl
@[simp] theorem State.onChan_sw (s : State) (m n : Nat) (g : Chan → Chan) : (s.onChan m n g).sw = s.sw := rfl

/-! ## Memory operations and copies that end (R277, R292, R297, R298) -/

@[simp] theorem State.chainAdvance_sw (s : State) (fr : Firing) (op : Nat) (f : Fields) : (s.chainAdvance fr op f).sw = s.sw := by
  unfold State.chainAdvance; split <;> simp
@[simp] theorem tileNodeOut_sw (s : State) (o : MemOp) : (tileNodeOut s o).sw = s.sw := by simp [tileNodeOut]
@[simp] theorem memOut_sw (s : State) (o : MemOp) : (memOut s o).sw = s.sw := by
  unfold memOut
  split
  · split
    · split <;> simp
    · split <;> simp
  · split <;> simp
@[simp] theorem memSettle_sw (s : State) (t id : Nat) : (memSettle s t id).sw = s.sw := by
  unfold memSettle
  split
  · rfl
  · split
    · rfl
    · dsimp only
      rw [memOut_sw]
      split <;> split <;> simp
@[simp] theorem dropPieces_sw (s : State) (t fi : Nat) : (dropPieces s t fi).sw = s.sw := foldl_sw (fun s id => by simp) _ _

@[simp] theorem waitRound_sw (k : Nat) (s : State) (m n : Nat) : (waitRound k s m n).sw = s.sw := by
  induction k generalizing s with
  | zero => rfl
  | succ k ih =>
    have hgo (u : State) (l : List (Firing × Fields × Nat × Nat)) :
        (l.foldl (fun (s : State) w => (s.emit1 w.1 w.2.1.d0 w.2.2.2 .dn).uncount w.1 .ocp) u).sw = u.sw :=
      foldl_sw (fun u w => by simp) _ _
    simp only [waitRound]
    split
    · simp [hgo]
    · simp [ih, hgo]
@[simp] theorem releaseWaits_sw (s : State) (m n : Nat) : (releaseWaits s m n).sw = s.sw := waitRound_sw _ _ _ _
@[simp] theorem dropWaits_sw (s : State) (t fi : Nat) : (dropWaits s t fi).sw = s.sw := by
  refine foldl_sw (fun s m => foldl_sw (fun s n => ?_) _ _) _ _
  dsimp only
  split
  · rfl
  · rw [releaseWaits_sw, foldl_sw fun u c => by simp, foldl_sw fun u w => by simp, State.onChan_sw]
@[simp] theorem cpymCancelled_sw (s : State) (c : Copy) : (cpymCancelled s c).sw = s.sw := by simp [cpymCancelled]
@[simp] theorem copyEnd_sw (s : State) (m n : Nat) (c : Copy) : (copyEnd s m n c).sw = s.sw := by
  unfold copyEnd
  split
  · split <;> simp
  · simp
@[simp] theorem releaseCans_sw (s : State) (m n : Nat) : (releaseCans s m n).sw = s.sw := by
  unfold releaseCans
  dsimp only
  split
  · rfl
  · rw [foldl_sw fun u c => by simp, State.onChan_sw]
@[simp] theorem chanSettle_sw (k : Nat) (s : State) (m n : Nat) : (chanSettle k s m n).sw = s.sw := by
  induction k generalizing s with
  | zero => rfl
  | succ k ih =>
    unfold chanSettle
    split
    · rfl
    · split
      · simp [ih]
      · simp
@[simp] theorem State.settle_sw (s : State) (m n : Nat) : (s.settle m n).sw = s.sw := by simp [State.settle]
@[simp] theorem cancelFrameCopies_sw (s : State) (t fi : Nat) : (cancelFrameCopies s t fi).sw = s.sw := by
  refine foldl_sw (fun s m => ?_) _ _
  dsimp only
  rw [foldl_sw fun u n => by split <;> simp [cancelCopies], State.onMtile_sw]

/-! ## Frames that end and stream slots that are served (R104, R281, R282) -/

@[simp] theorem State.endFrame_sw (s : State) (t fi : Nat) : (s.endFrame t fi).sw = s.sw := by
  unfold State.endFrame
  split
  · rfl
  · split <;> simp
@[simp] theorem State.endUnit_sw (s : State) (u : UnitId) : (s.endUnit u).sw = s.sw := foldl_sw (fun s p => by simp) _ _
@[simp] theorem dropRequests_sw (s : State) (u : UnitId) : (dropRequests s u).sw = s.sw := rfl
@[simp] theorem claimSlot_sw (s : State) (fr : Firing) (f : Fields) (k : Nat) : (claimSlot s fr f k).sw = s.sw := by simp [claimSlot]
@[simp] theorem serveOpens_sw (n : Nat) (s : State) (t : Nat) : (serveOpens n s t).sw = s.sw := by
  induction n generalizing s with
  | zero => rfl
  | succ n ih =>
    simp only [serveOpens]
    split
    · rfl
    · split
      · simp [ih]
      · split <;> simp [ih]
@[simp] theorem State.serveSlots_sw (s : State) (t : Nat) : (s.serveSlots t).sw = s.sw := serveOpens_sw _ _ _
@[simp] theorem endWork_sw (s : State) (t ctx : Nat) : (endWork s t ctx).sw = s.sw := by
  unfold endWork; split <;> simp

/-! ## The resource map stays, and no MAPRD.WAIT comes to wait -/

/-- The resource map of one state is that of another, and no MAPRD.WAIT waits where none did (R389, R400). -/
def SameMap (s u : State) : Prop := u.sw.map = s.sw.map ∧ (s.sw.mwaits = [] → u.sw.mwaits = [])

theorem SameMap.refl (s : State) : SameMap s s := ⟨rfl, id⟩
theorem SameMap.trans {s t u : State} (h : SameMap s t) (k : SameMap t u) : SameMap s u := ⟨k.1.trans h.1, k.2 ∘ h.2⟩
/-- Where the switch die stays, its map does. -/
theorem SameMap.of_sw {s u : State} (h : u.sw = s.sw) : SameMap s u := by rw [SameMap, h]; exact ⟨rfl, id⟩
theorem SameMap.mapWord {s u : State} (h : SameMap s u) (mix : Nat) : u.mapWord mix = s.mapWord mix := by
  rw [State.mapWord, h.1, State.mapWord]
theorem SameMap.version {s u : State} (h : SameMap s u) : u.version = s.version := by rw [State.version, h.mapWord, State.version]

/-- Steps that each keep the map keep it together. -/
theorem SameMap.foldl {α : Type} {g : State → α → State} (hg : ∀ s x, SameMap s (g s x)) (s : State) (xs : List α) :
    SameMap s (xs.foldl g s) :=
  foldl_keeps (P := SameMap s) (fun u x h => h.trans (hg u x)) xs (.refl s)

theorem State.onSw_sameMap (s : State) {g : Switch → Switch} (hm : (g s.sw).map = s.sw.map) (hw : (g s.sw).mwaits = s.sw.mwaits) :
    SameMap s (s.onSw g) := ⟨hm, fun h => hw.trans h⟩
theorem State.onQueue_sameMap (s : State) (q : Nat) (g : Queue → Queue) : SameMap s (s.onQueue q g) := ⟨rfl, id⟩
theorem State.onJob_sameMap (s : State) (j : Nat) (g : Job → Job) : SameMap s (s.onJob j g) := ⟨rfl, id⟩
theorem State.onLaunch_sameMap (s : State) (q e : Nat) (g : Launch → Launch) : SameMap s (s.onLaunch q e g) := ⟨rfl, id⟩
theorem State.pendRec_sameMap (s : State) (r : PendRec) : SameMap s (s.pendRec r) := ⟨rfl, id⟩
theorem State.suppress_sameMap (s : State) : SameMap s s.suppress := ⟨rfl, id⟩
theorem State.onGraph_sameMap (s : State) (g : Nat) (h : Graph → Graph) : SameMap s (s.onGraph g h) := by
  unfold State.onGraph
  split
  · exact .refl s
  · exact ⟨rfl, id⟩

theorem State.reply_sameMap (s : State) (r : Rep) : SameMap s (s.reply r) := by
  unfold State.reply
  split <;> exact ⟨rfl, id⟩
theorem State.joinPart_sameMap (s : State) (id : Nat) (r : Rep) : SameMap s (s.joinPart id r) := by
  unfold State.joinPart
  split
  · exact .refl s
  · dsimp only
    split
    · exact .of_sw rfl
    · have hr {u : State} (hu : u.sw = s.sw) (q : Rep) : SameMap s (u.reply q) := (SameMap.of_sw hu).trans (u.reply_sameMap q)
      repeat' split
      all_goals refine hr ?_ _; rfl
theorem State.answer_sameMap (s : State) (r : Rep) : SameMap s (s.answer r) := by
  unfold State.answer
  split
  · exact State.joinPart_sameMap _ _ _
  · exact State.reply_sameMap _ _
theorem State.answerLane_sameMap (s : State) (r : Req) (v0 v1 : LVal) : SameMap s (s.answerLane r v0 v1) := State.answer_sameMap _ _

/-! ## Units that end (R38, R103, R368, R372) -/

theorem settleCancels_sameMap (s : State) : SameMap s (settleCancels s) := by
  unfold settleCancels
  refine (s.onSw_sameMap rfl rfl).trans (.foldl (fun u c => ?_) _ _)
  split
  · exact .refl u
  · exact u.answerLane_sameMap _ _ _
theorem unitCheck_sameMap (s : State) (u : UnitId) : SameMap s (unitCheck s u) := by
  unfold unitCheck
  split
  · exact .refl s
  · exact (s.onLaunch_sameMap _ _ _).trans (settleCancels_sameMap _)
theorem killUnit_sameMap (s : State) (u : UnitId) : SameMap s (killUnit s u) := by
  unfold killUnit
  refine SameMap.trans ?_ (.of_sw (foldl_sw (fun v p => by simp) _ _))
  refine SameMap.trans ?_ (.of_sw (foldl_sw (fun v p => by simp) _ _))
  exact (SameMap.of_sw (by simp)).trans (State.onLaunch_sameMap _ _ _ _)
theorem loseUnit_sameMap (s : State) (u : UnitId) (cause : Nat) : SameMap s (loseUnit s u cause) := by
  have hk : SameMap s (killUnit s u) := killUnit_sameMap s u
  unfold loseUnit
  split
  · exact hk.trans (State.suppress_sameMap _)
  · exact ((hk.trans (State.onQueue_sameMap _ _ _)).trans (State.onLaunch_sameMap _ _ _ _)).trans (State.pendRec_sameMap _ _)
theorem loseUnits_sameMap (s : State) (test : Nat → Bool) : SameMap s (loseUnits s test) := .foldl (fun s u => loseUnit_sameMap s u _) _ _

/-- Answering the SCANGO and the SCANABTs of a test that is aborted. -/
theorem answerScan_sameMap (s : State) (c : Scan) :
    SameMap s (c.abts.foldl (fun (s : State) r => s.answerLane r (.scal 0) .dn) (match c.go with
      | some r => s.answerLane r (.scal 2) (.scal 0)
      | none => s)) := by
  refine SameMap.trans ?_ (.foldl (fun u r => u.answerLane_sameMap _ _ _) _ _)
  split
  · exact s.answerLane_sameMap _ _ _
  · exact .refl s
theorem dropTiles_sameMap (s : State) (test : Nat → Bool) (reset : Bool) : SameMap s (dropTiles s test reset) := by
  unfold dropTiles
  dsimp only
  refine SameMap.trans ?_ (.foldl unitCheck_sameMap _ _)
  refine SameMap.trans ?_ (.foldl answerScan_sameMap _ _)
  exact ⟨rfl, fun h => by simp [h]⟩

/-! ## Jobs under a degradation (R377, R393 to R395) -/

theorem freezeBegin_sameMap (s : State) (g : Nat) : SameMap s (freezeBegin s g) := by
  unfold freezeBegin
  split
  · exact .refl s
  · split
    · exact .refl s
    · exact (s.onGraph_sameMap _ _).trans (.of_sw (foldl_sw (fun u p => by simp) _ _))
theorem suspend_sameMap (s : State) (jid cause v : Nat) : SameMap s (suspend s jid cause v) := by
  unfold suspend
  refine SameMap.trans ?_ (State.pendRec_sameMap _ _)
  refine SameMap.trans ?_ (.foldl freezeBegin_sameMap _ _)
  exact ⟨rfl, id⟩
theorem classJob_sameMap (lost : List Nat) (v : Nat) (s : State) (jid : Nat) : SameMap s (classJob lost v s jid) := by
  unfold classJob
  dsimp only
  split
  · exact .refl s
  · split
    · exact suspend_sameMap s jid 2 v
    · split
      · split
        · exact .refl s
        · exact s.onJob_sameMap _ _
      · exact s.onJob_sameMap _ _

end Sys2Proof.Machine
end

section
/-! SUPPORT. Publishing a version of the resource map: what its words read afterwards (R387 to R393). -/

namespace Sys2Proof.Machine

open Sys2Proof.Spec

/-! ## Tables whose keys rise -/

theorem sorted_tail {α : Type} {e : Nat × α} {l : AList α} (h : Sorted (e :: l)) : Sorted l := (List.pairwise_cons.mp h).2
theorem sorted_head_lt {α : Type} {e x : Nat × α} {l : AList α} (h : Sorted (e :: l)) (hx : x ∈ l) : e.1 < x.1 :=
  (List.pairwise_cons.mp h).1 _ (List.mem_map_of_mem hx)

/-- A key below every listed one is not listed. -/
theorem AList.get?_of_lt {α : Type} {l : AList α} {b : Nat} (h : ∀ x ∈ l, b < x.1) : AList.get? l b = none := by
  cases l with
  | nil => rfl
  | cons e l =>
    obtain ⟨k, v⟩ := e
    have hk : b < k := h _ List.mem_cons_self
    simp [AList.get?, hk, show k ≠ b by omega]

theorem AList.erase_sublist {α : Type} (l : AList α) (a : Nat) : (AList.erase l a).Sublist l := by
  induction l with
  | nil => exact .refl _
  | cons e l ih =>
    obtain ⟨k, v⟩ := e
    simp only [AList.erase]
    split
    · exact List.sublist_cons_self _ _
    · split
      · exact .refl _
      · exact ih.cons_cons _
theorem sorted_erase {α : Type} {l : AList α} (h : Sorted l) (a : Nat) : Sorted (AList.erase l a) :=
  h.sublist ((AList.erase_sublist l a).map _)

theorem AList.key_of_mem_set {α : Type} {l : AList α} {a : Nat} {v : α} {x : Nat × α} (h : x ∈ AList.set l a v) :
    x.1 = a ∨ x ∈ l := by
  induction l with
  | nil => exact .inl (congrArg Prod.fst (List.mem_singleton.mp h))
  | cons e l ih =>
    obtain ⟨k, w⟩ := e
    simp only [AList.set] at h
    split at h
    · grind
    · split at h <;> grind
theorem sorted_set {α : Type} {l : AList α} (h : Sorted l) (a : Nat) (v : α) : Sorted (AList.set l a v) := by
  induction l with
  | nil => simp [AList.set, Sorted]
  | cons e l ih =>
    obtain ⟨k, w⟩ := e
    simp only [AList.set]
    split
    · subst_vars; exact h
    · split
      · refine List.pairwise_cons.mpr ⟨fun y hy => ?_, h⟩
        obtain ⟨x, hx, rfl⟩ := List.mem_map.mp hy
        rcases List.mem_cons.mp hx with rfl | hx
        · assumption
        · exact Nat.lt_trans ‹a < k› (sorted_head_lt h hx)
      · refine List.pairwise_cons.mpr ⟨fun y hy => ?_, ih (sorted_tail h)⟩
        obtain ⟨x, hx, rfl⟩ := List.mem_map.mp hy
        rcases AList.key_of_mem_set hx with hx | hx
        · simp only; omega
        · exact sorted_head_lt h hx

/-- What a table reads anywhere after one key is removed. -/
theorem AList.get?_erase {α : Type} {l : AList α} (h : Sorted l) (a b : Nat) :
    AList.get? (AList.erase l a) b = if b = a then none else AList.get? l b := by
  induction l with
  | nil => simp [AList.erase, AList.get?]
  | cons e l ih =>
    obtain ⟨k, v⟩ := e
    have hl : b ≤ k → AList.get? l b = none := fun hb => AList.get?_of_lt fun x hx => Nat.lt_of_le_of_lt hb (sorted_head_lt h hx)
    have ih := ih (sorted_tail h)
    simp only [AList.erase]
    split
    · simp only [AList.get?]; grind
    · split <;> simp only [AList.get?] <;> grind

/-! ## Words of the map (R389) -/

theorem State.mapWord_setMapWord {s : State} (h : Sorted s.sw.map) (mix m : Nat) (w : Word) :
    (s.setMapWord mix w).mapWord m = if m = mix then w else s.mapWord m := by
  simp only [State.mapWord, State.setMapWord, AList.getD]
  split
  · subst_vars; rw [AList.get?_erase h]; split <;> rfl
  · rw [AList.get?_set]; split <;> rfl
theorem State.setMapWord_sorted {s : State} (h : Sorted s.sw.map) (mix : Nat) (w : Word) : Sorted (s.setMapWord mix w).sw.map := by
  simp only [State.setMapWord]
  split
  · exact sorted_erase h _
  · exact sorted_set h _ _

theorem recalcDie_sorted {s : State} (h : Sorted s.sw.map) (d : Nat) : Sorted (recalcDie s d).sw.map := by
  unfold recalcDie
  split
  · exact State.setMapWord_sorted h _ _
  · exact h
/-- STATE of a die lies in its own word. -/
theorem mapWord_recalcDie_other {s : State} (h : Sorted s.sw.map) {d m : Nat} (hm : m ≠ 2 + d) :
    (recalcDie s d).mapWord m = s.mapWord m := by
  unfold recalcDie
  split
  · rw [State.putMap, State.mapWord_setMapWord h, if_neg hm]
  · rfl

/-! ## A version is published (R387, R392, R400) -/

theorem waitRelease_sameMap (s : State) (r : Req) : SameMap s (waitRelease s r) := s.answerLane_sameMap _ _ _

/-- Releasing what waits leaves the map as VERSION and the change record have been written. -/
theorem State.advanceMap_map (s : State) (event : Nat) (deg : Bool) (item ikind : Nat) {v : Nat} (hv : (s.version + 1) % 2 ^ 64 = v) :
    (s.advanceMap event deg item ikind).sw.map
      = ((s.setMapWord 0 (w64 v)).setMapWord (512 + v % 64) (changeRecord event deg item ikind v)).sw.map := by
  unfold State.advanceMap
  rw [hv]
  exact (SameMap.foldl waitRelease_sameMap _ _).1
theorem State.advanceMap_mwaits (s : State) (event : Nat) (deg : Bool) (item ikind : Nat) :
    (s.advanceMap event deg item ikind).sw.mwaits = [] := by
  unfold State.advanceMap
  generalize (s.version + 1) % 2 ^ 64 = v
  exact (SameMap.foldl waitRelease_sameMap _ _).2 rfl
/-- What the map reads after VERSION has advanced: VERSION, the change record, and every other word as before. -/
theorem State.mapWord_advanceMap {s : State} (h : Sorted s.sw.map) (hv : s.version + 1 < 2 ^ 64) (event : Nat) (deg : Bool) (item ikind m : Nat) :
    (s.advanceMap event deg item ikind).mapWord m =
      if m = 512 + (s.version + 1) % 64 then changeRecord event deg item ikind (s.version + 1)
      else if m = 0 then w64 (s.version + 1) else s.mapWord m := by
  rw [State.mapWord, s.advanceMap_map event deg item ikind (Nat.mod_eq_of_lt hv), ← State.mapWord,
    State.mapWord_setMapWord (State.setMapWord_sorted h _ _), State.mapWord_setMapWord h]
theorem State.advanceMap_sorted {s : State} (h : Sorted s.sw.map) (event : Nat) (deg : Bool) (item ikind : Nat) :
    Sorted (s.advanceMap event deg item ikind).sw.map := by
  rw [s.advanceMap_map event deg item ikind rfl]
  exact State.setMapWord_sorted (State.setMapWord_sorted h _ _) _ _
theorem State.advanceMap_published {s : State} (h : Sorted s.sw.map) (hv : s.version + 1 < 2 ^ 64) (event : Nat) (deg : Bool)
    (item ikind : Nat) : Published s (s.advanceMap event deg item ikind) event deg item ikind := by
  refine ⟨?_, ?_, s.advanceMap_mwaits _ _ _ _⟩
  · rw [State.version, mapWord_advanceMap h hv, if_neg (by omega), if_pos rfl, w64, BitVec.toNat_ofNat, Nat.mod_eq_of_lt hv]
  · rw [mapWord_advanceMap h hv, if_pos rfl]

/-- A version is published of a state just as well once something else has changed before it or after it. -/
theorem published_congr {s s' u u' : State} {event item ikind : Nat} {deg : Bool} (h : Published s' u event deg item ikind)
    (hv : s'.version = s.version) (hu : SameMap u u') : Published s u' event deg item ikind := by
  obtain ⟨hver, hrec, hw⟩ := h
  rw [hv] at hver hrec
  exact ⟨hu.version.trans hver, (hu.mapWord _).trans hrec, hu.2 hw⟩

/-- What a degradation does to units and jobs leaves the map (R381, R393). -/
theorem publishDeg_sameMap (s : State) (event item ikind : Nat) :
    SameMap (s.advanceMap event true item ikind) (publishDeg s event item ikind) := by
  unfold publishDeg
  dsimp only
  refine SameMap.trans ?_ (.foldl (classJob_sameMap _ _) _ _)
  exact (loseUnits_sameMap _ _).trans (dropTiles_sameMap _ _ _)

/-! ## Links in the map (R388, R389, R392) -/

theorem linkMix_bounds {l : Nat} (h : l ≤ 192) : 96 ≤ linkMix l ∧ linkMix l ≤ 288 := by
  unfold linkMix; split <;> (try split) <;> omega
theorem linkDie_lt {l : Nat} (h : l < 160) : linkDie l < 12 := by unfold linkDie; split <;> omega
theorem field_linkWord (st lanes rate : Nat) : field (linkWord st lanes rate) 0 2 = st % 4 := by
  simp only [field, linkWord, w64, BitVec.toNat_ofNat]; omega

/-- A degradation of a link publishes the link's new entry. -/
theorem publishDeg_link {s : State} {l : Nat} (hl : l ≤ 192) (h : Sorted s.sw.map) (hv : s.version + 1 < 2 ^ 64) (w : Word) (event : Nat) :
    let u := publishDeg (if l < 160 then recalcDie (s.setMapWord (linkMix l) w) (linkDie l) else s.setMapWord (linkMix l) w) event l 1
    Published s u event true l 1 ∧ u.mapWord (linkMix l) = w ∧ Sorted u.sw.map := by
  intro u
  obtain ⟨hlo, hhi⟩ := linkMix_bounds hl
  let v : State := if l < 160 then recalcDie (s.setMapWord (linkMix l) w) (linkDie l) else s.setMapWord (linkMix l) w
  have hset := State.setMapWord_sorted h (linkMix l) w
  have hvs : Sorted v.sw.map := by
    simp only [v]; split
    · exact recalcDie_sorted hset _
    · exact hset
  have hword : ∀ m, m = 0 ∨ m = linkMix l → v.mapWord m = if m = linkMix l then w else s.mapWord m := fun m hm => by
    simp only [v]; split
    · have hd := linkDie_lt ‹_›
      rw [mapWord_recalcDie_other hset (by omega), State.mapWord_setMapWord h]
    · rw [State.mapWord_setMapWord h]
  have hver : v.version = s.version := by rw [State.version, hword 0 (.inl rfl), if_neg (by omega), State.version]
  have hsame : SameMap (v.advanceMap event true l 1) u := publishDeg_sameMap v event l 1
  refine ⟨published_congr (State.advanceMap_published hvs (by omega) event true l 1) hver hsame, ?_, ?_⟩
  · rw [hsame.mapWord, State.mapWord_advanceMap hvs (by omega), if_neg (by omega), if_neg (by omega), hword _ (.inr rfl), if_pos rfl]
  · rw [hsame.1]; exact State.advanceMap_sorted hvs _ _ _ _

theorem linkNarrow_published {s : State} {l : Nat} (hl : l ≤ 192) (hst : field (s.mapWord (linkMix l)) 0 2 ≠ 3) (h : Sorted s.sw.map)
    (hv : s.version + 1 < 2 ^ 64) (lanes rate : Nat) :
    Published s (linkNarrow s l lanes rate) 6 true l 1 ∧ (linkNarrow s l lanes rate).mapWord (linkMix l) = linkWord 2 lanes rate
      ∧ Sorted (linkNarrow s l lanes rate).sw.map := by
  unfold linkNarrow
  rw [if_neg (by omega)]
  exact publishDeg_link hl h hv _ _

theorem drainSpoke_sameMap (s : State) (l : Nat) : SameMap s (drainSpoke s l) := by
  unfold drainSpoke
  split
  · exact .refl s
  · exact s.onSw_sameMap rfl rfl
theorem linkLost_published {s : State} {l : Nat} (hl : l ≤ 192) (hst : field (s.mapWord (linkMix l)) 0 2 ≠ 3) (h : Sorted s.sw.map)
    (hv : s.version + 1 < 2 ^ 64) :
    Published s (linkLost s l) 7 true l 1 ∧ (linkLost s l).mapWord (linkMix l) = linkWord 3 0 0 := by
  have hd := drainSpoke_sameMap s l
  unfold linkLost
  rw [if_neg (by omega)]
  obtain ⟨hp, hw, -⟩ := publishDeg_link hl (s := drainSpoke s l) (by rw [hd.1]; exact h) (by rw [hd.version]; exact hv) (linkWord 3 0 0) 7
  exact ⟨published_congr hp hd.version (.refl _), hw⟩

end Sys2Proof.Machine
end

section
/-! SUPPORT. Links: audits, stalls and resyncs (R420, R421), and windows of reduction (R429, R434). -/

namespace Sys2Proof.Machine

/-! ## Reading a link, a window or a group after it is changed -/

@[simp] theorem State.link_onLink (s : State) (l : Nat) (g : Link → Link) : (s.onLink l g).link l = g (s.link l) := by
  simp [State.onLink, State.link]
@[simp] theorem State.onLink_clk (s : State) (l : Nat) (g : Link → Link) : (s.onLink l g).clk = s.clk := rfl
theorem State.onLink_sameMap (s : State) (l : Nat) (g : Link → Link) : SameMap s (s.onLink l g) := s.onSw_sameMap rfl rfl
@[simp] theorem State.rwin_onRwin (s : State) (n : Nat) (g : RWin → RWin) : (s.onRwin n g).rwin n = g (s.rwin n) := by
  simp [State.onRwin, State.rwin]
@[simp] theorem State.group_onGroup (s : State) (g : Nat) (h : Xrg → Xrg) : (s.onGroup g h).group g = h (s.group g) := by
  simp [State.onGroup, State.group]

/-! ## What a channel carries (R420) -/

theorem vcCap_le (l : Nat) : vcCap l ≤ 32 := by unfold vcCap; split <;> omega

/-- What a channel that has carried nothing yet has carried next: of the flits that wait, those that find a free slot are sent. -/
theorem LinkVc.carry_start {cap : Nat} (hcap : cap ≤ 32) (clk cred want took free err : Nat) :
    let sent := min want cap
    let got := min took sent
    let freed := min free got
    LinkVc.carry { fsc := cap, fr := cap } cap clk cred want took free err
      = { fsc := (cap - sent + err) % 2 ^ 16, ss := sent, sr := got, cr := freed, fr := cap - got + freed
          dry := if (cap - sent + err) % 2 ^ 16 = 0 ∧ cap < want then some clk else none } := by
  intro sent got freed
  have hcred : min cred ((0 + 2 ^ 16 - 0) % 2 ^ 16) = 0 := by omega
  have hsent : sent ≤ cap := Nat.min_le_right _ _
  have hgotle : got ≤ sent := Nat.min_le_right _ _
  have hfreedle : freed ≤ got := Nat.min_le_right _ _
  have hmod {x : Nat} (hx : x ≤ cap) : (0 + x) % 2 ^ 16 = x := by
    rw [Nat.zero_add, Nat.mod_eq_of_lt (by omega)]
  have hgot : min took ((0 + sent + 2 ^ 16 - 0) % 2 ^ 16) = got := by
    rw [Nat.sub_zero, Nat.add_mod_right, hmod hsent]
  have hfree : min free (cap - (cap - got)) = freed := by
    rw [Nat.sub_sub_self (Nat.le_trans hgotle hsent)]
  have hdry : ((cap - sent + err) % 2 ^ 16 ≠ 0 ∨ want ≤ sent) ↔ ¬((cap - sent + err) % 2 ^ 16 = 0 ∧ cap < want) := by
    rw [show want ≤ sent ↔ want ≤ cap from ⟨fun h => Nat.le_trans h hsent, fun h => Nat.le_min.mpr ⟨Nat.le_refl _, h⟩⟩]
    omega
  have hgot16 := hmod (Nat.le_trans hgotle hsent)
  have hfree16 := hmod (Nat.le_trans hfreedle (Nat.le_trans hgotle hsent))
  have hwaits : (none : Option Nat).orElse (fun _ => some clk) = some clk := rfl
  simp only [LinkVc.carry, hcred, Nat.add_zero, Nat.zero_mod, show min want cap = sent from rfl, hgot, hfree, hdry, hmod hsent, hgot16,
    hfree16, ite_not, if_true, hwaits]

/-- The counts of a channel agree unless an error has changed FSC. -/
theorem LinkVc.agrees_iff {v : LinkVc} {cap sent got freed err : Nat} (hs : sent ≤ cap) (hg : got ≤ sent) (he : err < 2 ^ 16)
    (hfsc : v.fsc = (cap - sent + err) % 2 ^ 16) (hss : v.ss = sent) (hsr : v.sr = got) (hcr : v.cr = freed) (hcs : v.cs = 0)
    (hfr : v.fr = cap - got + freed) : v.agrees = true ↔ err = 0 := by
  simp only [LinkVc.agrees, beq_iff_eq, hfsc, hss, hsr, hcr, hcs, hfr]
  omega

/-! ## Audits (R420) -/

/-- The audit of a period that no resync has run out in, on a link with one channel that has carried nothing yet: the counts are taken
down, and where they disagree a resync starts or fails. -/
theorem linkAudit_one {s : State} {n : Nat} (a b c d e : Word) (ok : Bool) (hup : linkUp s n = true) (hvcs : (s.link n).vcs = [])
    (hlast : (s.link n).last < s.clk / 4096) (hsync : ∀ t, (s.link n).sync = some t → s.clk < t + 65536) :
    let v := LinkVc.carry { fsc := vcCap n, fr := vcCap n } (vcCap n) s.clk (field a 0 16) (field b 0 16) (field c 0 16) (field d 0 16) (field e 0 16)
    let t := s.onLink n fun x => { x with
      audit := (x.audit + 1) % 2 ^ 40, sync := none, fresh := false, last := s.clk / 4096, vcs := [(0, v)] }
    linkAudit s n [a, b, c, d, e] ok =
      if v.agrees = true then t else if (s.link n).fresh = true then resyncFailed t n ok else startResync t n := by
  intro v t
  have hrun : ((s.link n).sync.any fun c => decide (c + 65536 ≤ s.clk)) = false := by
    cases h : (s.link n).sync with
    | none => rfl
    | some t =>
      rw [Option.any_some, decide_eq_false_iff_not, Nat.not_le]
      exact hsync t h
  have hcarry : carryAll (vcCap n) s.clk (fun v => (s.link n).vc n v) 0 [a, b, c, d, e] (s.link n).vcs = [(0, v)] := by
    simp only [carryAll, Link.vc, hvcs]; rfl
  have ht : (s.onLink n fun x => { x with
      audit := (x.audit + 1) % 2 ^ 40, sync := none, fresh := false, last := s.clk / 4096
      vcs := carryAll (vcCap n) s.clk (fun v => x.vc n v) 0 [a, b, c, d, e] x.vcs }) = t := by
    simp only [State.onLink, hcarry, t]
  have hall : ((t.link n).vcs.all fun v => v.2.agrees) = v.agrees := by simp [t]
  unfold linkAudit
  simp only [hup, Nat.not_le_of_lt hlast, hrun, Bool.not_true, decide_false, Bool.or_self, Bool.false_eq_true, if_false, ht, hall]

/-! ## Resyncs (R421) -/

/-- A link whose resync has started. -/
def Link.resynced (x : Link) (clk : Nat) : Link := { x with rsync := (x.rsync + 1) % 2 ^ 16, vcs := [], sync := some clk, fresh := true }

theorem link_startResync (s : State) (l : Nat) : (startResync s l).link l = (s.link l).resynced s.clk := by
  simp [startResync, Link.resynced]

theorem linkStall_dry {s : State} {l : Nat} (hup : linkUp s l = true) (hs : (s.link l).sync = none)
    (h : ∃ v ∈ (s.link l).vcs, ∃ t, v.2.dry = some t ∧ t + 65536 ≤ s.clk) : linkStall s l = startResync s l := by
  obtain ⟨v, hv, t, ht, hc⟩ := h
  have hany : ((s.link l).vcs.any fun v => v.2.dry.any fun t => decide (t + 65536 ≤ s.clk)) = true :=
    List.any_eq_true.mpr ⟨v, hv, by rw [ht, Option.any_some]; exact decide_eq_true hc⟩
  simp only [linkStall, hup, hs, hany, Option.isNone_none, Bool.and_self, if_true]
theorem linkStall_moving {s : State} {l : Nat} (h : ∀ v ∈ (s.link l).vcs, ∀ t, v.2.dry = some t → s.clk < t + 65536) : linkStall s l = s := by
  have hany : ((s.link l).vcs.any fun v => v.2.dry.any fun t => decide (t + 65536 ≤ s.clk)) = false := by
    refine List.any_eq_false.mpr fun v hv => ?_
    cases ht : v.2.dry with
    | none => simp
    | some t =>
      rw [Option.any_some, decide_eq_true_iff, Nat.not_le]
      exact h v hv t ht
  simp only [linkStall, hany, Bool.and_false, Bool.false_eq_true, if_false]

/-- The first resync that fails starts again. -/
theorem resyncFailed_first {s : State} {l : Nat} (ok : Bool) (hf : (s.link l).fails = []) (hs : (s.link l).since = []) :
    (resyncFailed s l ok).link l = { (s.link l).resynced s.clk with fails := [s.clk], since := [s.clk] } := by
  simp [resyncFailed, hs, hf, link_startResync, Link.resynced]

/-- The third resync to fail within a second narrows the link to half, or loses it where that fails too. -/
theorem resyncFailed_third {s : State} {l t1 t2 : Nat} (ok : Bool) (hs : (s.link l).since = [t1, t2]) (h1 : s.clk < t1 + 2400000000)
    (h2 : s.clk < t2 + 2400000000) :
    ∃ u, SameMap s u ∧ resyncFailed s l ok =
      let t := linkNarrow u l (field (s.mapWord (linkMix l)) 2 8 / 2) (field (s.mapWord (linkMix l)) 10 8)
      if ok = true then t else linkLost t l := by
  let v := s.onLink l fun x => { x with
    fails := s.clk :: x.fails.filter (fun t => decide (s.clk < t + secondClk)), since := s.clk :: x.since.filter fun t => decide (s.clk < t + secondClk) }
  let u := v.onLink l fun x => { x with vcs := [], sync := none, fresh := false, since := [] }
  have hu : SameMap s u := (s.onLink_sameMap _ _).trans (v.onLink_sameMap _ _)
  have hlen : ¬ (v.link l).since.length < 3 := by simp [v, hs, secondClk, h1, h2]
  refine ⟨u, hu, ?_⟩
  rw [← hu.mapWord]
  exact if_neg hlen

end Sys2Proof.Machine
end

section
/-! SUPPORT. What the host and other modules reach: registers, device memory, host memory, snoops (R7, R423 to R428). -/

namespace Sys2Proof.Machine

open Sys2Proof.Spec

/-- A change that leaves the switch die as it stands is none. -/
theorem State.onSw_self {s : State} {g : Switch → Switch} (h : g s.sw = s.sw) : s.onSw g = s := by rw [State.onSw, h]

/-- A reply to a request of the module's own, whole, waits for its tile. -/
theorem State.answer_whole (s : State) {r : Rep} (hs : r.req.src ≠ .outside) (hp : r.req.part = none) :
    s.answer r = { s with reps := s.reps ++ [r] } := by
  simp only [State.answer, hp, State.reply]

/-! ## Registers (R7, R423, R441) -/

theorem hostBar0_reads {s : State} {a : Word} {w : RegWin} {off : Nat} (h : sraOf a = some (w, off)) (hd : regDead s w off = false) :
    hostBar0 s a none = s.onSw fun y => { y with toHost := y.toHost ++ [(toBytes 8 (regRead s w off).toNat, false)] } := by
  simp [hostBar0, h, hd, Option.filter, State.hostReply]
theorem hostBar0_writes {s : State} {a : Word} {w : RegWin} {off : Nat} (v : Word) (h : sraOf a = some (w, off)) (hd : regDead s w off = false) :
    hostBar0 s a (some v) = regWrite s w off v := by
  simp [hostBar0, h, hd, Option.filter]
/-- An address of no register, or of one that does not answer, is of no use to the host. -/
theorem hostBar0_refused {s : State} {a : Word} (h : sraOf a = none ∨ ∃ w off, sraOf a = some (w, off) ∧ regDead s w off = true) (v : Option Word) :
    hostBar0 s a v = if v.isSome then s else s.onSw fun y => { y with toHost := y.toHost ++ [(List.replicate 8 0xFF, false)] } := by
  have hf : ((sraOf a).filter fun p => !regDead s p.1 p.2) = none := by
    rcases h with h | ⟨w, off, h, hd⟩
    · simp [h]
    · simp [h, hd, Option.filter]
  cases v <;> simp [hostBar0, hf, State.hostReply]

theorem registerWrite_plain {s : State} {a v : Word} {w : RegWin} {off : Nat} (h : sraOf a = some (w, off)) (hd : regDead s w off = false)
    (hc : (w, off) ≠ (.sw, 0x9900)) : registerWrite s a v = plainWrite s w off v := by
  have hc : ¬(w = .sw ∧ off = 0x9900) := fun e => hc (by rw [e.1, e.2])
  simp [registerWrite, h, hd, hc]
theorem registerWrite_cap {s : State} {a v : Word} {w : RegWin} {off : Nat} (h : sraOf a = some (w, off)) (hd : regDead s w off = false)
    (hc : (w, off) = (.sw, 0x9900)) : registerWrite s a v = capWrite s v := by
  obtain ⟨rfl, rfl⟩ := Prod.mk.inj hc
  simp [registerWrite, h, hd]

/-- A write of PWRCAP clamps it; sensing the dies anew moves neither it nor the map. -/
theorem capWrite_sw (s : State) (v : Word) :
    (capWrite s v).sw.pwrcap = max 3000 (min 8000 (field v 0 16)) ∧ (capWrite s v).sw.map = s.sw.map := by
  have hw : swWrite s 0x9900 v = s.onSw fun w => { w with pwrcap := min (max (field v 0 16) 3000) 8000 } := by
    simp [swWrite, swWrite1, regIx]
  refine foldl_keeps (P := fun u : State => u.sw.pwrcap = max 3000 (min 8000 (field v 0 16)) ∧ u.sw.map = s.sw.map)
    (g := fun (u : State) d => sense u d (u.heat d).temp) (fun u d hu => hu) _ ?_
  rw [hw]
  exact ⟨show min (max (field v 0 16) 3000) 8000 = _ by omega, rfl⟩

/-! ## Device memory (R310, R423, R424) -/

/-- With nothing that waits, the host's access performs as soon as it may. -/
theorem hostHdm_alone {s u : State} {off k : Nat} {data : Option (List Byte)} (h : s.sw.hdm = []) (ha : hdmAccess s (off, k, data) = some u) :
    hostHdm s off k data = u := by
  have hs : (s.onSw fun w => { w with hdm := w.hdm ++ [(off, k, data)] }).onSw (fun w => { w with hdm := [] }) = s :=
    State.onSw_self (g := fun w => { w with hdm := [] }) (by rw [← h])
  unfold hostHdm hdmServe
  rw [hs]
  simp [h, ha]

/-- What the host reads or writes through the HDM range lies at an address of the job that the range acts as. -/
def hdmVa (s : State) (off : Nat) : Word :=
  w64 (field (AList.getD s.sw.adpap (nbits off 40 2) 0) 40 17 * 2 ^ 40 + off % 2 ^ 40)
/-- How many bytes lie in the line of an offset. -/
def hdmLen (off k : Nat) : Nat := min k (64 - off % 64)

section
variable {s t : State} {off k d pa : Nat} (hap : field (AList.getD s.sw.adpap (nbits off 40 2) 0) 0 1 = 1)
  (hw : ownerWaits s s.sw.adpjid (hdmVa s off) = false)
include hap hw

theorem hdmAccess_read (hl : tlbLocate s s.sw.adpjid (hdmVa s off) .r = (.ok (.dram d pa), t)) (hh : t.lineHeld d pa (hdmLen off k) = false)
    (ht : t.lineTake 2 d pa (hdmLen off k) = t) (hb : t.abBad d pa = false) :
    hdmAccess s (off, k, none) = some ((t.onSw fun y => { y with
      toHost := y.toHost ++ [(t.readBytes (hbmAt d pa) (hdmLen off k), false)] }).demand d pa) := by
  unfold hdmVa at hw hl
  unfold hdmLen at hh ht ⊢
  simp only [hdmAccess, hap, hw, hl, hh, ht, hb, State.hostReply, hbmAt, Nat.one_ne_zero, Option.isSome_none, Option.map_none,
    Option.getD_none, Bool.false_eq_true, if_false]
theorem hdmAccess_write {bs : List Byte} (hl : tlbLocate s s.sw.adpjid (hdmVa s off) .w = (.ok (.dram d pa), t))
    (hh : t.lineHeld d pa (hdmLen off bs.length) = false) (ht : t.lineTake 2 d pa (hdmLen off bs.length) = t) :
    hdmAccess s (off, k, some bs) = some ((t.dramWrite d pa (bs.take (hdmLen off bs.length))).demand d pa) := by
  unfold hdmVa at hw hl
  unfold hdmLen at hh ht ⊢
  simp only [hdmAccess, hap, hw, hl, hh, ht, Nat.one_ne_zero, Option.isSome_some, Option.map_some, Option.getD_some,
    Bool.false_eq_true, if_false, if_true]
end

/-! ## Words of a row (R274, R300) -/

/-- Bytes from an aligned offset, cut into words. -/
theorem wordCuts_aligned {off : Nat} (ho : off % 8 = 0) {n : Nat} {bs : List Byte} (hn : (bs.length + 7) / 8 ≤ n) :
    wordCuts n off bs = (List.range ((bs.length + 7) / 8)).map fun j => (off + 8 * j, (bs.drop (8 * j)).take 8) := by
  induction n generalizing off bs with
  | zero => simp [wordCuts, Nat.le_zero.mp hn]
  | succ n ih =>
    unfold wordCuts
    by_cases hb : bs = []
    · simp [hb]
    · have hpos : 0 < bs.length := List.length_pos_iff.mpr hb
      have hlen : (bs.length + 7) / 8 = ((bs.drop 8).length + 7) / 8 + 1 := by rw [List.length_drop]; omega
      rw [if_neg (by simpa using hb)]
      dsimp only
      rw [ho, Nat.sub_zero, ih (by omega) (by omega), hlen, List.range_succ_eq_map, List.map_cons, List.map_map]
      have hstep (j : Nat) : 8 * (j + 1) = 8 + 8 * j := by omega
      simp only [Function.comp_def, List.drop_drop, Nat.succ_eq_add_one, hstep, Nat.mul_zero, Nat.add_zero, List.drop_zero, Nat.add_assoc]

theorem wordSpans_aligned {pa : Nat} (hp : pa % 8 = 0) (n : Nat) :
    wordSpans pa n = (List.range ((n + 7) / 8)).map fun j => (8 * j, min 8 (n - 8 * j)) := by
  unfold wordSpans
  rw [wordCuts_aligned hp (by simp; omega)]
  simp [Function.comp_def]

/-- A row of k bytes is read, or written, by word j as `q j`. -/
def RowWords (a : AccOp) (k : Nat) (q : Nat → AccOp) : Prop :=
  (a = .readRow k ∧ q = fun j => .readRow (min 8 (k - 8 * j)))
    ∨ ∃ bs, a = .writeRow bs ∧ k = bs.length ∧ q = fun j => .writeRow ((bs.drop (8 * j)).take 8)

theorem Piece.split_row {p : Piece} {k : Nat} {q : Nat → AccOp} (h : RowWords p.acc k q) (hp : addr p.va % 8 = 0) :
    p.split (addr p.va) = (List.range ((k + 7) / 8)).map fun j => { p with va := w64 (addr p.va + 8 * j), acc := q j, off := 8 * j } := by
  unfold Piece.split
  rcases h with ⟨ha, rfl⟩ | ⟨bs, ha, rfl, rfl⟩
  · simp [ha, wordSpans_aligned hp]
  · rw [ha]
    simp only [wordSpans_aligned hp, List.map_map, Function.comp_def, ← List.length_drop, ← List.take_take, List.take_length]

end Sys2Proof.Machine
end

section
/-! SUPPORT. The host window, accesses of other modules, snoops, and rounds of the edge adders (R310, R425 to R429, R433). -/

namespace Sys2Proof.Machine

open Sys2Proof.Spec

/-! ## Bytes of memory under a change of something else -/

/-- What bytes read rests on memory alone. -/
theorem State.readBytes_of_mem {s u : State} (h : u.mem = s.mem) (a n : Nat) : u.readBytes a n = s.readBytes a n := by
  induction n generalizing a with
  | zero => rfl
  | succ n ih => simp only [State.readBytes, State.byte, h, ih]
@[simp] theorem State.readBytes_taken (s : State) (m a n : Nat) : (s.taken m).readBytes a n = s.readBytes a n := readBytes_of_mem (s.taken_mem m) _ _
@[simp] theorem State.writeBytes_reps (s : State) (a : Nat) (bs : List Byte) : (s.writeBytes a bs).reps = s.reps := by rw [writeBytes_only]

/-! ## The host window (R425) -/

theorem homeVa_local {va : Word} (h : vaG va = false) : homeVa va = va := by simp [homeVa, h]

/-- A request of this module to its host window, which nothing holds back (R253, R275, R305). -/
structure AtHost (s : State) (n : Nat) (r : Req) : Prop where
  net : s.net[n]? = some r
  near : vaG r.piece.va = false
  home : vaHome r.piece.va = 0x20
  first : earlierSame s n r = false
  released : relWaits s r = false
  plain : r.isSys = false
  src : r.src ≠ .outside
  whole : r.part = none

section
variable {s : State} {n : Nat} {r : Req} (h : AtHost s n r)
include h

/-- A row of several words goes on as one request for each word; anything else is checked and performs. -/
theorem hostWindow_of_atHost : hostWindow s n none =
    if r.piece.isRow = true ∧ 1 < (r.piece.split (addr r.piece.va)).length then hostSplit s n r
    else if jobBit s.sw.adphj r.jid = true then hostPerform (s.taken n) r
    else (s.taken n).answerErr r 0x03 := by
  obtain ⟨hnet, hnear, hhome, hfirst, hrel, hplain, -, hwhole⟩ := h
  simp only [hostWindow, hnet, hplain, homeVa_local hnear, hhome, hnear, hfirst, hrel, hwhole]
  cases jobBit s.sw.adphj r.jid <;> simp

theorem answer_taken {p : Rep} (hp : p.req = r) : (s.taken n).answer p = { s with net := dropNth s.net n, reps := s.reps ++ [p] } :=
  State.answer_whole _ (by rw [hp]; exact h.src) (by rw [hp]; exact h.whole)

theorem hostWindow_refused (hj : jobBit s.sw.adphj r.jid = false)
    (hs : (r.piece.split (addr r.piece.va)).length ≤ 1 ∨ r.piece.isRow = false) :
    hostWindow s n none = { s with net := dropNth s.net n, reps := s.reps ++ [{ req := r, cause := 0x03 }] } := by
  rw [hostWindow_of_atHost h, if_neg (fun e => hs.elim (Nat.not_le_of_lt e.2) (by simp [e.1])), if_neg (by simp [hj])]
  exact answer_taken h rfl

theorem hostWindow_performs (hj : jobBit s.sw.adphj r.jid = true)
    (hs : (r.piece.split (addr r.piece.va)).length ≤ 1 ∨ r.piece.isRow = false) : hostWindow s n none = hostPerform (s.taken n) r := by
  rw [hostWindow_of_atHost h, if_neg (fun e => hs.elim (Nat.not_le_of_lt e.2) (by simp [e.1])), if_pos hj]

/-- The words of a row, as the requests that stand for it. -/
theorem hostWindow_splits {k : Nat} {q : Nat → AccOp} (hq : RowWords r.piece.acc k q) (ha : addr r.piece.va % 8 = 0) (hk : 8 < k) :
    let u := hostWindow s n none
    u.mem = s.mem ∧ u.reps = s.reps ∧ u.net.length = s.net.length + (k - 1) / 8
      ∧ ∀ j, 8 * j < k → u.net[n + j]? = some { r with
          id := s.reqno + j, part := some r.id
          piece := { r.piece with va := w64 (addr r.piece.va + 8 * j), acc := q j, off := 8 * j } } := by
  have hsplit := Piece.split_row hq ha
  have hrow : r.piece.isRow = true := by
    unfold Piece.isRow
    rcases hq with ⟨hr, -⟩ | ⟨bs, hw, -⟩ <;> simp only [*]
  have hn : n < s.net.length := (List.getElem?_eq_some_iff.mp h.net).1
  rw [hostWindow_of_atHost h, if_pos ⟨hrow, by rw [hsplit, List.length_map, List.length_range]; omega⟩]
  simp only [hostSplit, hsplit]
  refine ⟨trivial, trivial, ?_, fun j hj => ?_⟩
  · simp only [List.length_append, List.length_take, List.length_drop, List.length_map, List.length_zipIdx, List.length_range]; omega
  · have hj' : j < (k + 7) / 8 := by omega
    rw [List.append_assoc, List.getElem?_append_right (by rw [List.length_take]; omega), List.length_take, Nat.min_eq_left (Nat.le_of_lt hn), Nat.add_sub_cancel_left,
      List.getElem?_append_left (by simpa using hj')]
    simp [List.getElem?_map, List.getElem?_zipIdx, List.getElem?_range hj']
end

theorem inHost_local {s : State} {va : Word} (h : vaG va = false) : inHost s va = decide (addr va % 2 ^ 50 < s.sw.hwsize) := by
  rw [inHost, homeVa_local h]
theorem hostAt_local {s : State} {va : Word} (h : vaG va = false) : hostAt s va = hostAddr s.sw.hwbase + addr va % 2 ^ 50 := by
  rw [hostAt, homeVa_local h]

/-- An address as a word of its own. -/
theorem addr_w64_addr (va : Word) : addr (w64 (addr va)) = addr va := by
  simp only [addr, field, w64, BitVec.toNat_ofNat]; omega
theorem vaG_w64_addr (va : Word) : vaG (w64 (addr va)) = vaG va := by
  simp only [vaG, addr, field, w64, BitVec.toNat_ofNat]
  congr 1; omega

/-- A row of one word, or of less, lies in the host window when its last byte does. -/
theorem rowIn_word {s : State} {va : Word} {k : Nat} (hg : vaG va = false) (ha : addr va % 8 = 0) (hk : k ≤ 8)
    (hin : addr va % 2 ^ 50 + k ≤ s.sw.hwsize) :
    ((wordCuts k (addr va % 8) (List.replicate k 0)).all fun c => inHost s (w64 (addr va / 8 * 8 + c.1))) = true := by
  have hbase : addr va / 8 * 8 = addr va := by omega
  rw [wordCuts_aligned (by omega) (by simp only [List.length_replicate]; omega), ha, hbase]
  simp only [List.all_map, List.all_eq_true, List.mem_range, List.length_replicate, Function.comp_apply]
  intro j hj
  rw [show addr va + (0 + 8 * j) = addr va by omega, inHost_local ((vaG_w64_addr va).trans hg), addr_w64_addr]
  exact decide_eq_true (by omega)

section
variable {s : State} {n : Nat} {r : Req} (h : AtHost s n r) (hj : jobBit s.sw.adphj r.jid = true)
include h hj

theorem hostWindow_readRow {k : Nat} (hacc : r.piece.acc = .readRow k) (ha : addr r.piece.va % 8 = 0) (hk : k ≤ 8)
    (hin : addr r.piece.va % 2 ^ 50 + k ≤ s.sw.hwsize) :
    hostWindow s n none = { s with
      net := dropNth s.net n
      reps := s.reps ++ [{ req := r, bytes := s.readBytes (hostAddr s.sw.hwbase + addr r.piece.va % 2 ^ 50) k }] } := by
  have hlen : (r.piece.split (addr r.piece.va)).length ≤ 1 := by
    rw [Piece.split_row (.inl ⟨hacc, rfl⟩) ha, List.length_map, List.length_range]; omega
  rw [hostWindow_performs h hj (.inl hlen), hostPerform]
  simp only [hacc, rowIn_word (s := s.taken n) h.near ha hk hin, if_true]
  rw [answer_taken h rfl, hostAt_local h.near, State.readBytes_taken, State.taken_sw]

theorem hostWindow_writeRow {bs : List Byte} (hacc : r.piece.acc = .writeRow bs) (ha : addr r.piece.va % 8 = 0) (hk : bs.length ≤ 8)
    (hin : addr r.piece.va % 2 ^ 50 + bs.length ≤ s.sw.hwsize) :
    hostWindow s n none = { (s.taken n).writeBytes (hostAddr s.sw.hwbase + addr r.piece.va % 2 ^ 50) bs with
      reps := s.reps ++ [{ req := r }] } := by
  have hlen : (r.piece.split (addr r.piece.va)).length ≤ 1 := by
    rw [Piece.split_row (.inr ⟨bs, hacc, rfl, rfl⟩) ha, List.length_map, List.length_range]; omega
  rw [hostWindow_performs h hj (.inl hlen), hostPerform]
  simp only [hacc, rowIn_word (s := s.taken n) h.near ha hk hin, if_true]
  rw [State.answer_whole _ h.src h.whole, hostAt_local h.near, State.writeBytes_reps]
  rfl

theorem hostWindow_load {i k : Nat} {va : Word} (hacc : r.piece.acc = .loads [(i, va, k)]) (hg : vaG va = false) :
    hostWindow s n none = { s with net := dropNth s.net n, reps := s.reps ++ [
      if addr va % 2 ^ 50 < s.sw.hwsize then
        { req := r, vals := [(i, .runv (w64 (s.readN (hostAddr s.sw.hwbase + addr va % 2 ^ 50) k)), .dn)] }
      else { req := r, cause := 0x03 }] } := by
  rw [hostWindow_performs h hj (.inr (by simp [Piece.isRow, hacc])), hostPerform]
  simp only [hacc]
  rw [answer_taken h rfl]
  by_cases hin : addr va % 2 ^ 50 < s.sw.hwsize
  · have : inHost (s.taken n) va = true := by rw [inHost_local hg]; exact decide_eq_true hin
    simp only [List.filter, this, if_pos hin, List.map, if_true, hostAt_local hg, State.readN, State.readBytes_taken, State.taken_sw]
  · have : inHost (s.taken n) va = false := by rw [inHost_local hg]; exact decide_eq_false hin
    simp only [List.filter, this, if_neg hin]
    rfl

theorem hostWindow_store {i : Nat} {va : Word} {bs : List Byte} (hacc : r.piece.acc = .stores [(i, va, bs)]) (hg : vaG va = false)
    (hin : addr va % 2 ^ 50 < s.sw.hwsize) :
    hostWindow s n none = { (s.taken n).writeBytes (hostAddr s.sw.hwbase + addr va % 2 ^ 50) bs with
      reps := s.reps ++ [{ req := r, vals := [(i, .dn, .dn)] }] } := by
  have hok : inHost (s.taken n) va = true := by rw [inHost_local hg]; exact decide_eq_true hin
  rw [hostWindow_performs h hj (.inr (by simp [Piece.isRow, hacc])), hostPerform]
  simp only [hacc, List.filter, hok, List.foldl, List.map, if_true, hostAt_local hg]
  rw [State.answer_whole _ h.src h.whole, State.writeBytes_reps]
  rfl
end

/-! ## Contributions, accesses of other modules, snoops (R309, R426, R428, R429) -/

/-- The switch holds one contribution: it is forwarded, and for this module it sets out to its home slice. -/
theorem aredForward_sets_out {s : State} {r : Req} {k : AKind} {ty : Ty} {vs : List Word} (hs : s.sw.areds = [r])
    (hacc : r.piece.acc = .ared k ty vs) (hh : r.held = false) :
    (aredForward s 0 []).sw.areds = [{ r with held := true, own := s.reqno }]
      ∧ (aredForward s 0 []).net = if vaDev r.piece.va = s.sw.fabid then
          s.net ++ [{ id := s.reqno, src := .outside, own := 0, jid := r.jid, piece := r.piece, place := r.place }] else s.net := by
  have hvals : aredVals r = vs := by rw [aredVals, hacc]
  have hpiece : ({ r.piece with acc := .ared k ty vs } : Piece) = r.piece := by rw [← hacc]
  by_cases hd : vaDev r.piece.va = s.sw.fabid <;> simp [aredForward, hacc, hh, hs, hvals, hpiece, hd]
/-- A forwarded contribution for another module is acknowledged. -/
theorem aredForward_acknowledged {s : State} {r : Req} (hs : s.sw.areds = [r]) (hh : r.held = true) (hd : vaDev r.piece.va ≠ s.sw.fabid) :
    aredForward s 0 [] = s.onSw fun w => { w with areds := w.areds.filter fun x => !(x.held && x.own == r.own) } := by
  simp [aredForward, hs, hh, hd]

theorem fabricAccess_sets_out {s : State} {f : FabReq} (hg : vaG f.va = false) (hv : (s.job f.jid).valid = true)
    (hsys : ∀ op sub a b c, f.acc ≠ .sys op sub a b c) (hcas : ∀ t b c d, f.acc ≠ .cask t b c d) (hcadd : ∀ t b c d, f.acc ≠ .caddk t b c d) :
    fabricAccess s f = if jobBit s.sw.faben f.jid = true then s.send .outside 0 f.jid { va := f.va, acc := f.acc } 0 else s := by
  cases hacc : f.acc with
  | sys op sub a b c => exact absurd hacc (hsys op sub a b c)
  | cask t b c d => exact absurd hacc (hcas t b c d)
  | caddk t b c d => exact absurd hacc (hcadd t b c d)
  | _ => cases hj : jobBit s.sw.faben f.jid <;> simp [fabricAccess, hacc, hg, hv, hj]

/-- The host answers the snoop of a held request: a line that it had written comes back first. -/
theorem snoopResponse_held {s : State} {n d pa : Nat} {r : Req} {b : Bool} (hn : s.net[n]? = some r) (hh : r.held = true)
    (hl : r.loc = some (d, pa, b)) :
    snoopResponse s n none = { s with net := setNth s.net n { r with held := false, snooped := true } }
      ∧ ∀ bs, bs.length = 64 → snoopResponse s n (some bs)
          = { s.dramWrite d (granule pa) bs with net := setNth s.net n { r with held := false, snooped := true } } := by
  refine ⟨?_, fun bs hb => ?_⟩
  · simp [snoopResponse, hn, hh, hl, State.onNet]
  · have hnet : (s.dramWrite d (granule pa) bs).net = s.net := by rw [State.dramWrite_only]
    simp [snoopResponse, hn, hh, hl, hb, State.onNet, hnet]
theorem snoopResponse_line {s : State} {n d g : Nat} (hn : s.net.length ≤ n) (hs : s.sw.snoops[n - s.net.length]? = some (d, g, false)) :
    snoopResponse s n none = s.onSw fun y => { y with snoops := setNth y.snoops (n - s.net.length) (d, g, true) } := by
  simp only [snoopResponse, List.getElem?_eq_none hn, hs]
  rfl

/-! ## Rounds of the edge adders (R433) -/

/-- Setting what a table holds already changes nothing. -/
theorem AList.set_get? {α : Type} {l : AList α} {a : Nat} {x : α} (h : AList.get? l a = some x) : AList.set l a x = l := by
  induction l with
  | nil => simp [AList.get?] at h
  | cons e l ih =>
    obtain ⟨k, v⟩ := e
    simp only [AList.get?] at h
    simp only [AList.set]
    split at h
    · simp_all
    · split at h
      · contradiction
      · rw [if_neg ‹_›, if_neg ‹_›, ih h]

/-- A group that is configured stays as it is when a change leaves it. -/
theorem State.onGroup_self {s : State} {g : Nat} {h : Xrg → Xrg} (hc : s.group g ≠ {}) (hg : h (s.group g) = s.group g) : s.onGroup g h = s := by
  refine State.onSw_self ?_
  have hget : AList.get? s.sw.xrg g = some (s.group g) := by
    unfold State.group AList.getD at hc ⊢
    cases h : AList.get? s.sw.xrg g with
    | none => simp [h] at hc
    | some x => rfl
  rw [hg, AList.set_get? hget]

/-- With nothing that waits for a snoop or a turn, nothing is spent. -/
theorem State.spend_self {s : State} (hs : s.sw.snoops = []) (hl : s.lineDone = s) : s.spend = s := by
  rw [State.spend, hl]
  exact State.onSw_self (by rw [hs]; simp only [List.filter_nil]; rw [← hs])

theorem joinRound_empty {s : State} {g : Nat} (hl : (s.group g).later = []) : joinRound s g = s := by
  refine foldl_keeps (P := fun u : State => u = s) (fun u d hu => ?_) _ rfl
  subst hu
  simp [hl]

/-- A job's write changes device memory or host memory alone. -/
theorem Spot.write_only (s : State) (bs : List Byte) (p : Spot) : p.write s bs = { s with mem := (p.write s bs).mem, md := (p.write s bs).md } := by
  cases p with
  | host a => rw [Spot.write, State.writeBytes_only]
  | dram d pa => rw [Spot.write, State.dramWrite_only]
  | away va => rfl
theorem jobWrite_only {s t : State} {jid : Nat} {va : Word} {bs : List Byte} {need : Need} (h : jobWrite s jid va bs need = .ok t) :
    t = { s with mem := t.mem, md := t.md } := by
  unfold jobWrite at h
  split at h
  · contradiction
  · cases h; exact Spot.write_only _ _ _

/-- The one round of a chain of one die whose contribution has streamed: no other waits (R433). -/
structure OneRound (s : State) (n d : Nat) (es : List Nat) (r : Req) : Prop where
  chain : (s.group n).chain = [d]
  conts : (s.group n).conts = [(d, es, r)]
  later : (s.group n).later = []
  sent : es ≠ []
  src : r.src ≠ .outside
  whole : r.part = none
  gate : destGate s (s.group n) = (s, true)
  quiet : s.spend = s

section
variable {s : State} {n d : Nat} {es : List Nat} {r : Req} (h : OneRound s n d es r)
include h

theorem OneRound.notEmpty : es.isEmpty = false := by simpa using h.sent
theorem OneRound.contEnding : contEnding s (s.group n) = false := by simp [Machine.contEnding, h.conts, h.notEmpty]
theorem OneRound.chainDead : chainDead s (s.group n) = (s.dieState d == 3) := by simp [Machine.chainDead, h.chain]
theorem OneRound.inOrder : (s.group n).inOrder = some [(d, es, r)] := by simp [Xrg.inOrder, h.chain, h.conts]

/-- The round ends with one status, and the next begins with no contribution. -/
theorem endRound_one {u : State} (hsw : u.sw = s.sw) (st : Nat) :
    let v := endRound u n (roundStatus st)
    v.mem = u.mem ∧ v.reps = u.reps ++ [roundReply r st] ∧ (v.group n).round = ((s.group n).round + 1) % 2 ^ 42 ∧ (v.group n).conts = [] := by
  have hg : u.group n = s.group n := by rw [State.group, hsw, State.group]
  have hans : roundStatus st u r = { u with reps := u.reps ++ [roundReply r st] } := State.answer_whole u h.src h.whole
  have hend : endRound u n (roundStatus st)
      = ({ u with reps := u.reps ++ [roundReply r st] } : State).onGroup n fun x => { x with round := (x.round + 1) % 2 ^ 42, conts := [] } := by
    unfold endRound
    simp only [hg, h.conts, List.foldl, h.notEmpty, Bool.false_eq_true, if_false, hans]
    refine joinRound_empty ?_
    rw [State.group_onGroup]
    exact (congrArg Xrg.later hg).trans h.later
  intro v
  have hv : v.group n = { u.group n with round := ((u.group n).round + 1) % 2 ^ 42, conts := [] } := by
    simp only [v, hend, State.group_onGroup]; rfl
  refine ⟨by simp only [v, hend]; rfl, by simp only [v, hend]; rfl, ?_, ?_⟩ <;> rw [hv]
  rw [hg]

/-- A contribution that has streamed stays as it is. -/
theorem OneRound.streamed : streamCont s (d, es, r) = (s, (d, es, r)) := by
  unfold streamCont
  split
  · rfl
  · simp [h.notEmpty]

theorem xredComplete_one {t : State} (ha : (s.group n).armed = true) (hd : s.dieState d ≠ 3) (hes : es.length ≤ 16)
    (hw : jobWrite s (s.group n).jid (w64 (addr (s.group n).dest)) (es.flatMap fun e => toBytes 4 e) = .ok t) :
    xredComplete s n = endRound t n (roundStatus 0) := by
  have hne : s.group n ≠ {} := fun e => by simpa [e] using h.chain
  have hself : (s.onGroup n fun x => { x with conts := setNth x.conts 0 (d, es, r) }) = s :=
    State.onGroup_self hne (by rw [h.conts]; simp only [setNth]; rw [← h.conts])
  have hsum : chainSum (s.group n).int [es] = es := rfl
  have hwrite : writeElems ((s.group n).elems / 16 + 1) s (s.group n).jid (addr (s.group n).dest) es = .ok t := by
    simp only [writeElems, h.notEmpty, Bool.false_eq_true, if_false, List.take_of_length_le hes, hw, List.drop_of_length_le hes]
    cases (s.group n).elems / 16 <;> simp [writeElems]
  have hdead : (s.dieState d == 3) = false := by simpa using hd
  unfold xredComplete
  simp only [ha, h.inOrder, h.chainDead, h.contEnding, hdead, h.conts, List.zipIdx, List.foldl, h.streamed, hself, List.any, h.notEmpty,
    h.gate, h.quiet, List.map, hsum, hwrite]
  rfl

/-- What an aborted round leaves of its sum is memory alone. -/
theorem abortedSum_one : (abortedSum s (s.group n)).sw = s.sw ∧ (abortedSum s (s.group n)).reps = s.reps := by
  unfold abortedSum
  simp only [h.inOrder]
  refine foldl_keeps (P := fun u : State => u.sw = s.sw ∧ u.reps = s.reps) (fun u e hu => ?_) _ ⟨rfl, rfl⟩
  split
  · exact hu
  · split
    next v hv => rw [jobWrite_only hv]; exact hu
    next => exact hu

theorem xredAbort_one (hd : s.dieState d = 3) : xredAbort s n = endRound (abortedSum s (s.group n)) n (roundStatus 1) := by
  unfold xredAbort
  simp only [h.conts, h.chainDead, hd, h.gate, h.quiet]
  rfl
end

end Sys2Proof.Machine
end

section
/-! The switch die and the links between modules and to the host (R7, R310, R338, R339, R420 to R434). -/

namespace Sys2Proof.Machine

open Sys2Proof.Spec

/-! ## What an event that names its place does -/

/-- A switch is asked to forward its one contribution. -/
theorem exec_aredMergeForward_first {s : State} (hn : s.arg.n = 0) (hw : s.arg.words = []) :
    exec .aredMergeForward s = .next (aredForward s 0 []) := by
  show Host.Outcome.next (aredForward s s.arg.n (s.arg.words.map (·.toNat))) = _
  rw [hn, hw]; rfl

/-- A write of both words of a window registers it anew, not yet acknowledged (R434). -/
theorem rwin_rwinWrite {s : State} {n : Nat} (hn : n < 64) (w0 w1 : Word) : (rwinWrite (rwinWrite s n 1 w1) n 0 w0).rwin n = {
    v := field w0 0 1 = 1, act := false, jid := field w0 2 12, dev := field w0 14 10, hold := field w0 24 8, len := field w0 32 32
    base := field w1 0 40, pend := field w0 0 1 = 1 } := by
  have hlt : ¬ 64 ≤ n := by omega
  unfold rwinWrite
  rw [if_neg hlt, if_neg hlt, State.rwin_onRwin, State.rwin_onRwin]
  rfl

/-! ## Resyncs (R421) -/

/-- A resync of a link has started, with the clks of those that failed. -/
def Resynced (s u : State) (n : Nat) (fails : List Nat) : Prop :=
  (u.link n).rsync = ((s.link n).rsync + 1) % 2 ^ 16 ∧ (u.link n).vcs = [] ∧ (u.link n).sync = some s.clk ∧ (u.link n).fresh = true
    ∧ (u.link n).fails = fails

theorem startResync_resynced (s : State) (n : Nat) : Resynced s (startResync s n) n (s.link n).fails := by
  rw [Resynced, link_startResync]; exact ⟨rfl, rfl, rfl, rfl, rfl⟩

/-- The audit of a channel that has carried nothing yet agrees unless an error has changed FSC. -/
theorem linkAudit_agrees_iff {cap : Nat} (hcap : cap ≤ 32) (clk : Nat) (a b c d e : Word) :
    (LinkVc.carry { fsc := cap, fr := cap } cap clk (field a 0 16) (field b 0 16) (field c 0 16) (field d 0 16) (field e 0 16)).agrees = true
      ↔ field e 0 16 = 0 := by
  have he : field e 0 16 < 2 ^ 16 := Nat.mod_lt _ (by decide)
  rw [LinkVc.carry_start hcap]
  exact LinkVc.agrees_iff (Nat.min_le_right _ _) (Nat.min_le_right _ _) he rfl rfl rfl rfl rfl rfl

/-- With no error the audit leaves the counts of the channel as it has carried them. -/
theorem linkAudit_agrees {s : State} {n : Nat} (a b c d e : Word) (ok : Bool) (hup : linkUp s n = true) (hvcs : (s.link n).vcs = [])
    (hlast : (s.link n).last < s.clk / 4096) (hsync : ∀ t, (s.link n).sync = some t → s.clk < t + 65536) (he : field e 0 16 = 0) :
    let cap := if n ≤ 192 then 32 else 16
    let sent := min (field b 0 16) cap
    let got := min (field c 0 16) sent
    let freed := min (field d 0 16) got
    (linkAudit s n [a, b, c, d, e] ok).link n = { s.link n with
      audit := ((s.link n).audit + 1) % 2 ^ 40, sync := none, fresh := false, last := s.clk / 4096
      vcs := [(0, { fsc := cap - sent, ss := sent, sr := got, cr := freed, fr := cap - got + freed
                    dry := if cap < field b 0 16 then some s.clk else none })] } := by
  intro cap sent got freed
  have hcap : vcCap n = cap := rfl
  have hle : cap ≤ 32 := hcap ▸ vcCap_le n
  rw [linkAudit_one a b c d e ok hup hvcs hlast hsync, if_pos ((linkAudit_agrees_iff (vcCap_le n) s.clk a b c d e).mpr he),
    State.link_onLink, LinkVc.carry_start (vcCap_le n), he, hcap]
  have hfsc : (cap - sent + 0) % 2 ^ 16 = cap - sent := by omega
  have hdry : (cap - sent = 0 ∧ cap < field b 0 16) ↔ cap < field b 0 16 := by omega
  simp only [show min (field b 0 16) cap = sent from rfl, hfsc, hdry]
  rfl

/-- An error in FSC starts a resync, where none has just ended. -/
theorem linkAudit_disagrees {s : State} {n : Nat} (a b c d e : Word) (ok : Bool) (hup : linkUp s n = true) (hvcs : (s.link n).vcs = [])
    (hlast : (s.link n).last < s.clk / 4096) (hsync : ∀ t, (s.link n).sync = some t → s.clk < t + 65536) (he : field e 0 16 ≠ 0)
    (hf : (s.link n).fresh = false) :
    Resynced s (linkAudit s n [a, b, c, d, e] ok) n (s.link n).fails
      ∧ ((linkAudit s n [a, b, c, d, e] ok).link n).audit = ((s.link n).audit + 1) % 2 ^ 40 := by
  rw [Resynced, linkAudit_one a b c d e ok hup hvcs hlast hsync, if_neg (mt (linkAudit_agrees_iff (vcCap_le n) s.clk a b c d e).mp he),
    if_neg (by simp [hf]), link_startResync, State.link_onLink]
  exact ⟨⟨rfl, rfl, rfl, rfl, rfl⟩, rfl⟩

theorem resyncTimeout_late {s : State} {n c : Nat} (ok : Bool) (hup : linkUp s n = true) (hs : (s.link n).sync = some c)
    (hc : c + 65536 ≤ s.clk) : resyncTimeout s n ok = resyncFailed s n ok := by
  simp [resyncTimeout, hs, hup, hc]
theorem resyncTimeout_running {s : State} {n c : Nat} (ok : Bool) (hs : (s.link n).sync = some c) (hc : s.clk < c + 65536) :
    resyncTimeout s n ok = s := by
  simp [resyncTimeout, hs, Nat.not_le_of_lt hc]

theorem resyncTimeout_first {s : State} {n c : Nat} (ok : Bool) (hup : linkUp s n = true) (hs : (s.link n).sync = some c)
    (hc : c + 65536 ≤ s.clk) (hf : (s.link n).fails = []) (hsi : (s.link n).since = []) : Resynced s (resyncTimeout s n ok) n [s.clk] := by
  rw [Resynced, resyncTimeout_late ok hup hs hc, resyncFailed_first ok hf hsi]
  exact ⟨rfl, rfl, rfl, rfl, rfl⟩

/-- The third resync that fails publishes the link at half width, and where it does not retrain, its loss. -/
theorem resyncTimeout_third {s : State} {n c t1 t2 : Nat} (ok : Bool) (hup : linkUp s n = true) (hs : (s.link n).sync = some c)
    (hc : c + 65536 ≤ s.clk) (hsi : (s.link n).since = [t1, t2]) (h1 : s.clk < t1 + 2400000000) (h2 : s.clk < t2 + 2400000000)
    (hn : n ≤ 192) (hm : Sorted s.sw.map) (hv : s.version + 2 < 2 ^ 64) :
    ∃ t, Published s t 6 true n 1
      ∧ t.mapWord (linkMix n) = linkWord 2 (field (s.mapWord (linkMix n)) 2 8 / 2) (field (s.mapWord (linkMix n)) 10 8)
      ∧ (ok = true → resyncTimeout s n ok = t)
      ∧ (ok = false → Published t (resyncTimeout s n ok) 7 true n 1 ∧ (resyncTimeout s n ok).mapWord (linkMix n) = linkWord 3 0 0) := by
  obtain ⟨u, hu, heq⟩ := resyncFailed_third ok hsi h1 h2
  have hst : field (u.mapWord (linkMix n)) 0 2 ≠ 3 := by
    rw [hu.mapWord]
    rcases Bool.or_eq_true_iff.mp hup with h | h
    · exact absurd hn (by simpa using h)
    · rcases Bool.or_eq_true_iff.mp h with h | h <;> rw [beq_iff_eq.mp h] <;> decide
  obtain ⟨hp, hw, hsort⟩ := linkNarrow_published hn hst (by rw [hu.1]; exact hm) (by rw [hu.version]; omega)
    (field (s.mapWord (linkMix n)) 2 8 / 2) (field (s.mapWord (linkMix n)) 10 8)
  have hps := published_congr hp hu.version (.refl _)
  refine ⟨_, hps, hw, fun hok => ?_, fun hok => ?_⟩ <;> rw [resyncTimeout_late ok hup hs hc, heq, hok]
  · rfl
  · exact linkLost_published hn (by rw [hw, field_linkWord]; decide) hsort (by rw [hps.1]; omega)

end Sys2Proof.Machine

open Sys2Proof Sys2Proof.Machine Sys2Proof.Spec

/-- Settles O51: each clause from the lemma that says what its event does. -/
theorem moduleEvents : Obligations.ModuleEvents := by
  intro s n g x l resync
  refine ⟨?ared, ?rwinAck, ?rwinWrite, ?audit, ?stall, ?timeout, ?bar0, ?bar0Refused, ?register, ?hdm, ?host, ?fabric, ?snoop, ?snoopLine, ?xred⟩
  case ared =>
    intro r k ty vs hs hn hw hacc
    have hexec := exec_aredMergeForward_first hn hw
    refine ⟨fun hh => ?_, fun hh hd => ?_⟩
    · obtain ⟨hareds, hnet⟩ := aredForward_sets_out hs hacc hh
      exact ⟨_, hexec, hareds, fun hd => by rw [hnet, if_pos hd], fun hd => by rw [hnet, if_neg hd]⟩
    · rw [aredForward_acknowledged hs hh hd] at hexec
      exact ⟨_, hexec, by simp [hs, hh], rfl⟩
  case rwinAck =>
    intro hp hv
    have hack : rwinAck s n = s.onRwin n fun x => { x with act := true, pend := false } := if_pos (by rw [hp, hv]; rfl)
    exact ⟨rwinAck s n, rfl, by rw [hack, State.rwin_onRwin]⟩
  case rwinWrite => exact fun hn => ⟨_, rfl, rwin_rwinWrite hn _ _⟩
  case audit =>
    intro a b c d e hup hw hvcs hlast hsync
    have hexec : exec .linkAudit s = .next (linkAudit s n [a, b, c, d, e] s.arg.flag) := by rw [← hw]; rfl
    exact ⟨fun he => ⟨_, hexec, linkAudit_agrees a b c d e _ hup hvcs hlast hsync he⟩,
      fun he hf => ⟨_, hexec, linkAudit_disagrees a b c d e _ hup hvcs hlast hsync he hf⟩⟩
  case stall =>
    intro hup hs
    refine ⟨fun h => ⟨linkStall s n, rfl, ?_⟩, fun h => congrArg Host.Outcome.next (linkStall_moving h)⟩
    rw [linkStall_dry hup hs h]; exact startResync_resynced s n
  case timeout =>
    intro c hup hs
    refine ⟨fun hc hf hsi => ⟨_, rfl, resyncTimeout_first s.arg.flag hup hs hc hf hsi⟩,
      fun hc => congrArg Host.Outcome.next (resyncTimeout_running s.arg.flag hs hc), fun t1 t2 hc hsi h1 h2 hn hm hv => ?_⟩
    obtain ⟨t, hp, hw, hkept, hlost⟩ := resyncTimeout_third s.arg.flag hup hs hc hsi h1 h2 hn hm hv
    exact ⟨fun hok => ⟨t, congrArg Host.Outcome.next (hkept hok), hp, hw⟩,
      fun hok => ⟨t, _, rfl, hp, hw, (hlost hok).1, (hlost hok).2⟩⟩
  case bar0 =>
    intro w off h hd
    refine ⟨fun hw => ?_, fun v rest hw => ?_⟩ <;> show Host.Outcome.next (hostBar0 s s.arg.w s.arg.words.head?) = _ <;> rw [hw]
    · exact congrArg _ (hostBar0_reads h hd)
    · exact congrArg _ (hostBar0_writes v h hd)
  case bar0Refused =>
    intro h
    refine ⟨fun hw => ?_, fun hw => ?_⟩ <;> show Host.Outcome.next (hostBar0 s s.arg.w s.arg.words.head?) = _ <;> rw [hostBar0_refused h]
    · rw [hw]; rfl
    · obtain ⟨v, rest, hv⟩ := List.exists_cons_of_ne_nil hw
      rw [hv]; rfl
  case register =>
    intro w off h hd
    refine ⟨fun hc => congrArg Host.Outcome.next (registerWrite_plain h hd hc), fun hc => ⟨capWrite s s.arg.w2, ?_, capWrite_sw s _⟩⟩
    exact congrArg Host.Outcome.next (registerWrite_cap h hd hc)
  case hdm =>
    intro d pa t ap va len hq hap hw
    refine ⟨fun hdata hl hh ht hb => ?_, fun bs hdata hl hh ht => ?_⟩ <;>
      show Host.Outcome.next (hostHdm s n s.arg.k s.arg.data) = _ <;> rw [hdata]
    · exact congrArg _ (hostHdm_alone hq (hdmAccess_read hap hw hl hh ht hb))
    · exact congrArg _ (hostHdm_alone hq (hdmAccess_write hap hw hl hh ht))
  case host =>
    intro r hnet hnear hhome hfirst hrel hdata hsrc hwhole off at' out
    have hexec : exec .hostWindowAccess s = .next (hostWindow s n none) := by rw [← hdata]; rfl
    have hat (hp : r.isSys = false) : AtHost s n r := ⟨hnet, hnear, hhome, hfirst, hrel, hp, hsrc, hwhole⟩
    have haligned (ha : off % 8 = 0) : addr r.piece.va % 8 = 0 := by simp only [off] at ha; omega
    rw [hexec]
    refine ⟨fun k q hq ha hk => ?_, fun hj => ⟨fun k hacc ha hk hin => ?_, fun bs hacc ha hk hin => ?_, fun i va k hacc hg => ?_,
      fun i va bs hacc hg hin => ?_⟩, fun hj hp hs => congrArg _ (hostWindow_refused (hat hp) hj hs)⟩
    · have hp : r.isSys = false := by
        rcases hq with ⟨hr, -⟩ | ⟨bs, hr, -⟩ <;> simp only [Req.isSys, hr]
      exact ⟨_, rfl, hostWindow_splits (hat hp) hq (haligned ha) hk⟩
    · exact congrArg _ (hostWindow_readRow (hat (by simp only [Req.isSys, hacc])) hj hacc (haligned ha) hk hin)
    · exact congrArg _ (hostWindow_writeRow (hat (by simp only [Req.isSys, hacc])) hj hacc (haligned ha) hk hin)
    · rw [hostWindow_load (hat (by simp only [Req.isSys, hacc])) hj hacc hg]
      exact ⟨fun hin => by rw [if_pos hin]; rfl, fun hin => by rw [if_neg (Nat.not_lt.mpr hin)]⟩
    · exact congrArg _ (hostWindow_store (hat (by simp only [Req.isSys, hacc])) hj hacc hg hin)
  case fabric =>
    intro f hg hv hsys hcas hcadd
    have hf := fabricAccess_sets_out hg hv hsys hcas hcadd
    exact ⟨fun hj => congrArg Host.Outcome.next (hf.trans (if_pos hj)), fun hj => congrArg Host.Outcome.next (hf.trans (if_neg (by simp [hj])))⟩
  case snoop =>
    intro r d pa k hnet hh hl
    obtain ⟨hnone, hline⟩ := snoopResponse_held hnet hh hl
    refine ⟨fun hdata => ?_, fun bs hdata hb => ?_⟩ <;> show Host.Outcome.next (snoopResponse s n s.arg.data) = _ <;> rw [hdata]
    · exact congrArg _ hnone
    · exact congrArg _ (hline bs hb)
  case snoopLine =>
    intro d pa hn hs hdata
    show Host.Outcome.next (snoopResponse s n s.arg.data) = _
    rw [hdata]
    exact congrArg _ (snoopResponse_line hn hs)
  case xred =>
    intro d es r t hchain hconts hlater hes hsrc hwhole hgate hsn hld after
    have h : OneRound s n d es r := ⟨hchain, hconts, hlater, hes, hsrc, hwhole, hgate, State.spend_self hsn hld⟩
    refine ⟨fun ha hd hlen hw => ⟨_, congrArg Host.Outcome.next (xredComplete_one h ha hd hlen hw), ?_⟩,
      fun hd => ⟨_, congrArg Host.Outcome.next (xredAbort_one h hd), ?_⟩⟩
    · have ht := jobWrite_only hw
      obtain ⟨hmem, hreps, hround, hc⟩ := endRound_one h (u := t) (by rw [ht]) 0
      exact ⟨hmem, by rw [hreps, ht], hround, hc⟩
    · obtain ⟨hsw, hr⟩ := abortedSum_one h
      obtain ⟨-, hreps, hround, hc⟩ := endRound_one h hsw 1
      exact ⟨⟨hround, hc⟩, by rw [hreps, hr]⟩

end

section
/-! SUPPORT. What a pseudo-channel's registers read once everything that has fallen due is taken up (R407, R410). -/

namespace Sys2Proof.Machine

/-! ## The two pseudo-channels of a channel -/

theorem twin_ne (p : Nat) : twin p ≠ p := by unfold twin; split <;> omega
theorem twin_twin (p : Nat) : twin (twin p) = p := by
  unfold twin
  rcases Nat.mod_two_eq_zero_or_one p with h | h
  · rw [if_pos h, if_neg (show ¬(p + 1) % 2 = 0 by omega), Nat.add_sub_cancel]
  · rw [if_neg (show ¬p % 2 = 0 by omega), if_pos (show (p - 1) % 2 = 0 by omega), Nat.sub_add_cancel (by omega)]
@[simp] theorem MDie.pc_set_same (c : MDie) (p : Nat) (x : PChan) : MDie.pc { c with pcs := AList.set c.pcs p x } p = x :=
  AList.getD_set_same _ _ _ _
theorem MDie.pc_set_other (c : MDie) (x : PChan) {p q : Nat} (h : q ≠ p) : MDie.pc { c with pcs := AList.set c.pcs p x } q = c.pc q :=
  AList.getD_set_other _ _ _ h

/-- A pseudo-channel that has changed is written to its die. -/
def MDie.takeUp (c : MDie) (p : Nat) (x : PChan) : MDie := if x = c.pc p then c else { c with pcs := AList.set c.pcs p x }

theorem MDie.takeUp_self (c : MDie) (p : Nat) : c.takeUp p (c.pc p) = c := if_pos rfl
theorem MDie.takeUp_only (c : MDie) (p : Nat) (x : PChan) : c.takeUp p x = { c with pcs := (c.takeUp p x).pcs } := by
  unfold MDie.takeUp; split <;> rfl
@[simp] theorem MDie.pc_takeUp_same (c : MDie) (p : Nat) (x : PChan) : (c.takeUp p x).pc p = x := by
  unfold MDie.takeUp
  split
  · next h => exact h.symm
  · exact MDie.pc_set_same _ _ _
theorem MDie.pc_takeUp_other (c : MDie) (x : PChan) {p q : Nat} (h : q ≠ p) : (c.takeUp p x).pc q = c.pc q := by
  unfold MDie.takeUp
  split
  · rfl
  · exact MDie.pc_set_other _ _ h

/-- Both pseudo-channels of a channel take up what has fallen due. -/
theorem State.mdie_catchPc (s : State) (d p : Nat) :
    (s.catchPc d p).mdie d = ((s.mdie d).takeUp p (s.pcNow d p)).takeUp (twin p) (s.pcNow d (twin p)) := by
  unfold State.catchPc
  dsimp only
  split
  · next h => rw [h.1, MDie.takeUp_self, h.2, MDie.takeUp_self]
  · rw [State.mdie_onMdie]; rfl

/-! ## Rises of REFDEBT and reads of the gleaner are taken up once (R407, R410) -/

/-- No rise of REFDEBT has fallen due since the last one taken up. -/
def PChan.Risen (x : PChan) (clk base : Nat) : Prop := (clk - max x.refdue base) / tRefi = 0

theorem PChan.Risen.risen {x : PChan} {clk base : Nat} (h : x.Risen clk base) : x.risen clk base = x := if_pos h
theorem PChan.risen_risen (x : PChan) (clk base : Nat) : (x.risen clk base).Risen clk base := by
  unfold PChan.risen PChan.Risen
  dsimp only
  split
  · assumption
  · simp only [tRefi]; omega

/-- The gleaner's progress is its next granule and when that is due. -/
theorem PChan.gleaned_only (x : PChan) (clk base intv cap : Nat) (ahead : Option Nat) :
    x.gleaned clk base intv cap ahead
      = { x with glnext := (x.gleaned clk base intv cap ahead).glnext, gldue := (x.gleaned clk base intv cap ahead).gldue } := by
  unfold PChan.gleaned
  dsimp only
  repeat' split
  all_goals rfl
theorem PChan.gleaned_off (x : PChan) (clk base cap : Nat) (ahead : Option Nat) : x.gleaned clk base 0 cap ahead = x := by
  simp [PChan.gleaned]
theorem PChan.gleaned_early {x : PChan} {clk base : Nat} (h : clk ≤ max x.gldue base) (intv cap : Nat) (ahead : Option Nat) :
    x.gleaned clk base intv cap ahead = x := if_pos (Or.inr (Or.inr h))
theorem PChan.gleaned_stopped (x : PChan) (clk base intv cap : Nat) : x.gleaned clk base intv cap (some 0) = x := by
  simp [PChan.gleaned]

/-- A gleaner that has read every granule before one with an error stands at that one. -/
theorem MDie.glAhead_advanced {c : MDie} {p next cap m : Nat} (hcap : 0 < cap) (h : c.glAhead p next cap = some m) :
    c.glAhead p ((next + m) % cap) cap = some 0 := by
  obtain ⟨hm, -⟩ := List.min?_eq_some_iff.mp h
  obtain ⟨g, hg, rfl⟩ := List.mem_map.mp hm
  have hlt : granuleNo g < cap := by simpa using (Bool.and_eq_true_iff.mp (List.mem_filter.mp hg).2).2
  refine List.min?_eq_some_iff.mpr ⟨List.mem_map.mpr ⟨g, hg, ?_⟩, fun _ _ => Nat.zero_le _⟩
  have hnext : (next + (granuleNo g + cap - next % cap) % cap) % cap = granuleNo g := by
    have hle : next % cap ≤ granuleNo g + cap := Nat.le_add_left_of_le (Nat.le_of_lt (Nat.mod_lt _ hcap))
    rw [Nat.add_mod_mod, ← Nat.mod_add_mod, Nat.add_sub_cancel' hle, Nat.add_mod_right, Nat.mod_eq_of_lt hlt]
  rw [hnext, Nat.mod_eq_of_lt hlt, Nat.add_sub_cancel_left, Nat.mod_self]

/-- The reads that have fallen due are taken up once. -/
theorem PChan.gleaned_gleaned (x : PChan) (clk base intv cap : Nat) (c : MDie) (p : Nat) :
    let y := x.gleaned clk base intv cap (c.glAhead p x.glnext cap)
    y.gleaned clk base intv cap (c.glAhead p y.glnext cap) = y := by
  intro y
  let k := (clk - 1 - max x.gldue base) / intv + 1
  let n := ((c.glAhead p x.glnext cap).map (min k)).getD k
  by_cases hoff : intv = 0 ∨ cap = 0 ∨ clk ≤ max x.gldue base
  · have hy : y = x := if_pos hoff
    rw [hy]; exact hy
  by_cases hn : n = 0
  · have hy : y = x := by simp only [y, PChan.gleaned, if_neg hoff]; exact if_pos hn
    rw [hy]; exact hy
  have hy : y = { x with glnext := (x.glnext + n) % cap, gldue := max x.gldue base + n * intv } := by
    simp only [y, PChan.gleaned, if_neg hoff]; exact if_neg hn
  have hall (hk : n = k) : clk ≤ max y.gldue base := by
    have hlt : clk - 1 - max x.gldue base < intv * k := Nat.lt_mul_div_succ _ (by omega)
    rw [hy, hk, Nat.mul_comm]
    show clk ≤ max (max x.gldue base + intv * k) base
    omega
  cases hahead : c.glAhead p x.glnext cap with
  | none => exact gleaned_early (hall (by simp [n, hahead])) _ _ _
  | some m =>
    have hmin : n = min k m := by simp [n, hahead]
    rcases Nat.le_total k m with hkm | hmk
    · exact gleaned_early (hall (by omega)) _ _ _
    · have hstop : c.glAhead p y.glnext cap = some 0 := by
        rw [hy, show n = m by omega]; exact MDie.glAhead_advanced (by omega) hahead
      rw [hstop]; exact gleaned_stopped _ _ _ _ _

/-! ## The registers as of now (R407, R410) -/

/-- A pseudo-channel in service has every rise of REFDEBT taken up, and then every read of its gleaner. -/
theorem State.pcNow_taken {s : State} {d : Nat} (hup : s.dieUp d = true) (p : Nat) :
    let c := s.mdie d
    ∃ x : PChan, x.Risen s.clk c.rbase ∧ s.pcNow d p = x.gleaned s.clk c.rbase c.glintv (s.pcCap d) (c.glAhead p x.glnext (s.pcCap d)) := by
  intro c
  unfold State.pcNow
  simp only [hup, Bool.not_true, Bool.false_eq_true, if_false]
  refine ⟨_, ?_, rfl⟩
  split <;> exact PChan.risen_risen _ _ _

/-- The two pseudo-channels of a channel in their order, as of a clk, seen from one of them. -/
theorem State.pcNow_pair {s : State} {d : Nat} (hup : s.dieUp d = true) (p : Nat) :
    let c := s.mdie d
    let x := if p % 2 = 0 then (pairNow s.clk c.rbase (c.pc p, c.pc (twin p))).1 else (pairNow s.clk c.rbase (c.pc (twin p), c.pc p)).2
    s.pcNow d p = x.gleaned s.clk c.rbase c.glintv (s.pcCap d) (c.glAhead p x.glnext (s.pcCap d)) := by
  intro c
  unfold State.pcNow
  rcases Nat.mod_two_eq_zero_or_one p with h | h
  · have he : p / 2 * 2 = p := by omega
    simp [hup, he, h, twin, c]
  · have he : p / 2 * 2 + 1 = p := by omega
    have he' : p / 2 * 2 = p - 1 := by omega
    have hne : p ≠ p - 1 := by omega
    have hs : p - 1 + 1 = p := by omega
    simp [hup, he', hs, h, hne, twin, c]

/-- While a demand, an RFM or a forced refresh waits, the rises of REFDEBT are all that falls due at a controller. -/
theorem State.pcNow_presses {s : State} {d : Nat} (hup : s.dieUp d = true) {p : Nat} (h : ((s.mdie d).pc p).presses = true) :
    let c := s.mdie d
    let x := (c.pc p).risen s.clk c.rbase
    s.pcNow d p = x.gleaned s.clk c.rbase c.glintv (s.pcCap d) (c.glAhead p x.glnext (s.pcCap d)) := by
  intro c x
  have hx : (if p % 2 = 0 then (pairNow s.clk c.rbase (c.pc p, c.pc (twin p))).1 else (pairNow s.clk c.rbase (c.pc (twin p), c.pc p)).2) = x := by
    split <;> simp [pairNow, h, c, x]
  rw [State.pcNow_pair hup p]
  simp only [c, hx] at hx ⊢


/-- A controller whose registers are up to date, and that has a demand, an RFM or a forced refresh waiting, has nothing else due. -/
theorem State.pcNow_settled {s u : State} {d p : Nat} (hup : s.dieUp d = true) (hsw : u.sw = s.sw) (hclk : u.clk = s.clk)
    (hdie : u.mdie d = { s.mdie d with pcs := (u.mdie d).pcs }) (hpc : (u.mdie d).pc p = s.pcNow d p) (hpress : (s.pcNow d p).presses = true) :
    u.pcNow d p = s.pcNow d p := by
  obtain ⟨x, hx, hnow⟩ := State.pcNow_taken hup p
  have hupu : u.dieUp d = true := by rw [← hup]; simp only [State.dieUp, State.dieState, State.mapWord, hsw]
  have hcap : u.pcCap d = s.pcCap d := by simp only [State.pcCap, State.capOf, State.mapWord, hsw]
  have hrise : (s.pcNow d p).Risen s.clk (s.mdie d).rbase := by rw [hnow, PChan.gleaned_only]; exact hx
  have hglean := PChan.gleaned_gleaned x s.clk (s.mdie d).rbase (s.mdie d).glintv (s.pcCap d) (s.mdie d) p
  rw [← hnow] at hglean
  rw [State.pcNow_presses hupu (by rw [hpc]; exact hpress), hpc, hclk, hcap, show (u.mdie d).rbase = (s.mdie d).rbase by rw [hdie], hrise.risen,
    show (u.mdie d).glintv = (s.mdie d).glintv by rw [hdie]]
  have hahead (next cap : Nat) : (u.mdie d).glAhead p next cap = (s.mdie d).glAhead p next cap := by rw [hdie]; rfl
  rw [hahead]
  exact hglean

/-- Of a memory die, taking up what has fallen due moves its pseudo-channels alone. -/
theorem State.mdie_catchPc_only (s : State) (d p : Nat) :
    (s.catchPc d p).mdie d = { s.mdie d with pcs := ((s.catchPc d p).mdie d).pcs } := by
  rw [State.mdie_catchPc, MDie.takeUp_only, MDie.takeUp_only (s.mdie d)]
theorem State.pc_catchPc (s : State) (d p : Nat) : ((s.catchPc d p).mdie d).pc p = s.pcNow d p := by
  rw [State.mdie_catchPc, MDie.pc_takeUp_other _ _ (twin_ne p).symm, MDie.pc_takeUp_same]
theorem State.pc_catchPc_twin (s : State) (d p : Nat) : ((s.catchPc d (twin p)).mdie d).pc p = s.pcNow d p := by
  rw [State.mdie_catchPc, twin_twin, MDie.pc_takeUp_same]

theorem State.mdie_onPc (s : State) (d p : Nat) (g : PChan → PChan) :
    (s.onPc d p g).mdie d = { s.mdie d with pcs := ((s.onPc d p g).mdie d).pcs } := by
  rw [State.onPc, State.mdie_onMdie, State.mdie_catchPc_only]
theorem State.pc_onPc_same (s : State) (d p : Nat) (g : PChan → PChan) : ((s.onPc d p g).mdie d).pc p = g (s.pcNow d p) := by
  rw [State.onPc, State.mdie_onMdie, MDie.pc_set_same, State.pc_catchPc]
theorem State.pc_onPc_twin (s : State) (d p : Nat) (g : PChan → PChan) : ((s.onPc d (twin p) g).mdie d).pc p = s.pcNow d p := by
  rw [State.onPc, State.mdie_onMdie, MDie.pc_set_other _ _ (twin_ne p).symm, State.pc_catchPc_twin]

theorem memDies_contains {d : Nat} (h8 : 8 ≤ d) (h12 : d < 12) : memDies.contains d = true := by
  simp [memDies]; omega

/-! ## Commands (R406 to R409) -/

/-- Where the other pseudo-channel asks for nothing and no bus has been granted, a controller's next command performs (R407, R408). -/
theorem pc_controllerSelect {s : State} {d p : Nat} {c : DCmd} (h8 : 8 ≤ d) (h12 : d < 12) (hp : p < 256) (hup : s.dieUp d = true)
    (hx : (s.pcNow d p).wants s.clk = some c) (hpress : (s.pcNow d p).presses = true) (hy : (s.pcNow d (twin p)).wants s.clk = none)
    (hxt : (s.pcNow d p).took s.clk c.onColumn = false) (hyt : (s.pcNow d (twin p)).took s.clk c.onColumn = false) :
    ((controllerSelect s d p).mdie d).pc p = ((s.pcNow d p).granted s.clk c.onColumn).perform s.clk (s.mdie d).rhth c := by
  let u := s.onPc d (twin p) fun y => y.passed c.onColumn false
  have hsel : controllerSelect s d p = u.onPc d p fun x => (x.granted u.clk c.onColumn).perform u.clk (u.mdie d).rhth c := by
    unfold controllerSelect
    simp only [memDies_contains h8 h12, hp, hup, hx, hy, hxt, hyt]
    rfl
  have hclk : u.clk = s.clk := by simp only [u]; rw [State.onPc_only]
  have hdie : u.mdie d = { s.mdie d with pcs := (u.mdie d).pcs } := State.mdie_onPc _ _ _ _
  have hnow : u.pcNow d p = s.pcNow d p :=
    State.pcNow_settled hup (by simp only [u]; rw [State.onPc_only]) hclk hdie (State.pc_onPc_twin _ _ _ _) hpress
  rw [hsel, State.pc_onPc_same, hnow, hclk, hdie]

end Sys2Proof.Machine
end

section
/-! SUPPORT. What one command leaves at a controller (R406 to R409), and the refreshes of a channel at rest (R407). -/

namespace Sys2Proof.Machine

/-! ## What each command leaves (R406 to R409) -/

section

variable {x : PChan} {clk : Nat}

theorem PChan.wants_due (h : x.next ≤ clk) : x.wants clk = x.nextCmd := if_neg (Nat.not_lt.mpr h)

/-- The next command, by the rows of the table of R407. -/
theorem PChan.nextCmd_refresh (hw : x.warm = false ∨ x.dem = []) (h : x.debt = 8) : x.nextCmd = some .refresh := by
  rcases hw with hw | hw <;> simp [PChan.nextCmd, hw, h]
theorem PChan.nextCmd_rfm (hw : x.warm = false ∨ x.dem = []) (h : x.debt ≠ 8) (ho : x.owed ≠ []) : x.nextCmd = some .rfm := by
  rcases hw with hw | hw <;> simp [PChan.nextCmd, hw, h, ho]
theorem PChan.nextCmd_column {b r : Nat} {rest : List (Nat × Nat)} (hd : x.dem = (b, r) :: rest)
    (h : x.warm = true ∨ x.debt ≠ 8 ∧ x.owed = [] ∧ AList.get? x.openr b = some r) : x.nextCmd = some .column := by
  cases hw : x.warm with
  | true => simp [PChan.nextCmd, hw, hd]
  | false =>
    obtain ⟨h8, ho, hr⟩ := h.resolve_left (by simp [hw])
    simp [PChan.nextCmd, PChan.demandCmd, hw, hd, h8, ho, hr]
theorem PChan.nextCmd_activate {b r : Nat} {rest : List (Nat × Nat)} (hd : x.dem = (b, r) :: rest) (hw : x.warm = false) (h8 : x.debt ≠ 8)
    (ho : x.owed = []) (hr : AList.get? x.openr b ≠ some r) : x.nextCmd = some .activate := by
  simp [PChan.nextCmd, PChan.demandCmd, hw, hd, h8, ho, hr]

/-- Learning from a request moves the row policy alone. -/
theorem PChan.learn_only (x : PChan) (b r : Nat) : x.learn b r = { x with policy := (x.learn b r).policy } := by
  unfold PChan.learn; split <;> rfl
/-- What is learnt from a request follows from the row last opened and the row policy. -/
theorem PChan.learn_policy {x y : PChan} (hl : x.lastr = y.lastr) (hp : x.policy = y.policy) (b r : Nat) :
    (x.learn b r).policy = (y.learn b r).policy := by
  unfold PChan.learn PChan.policyOf
  rw [hl, hp]
  split
  · exact hp
  · rfl

theorem perform_refresh (x : PChan) (clk th : Nat) : (x.granted clk false).perform clk th .refresh = { x with
    ref := x.ref + 1, debt := x.debt - 1, openr := [], next := clk + 840, denyR := 0, gotR := true, busR := clk + 1 } := rfl

theorem perform_rfm {b r : Nat} {rest : List (Nat × Nat)} (th : Nat) (ho : x.owed = (b, r) :: rest) :
    (x.granted clk false).perform clk th .rfm = { x with
      rfm := x.rfm + 1, boc := x.boc + 456, owed := rest, counts := AList.set x.counts (65536 * b + r) 0, openr := [], next := clk + 456
      denyR := 0, gotR := true, busR := clk + 1 } := by
  have hg : (x.granted clk false).owed = (b, r) :: rest := ho
  simp only [PChan.perform, PChan.doRfm, hg]
  rfl

theorem perform_column {b r : Nat} {rest : List (Nat × Nat)} (th : Nat) (hn : x.next ≤ clk) (hd : x.dem = (b, r) :: rest) :
    let q := if x.warm then x else { x.learn b r with hit := x.hit + 1 }
    (x.granted clk true).perform clk th .column = { q with
      dem := rest, warm := false, openr := if 2 ≤ q.policyOf b r then q.openr else AList.erase q.openr b
      next := clk + 1, denyC := 0, gotC := true, busC := clk + 1 } := by
  intro q
  have hnext : max x.next (clk + 1) = clk + 1 := by omega
  have hg : (x.granted clk true).dem = (b, r) :: rest := hd
  simp only [PChan.perform, hg, PChan.column]
  cases hw : x.warm with
  | true => simp [q, PChan.granted, hw, hd, hnext, PChan.policyOf]
  | false =>
    have hp := PChan.learn_policy (x := x.granted clk true) (y := x) rfl rfl b r
    rw [PChan.learn_only, hp]
    simp only [q, hw, PChan.granted, hnext]
    rw [PChan.learn_only x]
    simp [hd, PChan.policyOf, hw]

theorem perform_activate {b r : Nat} {rest : List (Nat × Nat)} (th : Nat) (hn : x.next ≤ clk) (hd : x.dem = (b, r) :: rest)
    (hw : x.warm = false) (ho : x.owed = []) :
    let k := AList.getD x.counts (65536 * b + r) 0 + 1
    (x.granted clk false).perform clk th .activate = { x.learn b r with
      act := x.act + 1, conf := if AList.get? x.openr b = none then x.conf else x.conf + 1, warm := true
      openr := AList.set x.openr b r, lastr := AList.set x.lastr b r, counts := AList.set x.counts (65536 * b + r) k
      alrt := if k = th then x.alrt + 1 else x.alrt, owed := if k = th then [(b, r)] else []
      next := clk + 1, denyR := 0, gotR := true, busR := clk + 1 } := by
  intro k
  have hnext : max x.next (clk + 1) = clk + 1 := by omega
  have hg : (x.granted clk false).dem = (b, r) :: rest := hd
  have hgw : (x.granted clk false).warm = false := hw
  have hp := PChan.learn_policy (x := x.granted clk false) (y := x) rfl rfl b r
  simp only [PChan.perform, hg, PChan.activate, hgw]
  rw [PChan.learn_only, hp, PChan.learn_only x]
  by_cases hk : k = th <;> cases hr : AList.get? x.openr b <;> simp_all [k, PChan.granted]

end

end Sys2Proof.Machine
end

section
/-! SUPPORT. A channel at rest, with every pulled-in refresh made, refreshes both its pseudo-channels with the next rise (R407, R408). -/

namespace Sys2Proof.Machine

/-- A pseudo-channel that has nothing to do before its next rise of REFDEBT: no demand, no RFM owed, and eight refreshes pulled in. -/
structure PChan.Rests (x : PChan) (start base : Nat) : Prop where
  dem : x.dem = []
  owed : x.owed = []
  debt : x.debt = -8
  since : max x.refdue base = start
  free : x.next ≤ start + tRefi
  row : x.busR ≤ start
  col : x.busC ≤ start

/-- A pseudo-channel with n refreshes before has made that of the rise at `due`, or in the clk after. -/
structure PChan.Refreshed (y : PChan) (n : Word) (due base : Nat) : Prop where
  ref : y.ref = n + 1
  debt : y.debt = -8
  rise : y.refdue = due
  closed : y.openr = []
  based : base ≤ due
  free : y.next ≤ due + 841
  row : y.busR ≤ due + 2
  col : y.busC ≤ due

theorem PChan.Refreshed.passed {y : PChan} {n : Word} {due base : Nat} (h : y.Refreshed n due base) (asked : Bool) :
    (y.passed false asked).Refreshed n due base :=
  ⟨h.ref, h.debt, h.rise, h.closed, h.based, h.free, h.row, h.col⟩

section

variable {x y : PChan} {n : Word} {clk start due base t : Nat}

theorem PChan.Rests.presses (h : x.Rests start base) : x.presses = false := by
  simp [PChan.presses, h.dem, h.owed, h.debt]
theorem PChan.Rests.passed (h : x.Rests start base) (asked : Bool) : (x.passed false asked).Rests start base :=
  ⟨h.dem, h.owed, h.debt, h.since, h.free, h.row, h.col⟩

theorem PChan.Rests.risen (h : x.Rests start base) (h1 : start + tRefi ≤ t) (h2 : t < start + 2 * tRefi) :
    x.risen t base = { x with debt := -7, refdue := start + tRefi } := by
  have hn : (t - start) / tRefi = 1 := by simp only [tRefi] at *; omega
  simp only [PChan.risen, h.since, hn, h.debt, if_neg Nat.one_ne_zero, Nat.one_mul]
  rfl
theorem PChan.Rests.risen_early (h : x.Rests start base) (h1 : t < start + tRefi) : x.risen t base = x := by
  refine PChan.Risen.risen ?_
  rw [PChan.Risen, h.since]; simp only [tRefi] at *; omega

/-- It asks for a refresh as REFDEBT rises. -/
theorem PChan.Rests.asks (h : x.Rests start base) (ht : t ≤ start + tRefi) : x.asks base t = start + tRefi := by
  have hfree := h.free
  have hsince := h.since
  rcases Nat.lt_or_eq_of_le (show max x.next (max base t) ≤ start + tRefi by omega) with hlt | heq
  · simp [PChan.asks, h.risen_early hlt, h.debt, h.since]
  · rw [PChan.asks, heq, h.risen (Nat.le_refl _) (by simp only [tRefi]; omega)]
    exact if_pos (show (-8 : Int) < -7 by decide)
/-- Once REFDEBT has risen it asks as soon as it may. -/
theorem PChan.Rests.asks_late (h : x.Rests start base) (h1 : start + tRefi ≤ t) (h2 : t < start + 2 * tRefi) : x.asks base t = t := by
  have hfree := h.free
  have hsince := h.since
  have ht : max x.next (max base t) = t := by omega
  rw [PChan.asks, ht, h.risen h1 h2]
  exact if_pos (show (-8 : Int) < -7 by decide)

theorem PChan.Rests.refreshAt (h : x.Rests start base) (h1 : start + tRefi ≤ t) (h2 : t < start + 2 * tRefi) :
    x.refreshAt t base = { x with
      ref := x.ref + 1, debt := -8, refdue := start + tRefi, openr := [], next := t + 840, denyR := 0, gotR := true, busR := t + 1 } := by
  rw [PChan.refreshAt, h.risen h1 h2]; rfl
theorem PChan.Rests.refreshed (h : x.Rests start base) (h1 : start + tRefi ≤ t) (h2 : t ≤ start + tRefi + 1) :
    (x.refreshAt t base).Refreshed x.ref (start + tRefi) base := by
  have hsince := h.since
  have hcol := h.col
  rw [h.refreshAt h1 (by simp only [tRefi] at *; omega)]
  exact ⟨rfl, rfl, rfl, rfl, by omega, show t + 840 ≤ _ by omega, show t + 1 ≤ _ by omega, show x.busC ≤ _ by omega⟩

/-- A pseudo-channel that has refreshed asks again with the rise after. -/
theorem PChan.Refreshed.asks (h : y.Refreshed n due base) (ht : t ≤ due + 841) : y.asks base t = due + tRefi := by
  have hfree := h.free
  have hsince : max y.refdue base = due := by rw [h.rise]; exact Nat.max_eq_left h.based
  have hrise : y.risen (max y.next (max base t)) base = y := by
    refine PChan.Risen.risen ?_
    have hbased := h.based
    rw [PChan.Risen, hsince]; simp only [tRefi]; omega
  rw [PChan.asks, hrise, h.debt, hsince]
  exact if_neg (by decide)
theorem PChan.Refreshed.risen (h : y.Refreshed n due base) (ht : t < due + tRefi) : y.risen t base = y := by
  refine PChan.Risen.risen ?_
  rw [PChan.Risen, h.rise, Nat.max_eq_left h.based]; simp only [tRefi] at *; omega

end

/-! ## The steps of a channel without demand (R407, R408) -/

/-- The clk from which a channel has had no demand, as its buses tell. -/
def pairSince (p : PChan × PChan) : Nat := max (max p.1.busR p.1.busC) (max p.2.busR p.2.busC)
theorem pairSince_swap (x y : PChan) : pairSince (x, y) = pairSince (y, x) := Nat.max_comm _ _

section

variable {p q r : PChan × PChan} {clk base a b : Nat} (ha : p.1.asks base (pairSince p) = a) (hb : p.2.asks base (pairSince p) = b)
include ha hb

/-- The first that asks refreshes; where both ask in one clk, the one that is granted the bus. -/
theorem pairStep_eq : pairStep clk base p =
    if clk ≤ min a b then none
    else if a < b || (a == b && grants (p.1.risen a base) (p.2.risen a base) true false) then
      some (p.1.refreshAt a base, p.2.passed false (a == b))
    else some (p.1.passed false (a == b), p.2.refreshAt b base) := by
  subst ha hb; rfl

theorem pairStep_none (h : clk ≤ min a b) : pairStep clk base p = none := by
  rw [pairStep_eq ha hb, if_pos h]
theorem pairStep_first (h : a < clk) (hlt : a < b) : pairStep clk base p = some (p.1.refreshAt a base, p.2.passed false false) := by
  rw [pairStep_eq ha hb, if_neg (by omega), if_pos (by simp [hlt]), beq_false_of_ne (Nat.ne_of_lt hlt)]
theorem pairStep_second (h : b < clk) (hlt : b < a) : pairStep clk base p = some (p.1.passed false false, p.2.refreshAt b base) := by
  rw [pairStep_eq ha hb, if_neg (by omega), beq_false_of_ne (Nat.ne_of_gt hlt), if_neg (by simp [Nat.le_of_lt hlt])]
theorem pairStep_tie (h : a < clk) (heq : a = b) :
    pairStep clk base p = some (p.1.refreshAt a base, p.2.passed false true)
      ∨ pairStep clk base p = some (p.1.passed false true, p.2.refreshAt a base) := by
  subst heq
  rw [pairStep_eq ha hb, if_neg (by omega), beq_self_eq_true]
  split
  · exact .inl rfl
  · exact .inr rfl

end

/-- Of a channel that has no further refresh before a clk, nothing else is due by then. -/
theorem pairIdle_of_steps {clk base n : Nat} {p q r : PChan × PChan} (hn : n + 3 = 64) (h1 : pairStep clk base p = some q)
    (h2 : pairStep clk base q = some r) (h3 : clk ≤ min (r.1.asks base (pairSince r)) (r.2.asks base (pairSince r))) :
    pairIdle clk base p = r := by
  have hsteps : pairSteps 64 clk base p = r := by
    rw [← hn]; simp [pairSteps, h1, h2, pairStep_none rfl rfl h3]
  unfold pairIdle
  simp only [hsteps]
  refine if_pos ?_
  change (clk - min (r.1.asks base (pairSince r)) (r.2.asks base (pairSince r))) / tRefi = 0
  rw [Nat.sub_eq_zero_of_le h3, Nat.zero_div]

/-! ## The two refreshes of one rise -/

section

variable {x z : PChan} {clk start base : Nat}

/-- When one pseudo-channel has refreshed at the rise, the other asks in the clk after. -/
theorem PChan.Rests.other_asks (hx : x.Rests start base) (hz : z.Rests start base) :
    let x' := x.refreshAt (start + tRefi) base
    pairSince (x', z) = start + tRefi + 1 ∧ x'.asks base (start + tRefi + 1) = start + tRefi + tRefi
      ∧ z.asks base (start + tRefi + 1) = start + tRefi + 1 := by
  intro x'
  have hxc := hx.col
  have hzr := hz.row
  have hzc := hz.col
  refine ⟨?_, (hx.refreshed (Nat.le_refl _) (by omega)).asks (by omega), hz.asks_late (by omega) (by simp only [tRefi]; omega)⟩
  simp only [pairSince, x', hx.refreshAt (Nat.le_refl _) (show start + tRefi < start + 2 * tRefi by simp only [tRefi]; omega)]
  omega

/-- A channel at rest refreshes both its pseudo-channels with the rise of REFDEBT, and no more until the next. -/
theorem pairIdle_rests (hx : x.Rests start base) (hz : z.Rests start base) (h1 : start + tRefi + 1 < clk) (h2 : clk < start + 2 * tRefi) :
    (pairIdle clk base (x, z)).1.Refreshed x.ref (start + tRefi) base ∧ (pairIdle clk base (x, z)).2.Refreshed z.ref (start + tRefi) base := by
  have hlt : start + tRefi + 1 < start + tRefi + tRefi := by simp only [tRefi]; omega
  have hsince : pairSince (x, z) ≤ start + tRefi := by
    have hxr := hx.row
    have hxc := hx.col
    have hzr := hz.row
    have hzc := hz.col
    simp only [pairSince]; omega
  -- however the steps end, both have refreshed and ask again only with the next rise
  have hdone {q : PChan × PChan} {y w : PChan} (hstep : pairStep clk base (x, z) = some q) (hstep' : pairStep clk base q = some (y, w))
      (hy : y.Refreshed x.ref (start + tRefi) base) (hw : w.Refreshed z.ref (start + tRefi) base) :
      (pairIdle clk base (x, z)).1.Refreshed x.ref (start + tRefi) base
        ∧ (pairIdle clk base (x, z)).2.Refreshed z.ref (start + tRefi) base := by
    have ht : pairSince (y, w) ≤ start + tRefi + 841 := by
      have hyr := hy.row
      have hyc := hy.col
      have hwr := hw.row
      have hwc := hw.col
      simp only [pairSince]; omega
    rw [pairIdle_of_steps (n := 61) rfl hstep hstep' (by rw [hy.asks ht, hw.asks ht]; omega)]
    exact ⟨hy, hw⟩
  rcases pairStep_tie (p := (x, z)) (hx.asks hsince) (hz.asks hsince) (show start + tRefi < clk by omega) rfl with hstep | hstep
  · obtain ⟨hs, ha, hb⟩ := hx.other_asks (hz.passed true)
    have hstep' := pairStep_second (p := (x.refreshAt (start + tRefi) base, z.passed false true)) (by rw [hs]; exact ha) (by rw [hs]; exact hb)
      h1 hlt
    have hy := (hx.refreshed (Nat.le_refl _) (by omega)).passed false
    have hw := (hz.passed true).refreshed (t := start + tRefi + 1) (by omega) (by omega)
    exact hdone hstep hstep' hy hw
  · obtain ⟨hs, ha, hb⟩ := hz.other_asks (hx.passed true)
    rw [pairSince_swap] at hs
    have hstep' := pairStep_first (p := (x.passed false true, z.refreshAt (start + tRefi) base)) (by rw [hs]; exact hb) (by rw [hs]; exact ha)
      h1 hlt
    have hy := (hx.passed true).refreshed (t := start + tRefi + 1) (by omega) (by omega)
    have hw := (hz.refreshed (Nat.le_refl _) (by omega)).passed false
    exact hdone hstep hstep' hy hw

/-- The same with every rise taken up. -/
theorem pairNow_rests (hx : x.Rests start base) (hz : z.Rests start base) (h1 : start + tRefi + 1 < clk) (h2 : clk < start + 2 * tRefi) :
    (pairNow clk base (x, z)).1.Refreshed x.ref (start + tRefi) base ∧ (pairNow clk base (x, z)).2.Refreshed z.ref (start + tRefi) base := by
  obtain ⟨hy, hw⟩ := pairIdle_rests hx hz h1 h2
  have hclk : clk < start + tRefi + tRefi := by omega
  simp only [pairNow, hx.presses, hz.presses, Bool.or_self, Bool.false_eq_true, if_false, hy.risen hclk, hw.risen hclk]
  exact ⟨hy, hw⟩

end

end Sys2Proof.Machine
end

section
/-! SUPPORT. Images, certificates and reports (R435 to R440), and bandwidth credit (R411). -/

namespace Sys2Proof.Machine

open Sys2Proof.Spec

/-! ## Firmware images (R435 to R437) -/

/-- The reason of a refusal is the number of the first check of R437 that fails. -/
theorem imageReason_eq_firstFailed (d : Nat) (i : List Byte) : imageReason d i = firstFailed d i := by
  simp only [imageReason, Bool.not_eq_true', bne_iff_ne, ne_eq]
  rfl

/-- An image that passes every check runs, with its SVN and digest on record; any other is refused with its reason. -/
theorem bootOf_cases (d : Nat) (i : List Byte) :
    firstFailed d i = 0 ∧ bootOf d i = { state := 2, svn := bytesNat i 0x06 2, wdig := (i.drop 0x10).take 48 }
      ∨ firstFailed d i ≠ 0 ∧ bootOf d i = { state := 3, reason := firstFailed d i } := by
  unfold bootOf
  rw [imageReason_eq_firstFailed]
  cases firstFailed d i with
  | zero => exact .inl ⟨rfl, rfl⟩
  | succ n => exact .inr ⟨Nat.succ_ne_zero n, rfl⟩

@[simp] theorem State.fw_setBoot (s : State) (d : Nat) (b : Boot) : (s.setBoot d b).fw d = b := AList.getD_set_same _ _ _ _
@[simp] theorem State.setBoot_map (s : State) (d : Nat) (b : Boot) : (s.setBoot d b).sw.map = s.sw.map := rfl
theorem State.program_only (s : State) (d : Nat) (i : Option (List Byte)) :
    s.program d i = { s with sw := { s.sw with flash := (s.program d i).sw.flash } } := by
  cases i <;> rfl
/-- The flash holds what the input has programmed for a class, or what it held before. -/
theorem State.flash_program (s : State) (d : Nat) (i : Option (List Byte)) :
    (s.program d i).flash (dieClass d) = i.getD (s.flash (dieClass d)) := by
  cases i with
  | none => rfl
  | some bs => exact AList.getD_set_same _ _ _ _

section

variable {s : State} {d : Nat} (hd : d < 12) (hs : s.dieState d = 0) (hoff : (s.heat d).off = false) (hrun : s.switchRuns = true)
include hd hs hoff hrun

/-- A die that has loaded nothing is sent the image of its class. -/
theorem firmwareVerify_sends (i : Option (List Byte)) (h : (s.fw d).state = 0) :
    (firmwareVerify s d i).fw d = { state := 1, img := i.getD (s.flash (dieClass d)) } ∧ (firmwareVerify s d i).sw.map = s.sw.map := by
  have heq : firmwareVerify s d i = (s.program d i).setBoot d { state := 1, img := (s.program d i).flash (dieClass d) } := by
    simp [firmwareVerify, hs, hoff, hrun, h, show ¬12 ≤ d by omega]
  rw [heq, State.fw_setBoot, State.flash_program, State.setBoot_map, State.program_only]
  exact ⟨rfl, rfl⟩
/-- A die that has been sent an image verifies it. -/
theorem firmwareVerify_verifies (i : Option (List Byte)) (h : (s.fw d).state = 1) :
    firmwareVerify s d i = s.setBoot d (bootOf d (s.fw d).img) := by
  simp [firmwareVerify, hs, hoff, hrun, h, show ¬12 ≤ d by omega]

end

/-! ## Certificates (R438, R439) -/

@[simp] theorem fit_length (n : Nat) (bs : List Byte) : (fit n bs).length = n := by simp [fit]
theorem certBody_length (k leaf : Nat) : (certBody k leaf).length = 176 := by simp [certBody, lmsKey]
theorem makeCert_length (k leaf : Nat) : (makeCert k leaf).length = 0xB80 := by simp [makeCert, certBody_length]
/-- A number written at the head of some bytes is read there, and what follows it after it. -/
theorem bytesNat_head (b : List Byte) (n x : Nat) : bytesNat (toBytes n x ++ b) 0 n = x % 256 ^ n := by
  rw [bytesNat, List.drop_zero, List.take_left' (toBytes_length n x), ofBytes_toBytes]
theorem bytesNat_skip (b : List Byte) (n x m : Nat) : bytesNat (toBytes n x ++ b) n m = bytesNat b 0 m := by
  rw [bytesNat, List.drop_left' (toBytes_length n x), bytesNat, List.drop_zero]
/-- A certificate starts with its magic number and the leaf that signs it. -/
theorem makeCert_head (k : Nat) {leaf : Nat} (h : leaf < 2 ^ 15) :
    bytesNat (makeCert k leaf) 0 4 = 0x4E414331 ∧ bytesNat (makeCert k leaf) 4 4 = leaf := by
  simp only [makeCert, certBody, List.append_assoc]
  rw [bytesNat_head, bytesNat_skip, bytesNat_head]
  exact ⟨by decide, Nat.mod_eq_of_lt (Nat.lt_trans h (by decide))⟩

/-! ## The Deuri link trains (R21, R435, R438) -/

/-- The image that the switch die verifies as the link trains. -/
def switchImage (s : State) (i : Option (List Byte)) : List Byte := i.getD (s.flash 2)

/-- The module as the switch die leaves reset, its own image verified and no version published. -/
def switchBooted (s : State) (i : Option (List Byte)) : State :=
  (((powerDown s).program 12 i).setBoot 12 (bootOf 12 (switchImage s i))).onSw fun w => { w with
    trained := true, powered := true, resets := w.resets + 1, map := AList.set w.map 288 0x20041 }

/-- Version 1, vector 0 and a certificate by the next leaf of the identity tree, if one is left. -/
def switchStarted (s : State) (i : Option (List Byte)) : State :=
  (switchBooted s i).onSw fun w => { w with
    map := ({} : Switch).map, msi0 := 1, idleaf := w.idleaf + bit (decide (w.idleaf < 2 ^ 15))
    cert := if decide (w.idleaf < 2 ^ 15) then makeCert w.resets w.idleaf else [] }

section

variable {s : State} (i : Option (List Byte))

/-- Nothing runs after a reset of the switch die; the leaves of the identity tree stay used. -/
theorem switchBooted_fields :
    let u := switchBooted s i
    u.fw 12 = bootOf 12 (switchImage s i) ∧ u.clk = 0 ∧ u.ct = [] ∧ u.mt = [] ∧ u.md = [] ∧ u.sw.trained = true ∧ u.sw.powered = true
      ∧ u.sw.resets = s.sw.resets + 1 ∧ u.sw.idleaf = s.sw.idleaf ∧ u.sw.map = [(1, 0x00075300), (288, 0x20041)] := by
  rw [switchBooted, State.program_only]
  exact ⟨rfl, rfl, rfl, rfl, rfl, rfl, rfl, rfl, rfl, rfl⟩

theorem deuriTrain_boots (h : s.sw.trained = false) :
    deuriTrain s i = if firstFailed 12 (switchImage s i) = 0 then switchStarted s i else switchBooted s i := by
  have hflash : ((powerDown s).program 12 i).flash 2 = switchImage s i := State.flash_program (powerDown s) 12 i
  have hfw : (switchBooted s i).fw 12 = bootOf 12 (switchImage s i) := State.fw_setBoot _ _ _
  have heq : deuriTrain s i = if !(switchBooted s i).switchRuns then switchBooted s i else switchStarted s i := by
    unfold deuriTrain
    simp only [h, hflash]
    rfl
  rw [heq, State.switchRuns, hfw]
  rcases bootOf_cases 12 (switchImage s i) with ⟨hf, hb⟩ | ⟨hf, hb⟩ <;> rw [hb]
  · rw [if_pos hf]; rfl
  · rw [if_neg hf]; rfl

/-- The switch die with an image that it refuses publishes no version. -/
theorem switchBooted_unpublished :
    (switchBooted s i).version = 0 ∧ (switchBooted s i).dieState 12 = 0 ∧ (switchBooted s i).sw.idleaf = s.sw.idleaf := by
  obtain ⟨-, -, -, -, -, -, -, -, hleaf, hmap⟩ := switchBooted_fields (s := s) i
  rw [State.version, State.dieState, State.mapWord, State.mapWord, hmap]
  exact ⟨by decide, by decide, hleaf⟩

theorem switchStarted_version : (switchStarted s i).version = 1 ∧ (switchStarted s i).sw.msi0 = 1 := ⟨rfl, rfl⟩
/-- A certificate takes a leaf of the identity tree, while one is left. -/
theorem switchStarted_cert (h : s.sw.idleaf < 2 ^ 15) :
    (switchStarted s i).sw.idleaf = s.sw.idleaf + 1 ∧ (switchStarted s i).sw.cert = makeCert (s.sw.resets + 1) s.sw.idleaf := by
  obtain ⟨-, -, -, -, -, -, -, hresets, hleaf, -⟩ := switchBooted_fields (s := s) i
  simp only [switchStarted, State.onSw, hleaf, hresets, decide_eq_true h]
  exact ⟨rfl, rfl⟩
theorem switchStarted_spent (h : 2 ^ 15 ≤ s.sw.idleaf) :
    (switchStarted s i).sw.idleaf = s.sw.idleaf ∧ (switchStarted s i).sw.cert = [] := by
  obtain ⟨-, -, -, -, -, -, -, -, hleaf, -⟩ := switchBooted_fields (s := s) i
  simp only [switchStarted, State.onSw, hleaf, decide_eq_false (Nat.not_lt.mpr h)]
  exact ⟨rfl, rfl⟩

/-- Whatever its image, the switch die is powered and the rest of the module stands as at power-off. -/
theorem deuriTrain_resets (h : s.sw.trained = false) :
    let u := deuriTrain s i
    u.fw 12 = bootOf 12 (switchImage s i) ∧ u.clk = 0 ∧ u.ct = [] ∧ u.mt = [] ∧ u.md = []
      ∧ u.sw.trained = true ∧ u.sw.powered = true ∧ u.sw.resets = s.sw.resets + 1 := by
  obtain ⟨hfw, hclk, hct, hmt, hmd, htr, hpow, hres, -, -⟩ := switchBooted_fields (s := s) i
  rw [deuriTrain_boots i h]
  split <;> exact ⟨hfw, hclk, hct, hmt, hmd, htr, hpow, hres⟩

end

/-! ## Reports (R440) -/

/-- What the report in progress leaves alone: the tiles, the leaves, the certificate and JID. -/
def SameReports (s u : State) : Prop :=
  u.ct = s.ct ∧ u.mt = s.mt ∧ u.sw.attleaf = s.sw.attleaf ∧ u.sw.attjid = s.sw.attjid ∧ u.sw.cert = s.sw.cert

theorem SameReports.refl (s : State) : SameReports s s := ⟨rfl, rfl, rfl, rfl, rfl⟩
theorem SameReports.trans {s t u : State} (h : SameReports s t) (k : SameReports t u) : SameReports s u := by
  obtain ⟨hct, hmt, hleaf, hjid, hcert⟩ := h
  obtain ⟨kct, kmt, kleaf, kjid, kcert⟩ := k
  exact ⟨kct.trans hct, kmt.trans hmt, kleaf.trans hleaf, kjid.trans hjid, kcert.trans hcert⟩
/-- A change of memory and memory dies alone. -/
theorem SameReports.of_memory {s u : State} (h : u = { s with mem := u.mem, md := u.md }) : SameReports s u := by
  rw [h]; exact .refl s
theorem SameReports.foldl {α : Type} {g : State → α → State} (hg : ∀ s x, SameReports s (g s x)) (s : State) (xs : List α) :
    SameReports s (xs.foldl g s) :=
  foldl_keeps (P := SameReports s) (fun u x h => h.trans (hg u x)) xs (.refl s)
theorem attCode_sameReports (s : State) (n : Nat) : SameReports s (attCode s n) := ⟨rfl, rfl, rfl, rfl, rfl⟩

theorem lineArrive_sameReports (s : State) (d pa n : Nat) (tc1 : Bool) : SameReports s (s.lineArrive d pa n tc1) := by
  refine .of_memory ?_
  unfold State.lineArrive
  dsimp only
  repeat' split
  all_goals rfl
theorem lineTake_sameReports (s : State) (st d pa n : Nat) : SameReports s (s.lineTake st d pa n) := by
  refine .of_memory ?_
  unfold State.lineTake
  dsimp only
  split <;> rfl
theorem spend_sameReports (s : State) : SameReports s s.spend := by
  unfold State.spend State.lineDone
  split <;> exact ⟨rfl, rfl, rfl, rfl, rfl⟩
theorem gate_sameReports (s : State) (ls : List (Nat × Nat × Nat)) (tc1 : Bool) : SameReports s (s.gate ls tc1).1 := by
  unfold State.gate
  dsimp only
  repeat' split
  · exact .foldl (fun s l => lineArrive_sameReports _ _ _ _ _) _ _
  · exact .foldl (fun s l => lineTake_sameReports _ _ _ _ _) _ _
  · exact ⟨rfl, rfl, rfl, rfl, rfl⟩
theorem tlbGate_sameReports (s : State) (jid va n : Nat) (need : Need) : SameReports s (s.tlbGate jid va n need).1 := by
  unfold State.tlbGate State.accessGate
  dsimp only
  split
  · exact .refl s
  · exact gate_sameReports _ _ _
theorem tlbLook_sameReports (s : State) (d jid : Nat) (va : Word) : SameReports s (tlbLook s d jid va).2 := by
  unfold tlbLook
  dsimp only
  repeat' split
  all_goals exact .of_memory rfl
theorem tlbLocate_sameReports (s : State) (jid : Nat) (va : Word) (need : Need) : SameReports s (tlbLocate s jid va need).2 := by
  unfold tlbLocate
  split
  · exact .refl s
  · exact .refl s
  · next v _ =>
    split
    · exact .refl s
    · exact .refl s
    · next d _ =>
      have h := tlbLook_sameReports s d jid v
      split
      · next hl => rw [hl] at h; exact h
      · next hl =>
        rw [hl] at h
        dsimp only
        repeat' split
        all_goals exact h

/-- The lines of a report land in memory. -/
theorem attServe_sameReports (k : Nat) (s : State) : SameReports s (attServe k s) := by
  induction k generalizing s with
  | zero => exact .refl s
  | succ k ih =>
    unfold attServe
    split
    · exact .refl s
    · next jid va bs _ =>
      split
      · exact attCode_sameReports _ _
      · have hgate := tlbGate_sameReports s jid va (min 64 bs.length) .w
        split
        · next hg => rw [hg] at hgate; exact hgate
        · next t hg =>
          rw [hg] at hgate
          have hloc := tlbLocate_sameReports t jid (w64 va) .w
          split
          · next hl => rw [hl] at hloc; exact (hgate.trans hloc).trans (attCode_sameReports _ _)
          · next p v hl =>
            rw [hl] at hloc
            have hwrite := (spend_sameReports v).trans (.of_memory (Spot.write_only v.spend (bs.take 64) p))
            exact ((hgate.trans hloc).trans (hwrite.trans ⟨rfl, rfl, rfl, rfl, rfl⟩)).trans (ih _)

section

variable {s : State} {v : Word}

/-- A write of ATTCTL without GO, or while a report is in progress, sets JID alone. -/
theorem attctlGo_ignored (h : field v 0 1 = 0 ∨ s.sw.attrep ≠ none) : attctlGo s v = s.onSw fun x => { x with attjid := field v 4 12 } := by
  refine if_pos (h.imp id fun hr => ?_)
  exact Option.isSome_iff_ne_none.mpr hr

variable (hgo : field v 0 1 = 1) (hr : s.sw.attrep = none)
include hgo hr

/-- A report is refused for want of a certificate, then for want of a leaf. -/
theorem attctlGo_uncertified (hc : s.sw.cert = []) :
    attctlGo s v = (s.onSw fun x => { x with attjid := field v 4 12 }).onSw fun x => { x with attcode := 3 } := by
  simp [attctlGo, hgo, hr, hc, attCode, State.onSw]
theorem attctlGo_exhausted (hc : s.sw.cert ≠ []) (hl : 32768 ≤ s.sw.attleaf) :
    attctlGo s v = (s.onSw fun x => { x with attjid := field v 4 12 }).onSw fun x => { x with attcode := 2 } := by
  simp [attctlGo, hgo, hr, hc, hl, attCode, State.onSw]

/-- Any other report takes a leaf, whether its lines may land or not. -/
theorem attctlGo_unaligned (hc : s.sw.cert ≠ []) (hl : s.sw.attleaf < 32768) (hd : s.sw.attdst % 64 ≠ 0) :
    attctlGo s v = (s.onSw fun x => { x with attjid := field v 4 12 }).onSw fun x => { x with attcode := 1, attleaf := x.attleaf + 1 } := by
  simp [attctlGo, hgo, hr, hc, Nat.not_le.mpr hl, hd, attCode, State.onSw]
theorem attctlGo_signs (hc : s.sw.cert ≠ []) (hl : s.sw.attleaf < 32768) :
    SameReports (s.onSw fun x => { x with attjid := field v 4 12, attleaf := x.attleaf + 1 }) (attctlGo s v) := by
  by_cases hd : s.sw.attdst % 64 = 0
  · have heq : attctlGo s v = attServe attFuel ((s.onSw fun x => { x with attjid := field v 4 12, attleaf := x.attleaf + 1 }).onSw fun w =>
        { w with attrep := some (w.attjid, w.attdst, report (s.onSw fun x => { x with attjid := field v 4 12 })) }) := by
      simp [attctlGo, hgo, hr, hc, Nat.not_le.mpr hl, hd, State.onSw]
    rw [heq]
    refine SameReports.trans ?_ (attServe_sameReports _ _)
    exact ⟨rfl, rfl, rfl, rfl, rfl⟩
  · rw [attctlGo_unaligned hgo hr hc hl hd]
    exact ⟨rfl, rfl, rfl, rfl, rfl⟩

end

/-! ## Bandwidth (R411) -/

/-- A job's only account at a tile gains all that there is to gain. -/
theorem shareGain_alone (share : Nat) : shareGain share share 1 = 16384 := by
  unfold shareGain
  split
  · exact Nat.mul_div_cancel _ ‹_›
  · rfl

theorem bandwidthUpdate_early {s : State} {t : Nat} (h : s.clk / 1024 * 1024 ≤ (s.tile t).bwlast) : bandwidthUpdate s t = s := by
  have hn : s.clk / 1024 - (s.tile t).bwlast / 1024 = 0 := by omega
  simp [bandwidthUpdate, hn]

/-- The credit of an only account: that of the period that ends, and that of each further period in which a request of the job waits. -/
theorem bandwidthUpdate_alone {s : State} {t k : Nat} {a : Acct} (ha : (s.tile t).accts = [(k, a)]) (hact : a.active = true)
    (h : (s.tile t).bwlast < s.clk / 1024 * 1024) :
    bandwidthUpdate s t = s.onTile t fun c => { c with
      bwlast := s.clk / 1024 * 1024, accts := [(k, { a with
        active := jobQueued s t a.jid
        credit := min 32768 (a.credit + 16384 * (if jobQueued s t a.jid then s.clk / 1024 - (s.tile t).bwlast / 1024 else 1)) })] } := by
  have hn : 0 < s.clk / 1024 - (s.tile t).bwlast / 1024 := by omega
  have hupd : bandwidthUpdate s t = bandwidthGain s t (s.clk / 1024 - (s.tile t).bwlast / 1024) := by
    simp [bandwidthUpdate, ha, Nat.ne_of_gt hn]
  have hsum : a.credit + 16384 + (s.clk / 1024 - (s.tile t).bwlast / 1024 - 1) * 16384
      = a.credit + 16384 * (s.clk / 1024 - (s.tile t).bwlast / 1024) := by omega
  rw [hupd]
  cases hq : jobQueued s t a.jid <;> simp [bandwidthGain, State.onTile, ha, hact, hq, shareGain_alone, hsum]

end Sys2Proof.Machine
end

section
/-! DRAM channels, firmware images and the certificate (R21, R387, R407 to R411, R435 to R440). -/

namespace Sys2Proof.Machine

open Sys2Proof.Spec

/-! ## What is due at a die (R407, R410) -/

/-- REFRESH_TICK takes up what has fallen due. -/
theorem pc_refreshTick {s : State} {d p : Nat} (h8 : 8 ≤ d) (h12 : d < 12) (hp : p < 256) :
    ((refreshTick s d p).mdie d).pc p = s.pcNow d p := by
  simp only [refreshTick, memDies_contains h8 h12, hp, decide_true, Bool.and_self, if_true, State.pc_catchPc]

/-- With the gleaner off, a channel whose demands wait takes up the rises of REFDEBT alone. -/
theorem State.pcNow_demanded {s : State} {d p : Nat} (hup : s.dieUp d = true) (hgl : (s.mdie d).glintv = 0)
    {e : Nat × Nat} {l : List (Nat × Nat)} (hd : ((s.mdie d).pc p).dem = e :: l) : s.pcNow d p = ((s.mdie d).pc p).risen s.clk (s.mdie d).rbase := by
  rw [State.pcNow_presses hup (by simp [PChan.presses, hd]), hgl, PChan.gleaned_off]

/-- A channel at rest, with the gleaner off, makes one refresh at each pseudo-channel with the rise of REFDEBT. -/
theorem State.pcNow_rests {s : State} {d p start : Nat} (hup : s.dieUp d = true) (hgl : (s.mdie d).glintv = 0)
    (hx : ((s.mdie d).pc p).Rests start (s.mdie d).rbase) (hz : ((s.mdie d).pc (twin p)).Rests start (s.mdie d).rbase)
    (h1 : start + tRefi + 1 < s.clk) (h2 : s.clk < start + 2 * tRefi) :
    (s.pcNow d p).Refreshed ((s.mdie d).pc p).ref (start + tRefi) (s.mdie d).rbase := by
  rw [State.pcNow_pair hup p, hgl, PChan.gleaned_off]
  split
  · exact (pairNow_rests hx hz h1 h2).1
  · exact (pairNow_rests hz hx h1 h2).2

/-- The gleaner's turn: it reads the granule that is due, if it is free to (R410). -/
theorem gleanerRead_due {s : State} {d p cap : Nat} (h8 : 8 ≤ d) (h12 : d < 12) (hp : p < 256) (hup : s.dieUp d = true)
    (hgl : (s.mdie d).glintv ≠ 0) (hcap : s.pcCap d = cap) (hlive : cap ≠ 0) (hdue : max (s.pcNow d p).gldue (s.mdie d).rbase ≤ s.clk)
    (hturn : gleanerTurn s d p = true) :
    let x := s.pcNow d p
    let g := pcGranule p (x.glnext % cap)
    let rd := (s.catchPc d p).onMdie d fun c => { c with pcs := AList.set c.pcs p { x with
      glnext := (x.glnext % cap + 1) % cap, gldue := max x.gldue (s.mdie d).rbase + c.glintv
      busR := s.clk + 1, busC := s.clk + 1 } }
    (g ∈ (s.mdie d).ue → gleanerRead s d p = rd.onMdie d fun c => { c with glue := (c.glue + 1) % 2 ^ 32, gllog := g })
    ∧ (g ∉ (s.mdie d).ue → g ∈ (s.mdie d).ce → gleanerRead s d p = rd.onMdie d fun c => { c with
        glce := (c.glce + 1) % 2 ^ 32, ce := c.ce.filter (· != g) })
    ∧ (g ∉ (s.mdie d).ue → g ∉ (s.mdie d).ce → gleanerRead s d p = rd) := by
  intro x g rd
  have hrd : (s.onPc d p fun y => { y with
      glnext := (x.glnext % cap + 1) % cap, gldue := max x.gldue (s.mdie d).rbase + (s.mdie d).glintv
      busR := s.clk + 1, busC := s.clk + 1 }) = rd := by
    have hintv : ((s.catchPc d p).mdie d).glintv = (s.mdie d).glintv := by rw [State.mdie_catchPc_only]
    simp only [State.onPc, State.onMdie, State.pc_catchPc, rd, x, hintv]
  have hread : gleanerRead s d p =
      if (s.mdie d).ue.contains g then rd.onMdie d fun c => { c with glue := (c.glue + 1) % 2 ^ 32, gllog := g }
      else if (s.mdie d).ce.contains g then rd.onMdie d fun c => { c with glce := (c.glce + 1) % 2 ^ 32, ce := c.ce.filter (· != g) }
      else rd := by
    rw [← hrd]
    unfold gleanerRead
    simp only [hcap]
    refine if_neg ?_
    simp only [memDies_contains h8 h12, hp, hup, hturn, beq_false_of_ne hgl, beq_false_of_ne hlive, decide_eq_false (Nat.not_lt.mpr hdue)]
    decide
  rw [hread]
  simp only [List.contains_iff_mem]
  exact ⟨fun hue => if_pos hue, fun hue hce => (if_neg hue).trans (if_pos hce), fun hue hce => (if_neg hue).trans (if_neg hce)⟩

end Sys2Proof.Machine

open Sys2Proof Sys2Proof.Machine Sys2Proof.Spec

/-- Settles O52: each clause from the lemma that says what its event does. -/
theorem channelsAndFirmware : Obligations.ChannelsAndFirmware := by
  intro s d n image c p y up boot
  have hboot {u : State} {k : Nat} {i : List Byte} (h : u.fw k = bootOf k i) : boot u k i :=
    (bootOf_cases k i).imp (fun hi => ⟨hi.1, h.trans hi.2⟩) fun hi => ⟨hi.1, h.trans hi.2⟩
  refine ⟨?train, rfl, ?firmware, ?report, ?refresh, ?command, ?gleaner, ?bandwidth⟩
  case train =>
    intro h
    obtain ⟨hfw, hclk, hct, hmt, hmd, htr, hpow, hres⟩ := deuriTrain_resets s.arg.data h
    refine ⟨_, rfl, hboot hfw, hclk, hct, hmt, hmd, htr, hpow, hres, fun (hf : firstFailed 12 (switchImage s s.arg.data) ≠ 0) => ?_,
      fun (hf : firstFailed 12 (switchImage s s.arg.data) = 0) => ?_⟩
    · rw [deuriTrain_boots _ h, if_neg hf]
      exact switchBooted_unpublished _
    · rw [deuriTrain_boots _ h, if_pos hf]
      obtain ⟨hv, hmsi⟩ := switchStarted_version (s := s) s.arg.data
      refine ⟨hv, hmsi, fun hl => ?_, fun hl => switchStarted_spent _ hl⟩
      obtain ⟨hleaf, hcert⟩ := switchStarted_cert s.arg.data hl
      rw [hcert]
      exact ⟨hleaf, makeCert_length _ _, makeCert_head _ hl⟩
  case firmware =>
    intro hd hs hoff hrun
    refine ⟨fun h => ⟨_, rfl, firmwareVerify_sends hd hs hoff hrun s.arg.data h⟩, fun h => ⟨_, rfl, ?_⟩⟩
    rw [firmwareVerify_verifies hd hs hoff hrun s.arg.data h]
    exact ⟨hboot (State.fw_setBoot _ _ _), State.setBoot_map _ _ _⟩
  case report =>
    intro w j
    refine ⟨fun h => congrArg _ (attctlGo_ignored h), fun hgo hr => ⟨fun hc => congrArg _ (attctlGo_uncertified hgo hr hc),
      fun hc hl => congrArg _ (attctlGo_exhausted hgo hr hc hl), fun hc hl hd => congrArg _ (attctlGo_unaligned hgo hr hc hl hd),
      fun hc hl => ⟨_, rfl, ?_⟩⟩⟩
    obtain ⟨hct, hmt, hleaf, hjid, hcert⟩ := attctlGo_signs hgo hr hc hl
    exact ⟨hleaf, hjid, hct, hmt, hcert⟩
  case refresh =>
    intro q z start k hup hgl
    obtain ⟨h8, h12, hn, hdie⟩ := hup
    refine ⟨fun e hd => ⟨_, rfl, ?_⟩, fun hd ho hdebt hd' ho' hdebt' hstart hf hf' hr hc hr' hc' h1 h2 => ⟨_, rfl, ?_⟩⟩
    · rw [pc_refreshTick h8 h12 hn, State.pcNow_demanded hdie hgl hd]
      rfl
    · have hx : q.Rests start c.rbase := ⟨hd, ho, hdebt, rfl, hf, hr, hc⟩
      have hz : z.Rests start c.rbase := ⟨hd', ho', hdebt', hstart, hf', hr', hc'⟩
      have h := State.pcNow_rests hdie hgl hx hz h1 h2
      rw [← pc_refreshTick h8 h12 hn] at h
      exact ⟨h.ref, h.debt, h.rise, h.closed⟩
  case command =>
    intro did row hup hnext hy hrow hcol hrow' hcol'
    obtain ⟨h8, h12, hn, hdie⟩ := hup
    have hrun {cmd : DCmd} {col : Bool} (hon : cmd.onColumn = col) (hcmd : p.nextCmd = some cmd) (hpress : p.presses = true) :
        did ((p.granted s.clk col).perform s.clk c.rhth cmd) := by
      subst hon
      refine ⟨_, rfl, pc_controllerSelect h8 h12 hn hdie ((PChan.wants_due hnext).trans hcmd) hpress hy ?_ ?_⟩ <;>
        cases cmd.onColumn <;> exact beq_false_of_ne ‹_›
    refine ⟨fun hidle => ⟨fun hdebt => ?_, fun b r rest hdebt ho => ?_⟩, fun b r rest hd hopen => ?_,
      fun b r rest hw hdebt ho hd hopen => ?_⟩
    · have h := hrun (col := false) rfl (PChan.nextCmd_refresh hidle hdebt) (by simp [PChan.presses, hdebt])
      rw [perform_refresh, hdebt] at h
      exact h
    · have h := hrun (col := false) rfl (PChan.nextCmd_rfm hidle hdebt (by simp [ho])) (by simp [PChan.presses, ho])
      rw [perform_rfm _ ho] at h
      exact h
    · have h := hrun (col := true) rfl (PChan.nextCmd_column hd hopen) (by simp [PChan.presses, hd])
      rw [perform_column _ hnext hd] at h
      exact h
    · have h := hrun (col := false) rfl (PChan.nextCmd_activate hd hw hdebt ho hopen) (by simp [PChan.presses, hd])
      rw [perform_activate _ hnext hd hw ho] at h
      exact h
  case gleaner =>
    intro cap at' due rd hup hgl hcap hdue hturn
    obtain ⟨h8, h12, hn, hdie⟩ := hup
    obtain ⟨hwrong, hmend, hclean⟩ := gleanerRead_due h8 h12 hn hdie hgl (cap := cap) rfl hcap hdue hturn
    exact ⟨fun hue => congrArg _ (hwrong hue), fun hue hce => congrArg _ (hmend hue hce), fun hue hce => congrArg _ (hclean hue hce)⟩
  case bandwidth =>
    intro t now gone
    exact ⟨fun k a ha hact h => congrArg _ (bandwidthUpdate_alone ha hact h), fun h => congrArg _ (bandwidthUpdate_early h)⟩

end

section
/-! SUPPORT. The order of a step (log entry 1), and the word that `withFetchWord` places (R43, R108). -/

namespace Sys2Proof.Machine

section
variable {s : State}

theorem step_detected (h : s.detected ≠ []) : step s = exec .instructionFault s := if_pos h

theorem step_issuing {fr : Firing} (hd : s.detected = []) (hi : s.issuing = some fr) : step s = runFiring s fr := by simp [step, hd, hi]

theorem step_idle (hd : s.detected = []) (hi : s.issuing = none) : step s = goOn s := by simp [step, hd, hi]

theorem runFiring_of_decode {fr : Firing} {b : Block} {w : Word} {i : Instr} (hb : s.blockOf fr = some b) (hw : b.words[fr.ix]? = some w)
    (hi : decode w = .ok i) : runFiring s fr = exec i s := by
  have hf : fetchWord s fr = some w := by rw [fetchWord, hb]; exact hw
  simp only [runFiring, hf, hi]

theorem goOn_happening {h : Happening} {rest : List Happening} (ha : s.agenda = h :: rest) :
    goOn s = if s.sw.powered then exec h.ev (s.happen h rest)
      else if h.ev = .deuriLinkTrain then exec h.ev { s with agenda := rest, arg := h.arg }
      else .next { s with agenda := rest } := by
  simp only [goOn, ha]

end

/-- The least key comes first, whatever stood in the table. -/
theorem AList.head?_set_zero {α : Type} (l : AList α) (x : α) : (AList.set l 0 x).head? = some (0, x) := by
  cases l with
  | nil => rfl
  | cons e l =>
    by_cases h : e.1 = 0
    · simp [AList.set, h]
    · simp [AList.set, h, Nat.pos_of_ne_zero h]

/-- The placed entry stands before every other of its tile, so the placed firing is of the placed block. -/
theorem State.blockOf_withFetchWord (s : State) (n w : Nat) : (s.withFetchWord n w).blockOf placedFiring = some (placedBlock w) := by
  obtain ⟨l, hl⟩ := List.head?_eq_some_iff.mp (AList.head?_set_zero (s.tile 0).entries { ctx := 0, blk := 0, block := placedBlock w })
  have ht : ((s.withFetchWord n w).tile 0).entries = (0, { ctx := 0, blk := 0, block := placedBlock w }) :: l := by
    rw [← hl]; simp [State.withFetchWord, State.tile, CTile.setFrame]
  simp [State.blockOf, placedFiring, CTile.entry, CTile.entryIx, ht]

end Sys2Proof.Machine

open Sys2Proof Sys2Proof.Machine

/-- Settles O55: each clause from the order of a step; the placed word by the block that its firing is of. -/
theorem stepRunsInstruction : Obligations.StepRunsInstruction := by
  intro s
  refine ⟨?issued, step_detected, ?agenda, ?placed⟩
  case issued =>
    intro fr b w i hd hi hb hw hdec
    rw [step_issuing hd hi, runFiring_of_decode hb hw hdec]
  case agenda =>
    intro h rest hd hi ha
    rw [step_idle hd hi, goOn_happening ha]
    exact ⟨fun hp => if_pos hp, fun hp ht => by rw [if_neg (by simp [hp]), if_pos ht], fun hp ht => by rw [if_neg (by simp [hp]), if_neg ht]⟩
  case placed =>
    intro n w i hdec
    rw [step_issuing (fr := placedFiring) rfl rfl, runFiring_of_decode (s.blockOf_withFetchWord n w) rfl hdec]

end

section
/-! SUPPORT. What a change of one frame leaves of its tile, and what the matrix array does with the messages sent to it (R35, R235). -/

namespace Sys2Proof.Machine

/-! ## A change of one frame leaves the rest of every tile (R28 to R30) -/

theorem State.tile_onFrame_only (s : State) (t fi : Nat) (g : Frame → Frame) (u : Nat) :
    (s.onFrame t fi g).tile u = { s.tile u with frames := ((s.onFrame t fi g).tile u).frames } := by
  unfold State.onFrame
  split
  · rfl
  · by_cases hu : u = t
    · subst hu; simp [CTile.setFrame]
    · simp [State.tile_onTile_other s _ hu]

theorem State.tile_uncount_only (s : State) (fr : Firing) (k : Cnt) (u : Nat) :
    (s.uncount fr k).tile u = { s.tile u with frames := ((s.uncount fr k).tile u).frames } := s.tile_onFrame_only _ _ _ u

@[simp] theorem State.tile_releaseAll (s : State) (die : Nat) (hs : List Word) (t : Nat) : (s.releaseAll die hs).tile t = s.tile t := by
  rw [releaseAll_only]; rfl

@[simp] theorem State.tile_raise (s : State) (fr : Firing) (e : Err) (t : Nat) : (s.raise fr e).tile t = s.tile t := rfl

/-! ## Sending (R35, R458) -/

theorem runMx_sends {s : State} {fr : Firing} (f : Fields) (h : s.issuing = some fr) : runMx f s = Spec.messages s fr f := by
  rw [runMx, withFiring_some _ h]; rfl

/-! ## Accepting (R235, R236) -/

/-- A message as the inbox takes it: its number, and the table and the mode that apply behind the messages ahead of it. -/
def MxMsg.numbered (g : MxMsg) (s : State) (t : Nat) : MxMsg :=
  { g with id := (s.tile t).mxseq + 1, table := tableAhead (s.tile t) (mxOp s), ecm := ecmAhead s (s.tile t) (mxOp s) g.firing.ctx }

/-- A tile that has taken a message from those in the way: MXOPc describes an operation of the array (R244). -/
def CTile.takeMx (c : CTile) (g : MxMsg) (rest : List MxMsg) (op : Nat) (r : MxRec) : CTile :=
  let c := { c with mxIn := rest, mxseq := c.mxseq + 1 }
  if isMm op || isAcc op then { c with mxop := AList.set c.mxop g.firing.ctx { r with id := g.id, ecm := (c.opRec g.firing.ctx).ecm } } else c

section
variable (c : CTile) (g : MxMsg) (rest : List MxMsg) (op : Nat) (r : MxRec)

@[simp] theorem CTile.takeMx_mxIn : (c.takeMx g rest op r).mxIn = rest := by unfold takeMx; dsimp only; split <;> rfl
@[simp] theorem CTile.takeMx_mxseq : (c.takeMx g rest op r).mxseq = c.mxseq + 1 := by unfold takeMx; dsimp only; split <;> rfl
@[simp] theorem CTile.takeMx_mxInbox : (c.takeMx g rest op r).mxInbox = c.mxInbox := by unfold takeMx; dsimp only; split <;> rfl
theorem CTile.takeMx_mxop (h : (isMm op || isAcc op) = true) :
    (c.takeMx g rest op r).mxop = AList.set c.mxop g.firing.ctx { r with id := g.id, ecm := (c.opRec g.firing.ctx).ecm } := by
  unfold takeMx; dsimp only; rw [if_pos h]; rfl

end

theorem isMm_or_isAcc {op : Nat} (h1 : 0x80 ≤ op) (h2 : op < 0x86) : (isMm op || isAcc op) = true := by
  simp only [isMm, isAcc, Bool.or_eq_true, Bool.and_eq_true, decide_eq_true_eq, beq_iff_eq]; omega

/-- The messages of a firing are given up: each releases its handles and counts no longer. -/
def dropMessages (s : State) (t : Nat) (gs : List MxMsg) : State :=
  gs.foldl (fun (s : State) x => (s.releaseAll (tileDie t) (laneHandles x.firing x.lane)).uncount x.firing .oto) s

theorem dropMessages_detected (s : State) (t : Nat) (gs : List MxMsg) : (dropMessages s t gs).detected = s.detected :=
  foldl_keeps (P := fun u : State => u.detected = s.detected) (fun u x h => by rw [State.uncount_only, State.releaseAll_only]; exact h) gs rfl

theorem tile_dropMessages_only (s : State) (t : Nat) (gs : List MxMsg) (u : Nat) :
    (dropMessages s t gs).tile u = { s.tile u with frames := ((dropMessages s t gs).tile u).frames } :=
  foldl_keeps (P := fun v : State => v.tile u = { s.tile u with frames := (v.tile u).frames })
    (fun v x h => by rw [State.tile_uncount_only, State.tile_releaseAll, h]) gs rfl

theorem dropMessages_mxIn (s : State) (t : Nat) (gs : List MxMsg) (u : Nat) : ((dropMessages s t gs).tile u).mxIn = (s.tile u).mxIn := by
  rw [tile_dropMessages_only]

theorem dropMessages_mxInbox (s : State) (t : Nat) (gs : List MxMsg) (u : Nat) :
    ((dropMessages s t gs).tile u).mxInbox = (s.tile u).mxInbox := by
  rw [tile_dropMessages_only]

section
variable {s : State} {t op : Nat} {f : Fields} {g : MxMsg} {rest : List MxMsg}
variable (hin : (s.tile t).mxIn = g :: rest) (hrun : (s.tile t).mxHalted = false) (hroom : (s.tile t).mxInbox.length < 2)
  (hback : backMsg s t = none) (hf : s.fieldsOf g.firing = some (op, f)) (hop : op ≠ 0xA1) (hbad : g.bad = none)

include hf hop in
/-- The message of an instruction other than CPYM keeps its count in OTO. -/
theorem takeCount_own : takeCount s g = s := by simp [takeCount, isFollowOn, hf, hop]

include hf hop in
theorem mxOp_own : mxOp s g = op := by simp [mxOp, hf, hop]

include hrun hroom in
theorem inbox_has_place : ((s.tile t).mxHalted || decide (2 ≤ (s.tile t).mxInbox.length)) = false := by
  simp only [hrun, Bool.false_or, decide_eq_false_iff_not]; omega

include hin hrun hroom hback hf hop hbad in
theorem engineAccept_enters (hc : mxCheck s t (g.numbered s t) op = none) :
    engineAccept s t = (s.onTile t fun c => c.takeMx (g.numbered s t) rest op { state := 1, steps := mxSteps s t (g.numbered s t) op }).onTile t
      fun c => { c with mxInbox := c.mxInbox ++ [g.numbered s t] } := by
  simp only [MxMsg.numbered, hbad] at hc ⊢
  simp only [engineAccept, inbox_has_place hrun hroom, hin, hback, mxOp_own hf hop, takeCount_own hf hop, hbad, hc, CTile.takeMx]
  cases isMm op || isAcc op <;> rfl

include hin hrun hroom hback hf hop hbad in
theorem engineAccept_refuses {e : Err} (hc : mxCheck s t (g.numbered s t) op = some e) :
    engineAccept s t = (dropMessages ((s.onTile t fun c => c.takeMx (g.numbered s t) rest op { state := 5, cause := e.cause }).onTile t
        fun c => { c with mxIn := c.mxIn.filter fun x => x.firing != g.firing })
      t (g.numbered s t :: rest.filter fun x => x.firing == g.firing)).raise g.firing { e with lane := g.lane } := by
  simp only [MxMsg.numbered, hbad] at hc ⊢
  simp only [engineAccept, inbox_has_place hrun hroom, hin, hback, mxOp_own hf hop, takeCount_own hf hop, hbad, hc, CTile.takeMx]
  cases isMm op || isAcc op <;> rfl

end

end Sys2Proof.Machine

open Sys2Proof Sys2Proof.Machine Sys2Proof.Spec

/-- Settles O34: an instruction of group 0x8 sends its messages, and the array accepts or refuses the oldest. -/
theorem matrixMessages : Obligations.MatrixMessages := by
  intro s
  refine ⟨?sends, ?accepts⟩
  case sends =>
    intro fr f hi i hmem
    have hexec : exec i s = .next (runMx f s) := by
      simp only [List.mem_cons, List.not_mem_nil, or_false] at hmem
      rcases hmem with rfl | rfl | rfl | rfl | rfl | rfl | rfl | rfl | rfl | rfl <;> rfl
    rw [hexec, runMx_sends f hi]
  case accepts =>
    intro t g rest op f harg hin hrun hroom hback hf hop g'
    have hexec : exec .engineMessageAccept s = .next (engineAccept s t) := by rw [← harg]; rfl
    rw [hexec]
    refine ⟨fun hbad hc => ⟨_, rfl, ?_⟩, fun e hbad hc => ⟨_, rfl, ?_⟩⟩
    · rw [engineAccept_enters hin hrun hroom hback hf hop hbad hc]
      simp only [State.tile_onTile, CTile.takeMx_mxIn, CTile.takeMx_mxInbox, CTile.takeMx_mxseq, true_and]
      refine ⟨rfl, fun h1 h2 => ?_⟩
      simp only [CTile.opRec, CTile.takeMx_mxop _ _ _ _ _ (isMm_or_isAcc h1 h2)]
      exact ⟨by simp [MxMsg.numbered], by simp [MxMsg.numbered, g'], by simp [MxMsg.numbered, g']⟩
    · rw [engineAccept_refuses hin hrun hroom hback hf hop hbad hc]
      refine ⟨?_, ?_, _, congrArg (· ++ [_]) (dropMessages_detected _ _ _), rfl, rfl⟩
      · rw [State.tile_raise, dropMessages_mxIn]
        simp
      · rw [State.tile_raise, dropMessages_mxInbox]
        simp

end

section
/-! Results of the lane unit (R105, R139, R140): a result that names a tile without its frame. -/

namespace Sys2Proof.Machine

/-- A token of a tile's own engines whose frame is not there is discarded and counted (R31, R105). -/
theorem State.deliverOwn_of_no_frame {s : State} {k : Token} (h : s.frame? k.dst k.fi = none) : s.deliverOwn k = s.discardCount k := by
  simp only [State.deliverOwn, h]

/-- A token for frame 0 of tile 1. -/
def strayToken : Token := { dst := 1, ctx := 0, fi := 0, blk := 0, ix := 0, port := 0, lb := 0, rl := 1, pay := .done }

/-- Tile 0 holds a LIVE frame 0 and that token as a result of its lane unit; tile 1 holds no frame. -/
def strayResult : State := { ct := [(0, { frames := [(0, placedFrame)], laneOut := [[strayToken]] })] }

/-- The result leaves the unit and is discarded at tile 1. -/
theorem exec_laneResultEmit_strayResult : exec .laneResultEmit strayResult =
    .next ((strayResult.onTile 0 fun c => { c with laneOut := [] }).discardCount strayToken) := by
  show Host.Outcome.next ((strayResult.onTile 0 fun c => { c with laneOut := [] }).deliverOwn strayToken) = _
  rw [State.deliverOwn_of_no_frame rfl]

end Sys2Proof.Machine

open Sys2Proof Sys2Proof.Machine

/-- Refutes O26: its clause on LANE_RESULT_EMIT asks for a LIVE frame at the tile whose lane unit emits, and says nothing of the tile that
the token names. The token of `strayResult` names a tile that holds no frame: it reaches no input there, but is discarded and counted. -/
theorem not_issueEvents : ¬ Obligations.IssueEvents := by
  intro h
  obtain ⟨-, -, -, hemit, -, -⟩ := h strayResult 0 rfl
  have hlive : ∀ k ∈ [strayToken], ∃ x, strayResult.frame? 0 k.fi = some x ∧ x.st = .live := by
    simp only [List.mem_singleton, forall_eq]
    exact ⟨placedFrame, rfl, rfl⟩
  have hdeliver := (hemit [strayToken] rfl).1 hlive
  rw [exec_laneResultEmit_strayResult] at hdeliver
  have hinputs := congrArg (fun u : State => (u.tile 1).inputs.length) (Host.Outcome.next.inj hdeliver)
  exact absurd hinputs (by decide)

end

section
/-! SUPPORT. Ready queues: a firing with room enters its queue (R34, R36). -/

namespace Sys2Proof.Machine

/-! ## The queues of a tile -/

@[simp] theorem CTile.queue_setQueue (c : CTile) (q : QId) (r : ReadyQ) : (c.setQueue q r).queue q = r := by cases q <;> rfl
@[simp] theorem CTile.setQueue_frames (c : CTile) (q : QId) (r : ReadyQ) : (c.setQueue q r).frames = c.frames := by cases q <;> rfl

/-! ## What a change of one frame, or a token that leaves the inputs, leaves of a tile -/

section
variable (s : State) (t fi : Nat) (g : Frame → Frame)

theorem State.onFrame_held (u : Nat) : ((s.onFrame t fi g).tile u).held = (s.tile u).held := by rw [tile_onFrame_only]
theorem State.onFrame_queue (u : Nat) (q : QId) : ((s.onFrame t fi g).tile u).queue q = (s.tile u).queue q := by
  rw [tile_onFrame_only]; cases q <;> rfl
theorem State.onFrame_fieldsOf (fr : Firing) : (s.onFrame t fi g).fieldsOf fr = s.fieldsOf fr := by
  rw [State.fieldsOf, State.blockOf, tile_onFrame_only]; rfl
theorem State.onFrame_clk : (s.onFrame t fi g).clk = s.clk := by rw [onFrame_only]

end

/-! ## A firing enters its queue (R34, R36) -/

section
variable {s : State} {fr : Firing} {op : Nat} {f : Fields}
variable (hheld : (s.tile fr.tile).held = []) (hf : s.fieldsOf fr = some (op, f)) (hch : isChained op f = false)
  (hroom : ((s.tile fr.tile).queue (queueOf fr op f)).ents.length < (queueOf fr op f).depth)

include hheld hf hch hroom in
theorem State.fire_eq_enqueue : s.fire fr = s.enqueue fr := by
  have hr : s.hasRoom fr = true := by simp only [State.hasRoom, hf, hch, Bool.false_and, Bool.false_eq_true, if_false, decide_eq_true hroom]
  simp [State.fire, hheld, hr]

include hf hch in
theorem State.enqueue_queue : (((s.enqueue fr).tile fr.tile).queue (queueOf fr op f)).ents
    = ((s.tile fr.tile).queue (queueOf fr op f)).ents ++ [(s.clk, fr)] := by
  simp only [State.enqueue, hf, hch, Bool.false_and, Bool.false_eq_true, if_false, tile_onTile, CTile.queue_setQueue]

include hf hch in
theorem State.enqueue_frame? (fi : Nat) : (s.enqueue fr).frame? fr.tile fi = s.frame? fr.tile fi := by
  simp only [State.frame?, State.enqueue, hf, hch, Bool.false_and, Bool.false_eq_true, if_false, tile_onTile, CTile.setQueue_frames]
  split <;> rfl

end

end Sys2Proof.Machine
end

section
/-! SUPPORT. Matching one lane of an arriving token (R25 to R27, R105). -/

namespace Sys2Proof.Machine

/-! ## One lane (R26) -/

theorem slotsOf_one {f : Fields} (h : f.ar = 1) : slotsOf f = [] := by simp [slotsOf, h]
theorem slotsOf_two {f : Fields} (h : f.ar = 2) : slotsOf f = [f.sl.toNat] := by simp [slotsOf, h]

theorem slotsOf_two_contains {f : Fields} (h : f.ar = 2) (n : Nat) : (slotsOf f).contains n = (n == f.sl.toNat) := by
  rw [slotsOf_two h, List.contains_cons, List.contains_nil, Bool.or_false]

theorem mem_slotsOf {f : Fields} {n : Nat} : n ∈ slotsOf f ↔ f.sl.toNat ≤ n ∧ n + 1 < f.sl.toNat + f.ar.toNat := by
  simp only [slotsOf, List.mem_map, List.mem_range]
  constructor
  · rintro ⟨i, hi, rfl⟩; omega
  · rintro ⟨h1, h2⟩; exact ⟨n - f.sl.toNat, by omega, by omega⟩

section
variable {f : Fields} {ix lane port : Nat} {ps : List Parked} {v : LVal}

/-- An operand of another instruction in the slots is a frame overrun, and so is one parked for the same port and lane. -/
theorem matchLane_overrun {p : Parked} (hp : p ∈ ps) (hs : p.slot ∈ slotsOf f) (h : p.owner ≠ ix ∨ p.lane = lane ∧ p.port = port) :
    matchLane f ix ps lane port v = .fault := by
  refine if_pos ?_
  simp only [Bool.or_eq_true, List.any_eq_true, List.mem_filter, bne_iff_ne, beq_iff_eq, List.contains_iff_mem]
  rcases h with ho | ⟨hl, ht⟩
  · exact .inl ⟨p, ⟨hp, hs⟩, ho⟩
  · exact .inr ⟨p, ⟨⟨hp, hs⟩, hl⟩, ht⟩

/-- With neither, the lane fires once every operand is there, and parks until then. -/
theorem matchLane_clear (hown : ∀ p ∈ ps, p.slot ∈ slotsOf f → p.owner = ix) {here : List Parked}
    (hhere : ps.filter (fun p => (slotsOf f).contains p.slot && p.lane == lane) = here) (hport : ∀ p ∈ here, p.port ≠ port) :
    matchLane f ix ps lane port v =
      if here.length + 1 = f.ar.toNat then
        .fire ((List.range f.ar.toNat).map fun p => if p = port then v else ((here.find? fun q => q.port == p).map (·.val)).getD .dn)
      else ((slotsOf f).find? fun j => !here.any fun p => p.slot == j).elim .fault .park := by
  have hfilter : (ps.filter fun p => (slotsOf f).contains p.slot).filter (fun p => p.lane == lane) = here := by
    rw [List.filter_filter, ← hhere]; simp only [Bool.and_comm]
  have hclear : ((ps.filter fun p => (slotsOf f).contains p.slot).any (fun p => p.owner != ix) || here.any fun p => p.port == port) = false := by
    simp only [Bool.or_eq_false_iff, List.any_eq_false, List.mem_filter, bne_iff_ne, beq_iff_eq, List.contains_iff_mem, ne_eq, Decidable.not_not]
    exact ⟨fun p hp => hown p hp.1 hp.2, hport⟩
  simp only [matchLane, hfilter, hclear, Bool.false_eq_true, if_false]
  cases (slotsOf f).find? fun j => !here.any fun p => p.slot == j <;> rfl

/-- One operand needs no other. -/
theorem matchLane_one (har : f.ar = 1) (hport : port = 0) : matchLane f ix ps lane port v = .fire [v] := by
  rw [matchLane_clear (here := []) (by simp [slotsOf_one har]) (by simp [slotsOf_one har]) (by simp)]
  simp [har, hport]

/-- The first of two operands parks in the slot. -/
theorem matchLane_first (har : f.ar = 2) (hp : ∀ p ∈ ps, p.slot = f.sl.toNat → p.owner = ix ∧ p.lane ≠ lane) :
    matchLane f ix ps lane port v = .park f.sl.toNat := by
  rw [matchLane_clear (here := []) (fun p h hs => (hp p h (by simpa [slotsOf_two har] using hs)).1)
    (by simpa [slotsOf_two har] using fun p h hs => (hp p h hs).2) (by simp)]
  simp [har, slotsOf_two har]

/-- The second of two operands fires with the first, in port order. -/
theorem matchLane_second {p : Parked} (har : f.ar = 2) (hown : ∀ q ∈ ps, q.slot = f.sl.toNat → q.owner = ix)
    (hp : ps.filter (fun q => q.slot == f.sl.toNat && q.lane == lane) = [p]) (hport : p.port + port = 1) :
    matchLane f ix ps lane port v = .fire (if port = 0 then [v, p.val] else [p.val, v]) := by
  rw [matchLane_clear (here := [p]) (fun q h hs => hown q h (by simpa [slotsOf_two har] using hs))
    (by simpa only [slotsOf_two_contains har] using hp) (by simp only [List.mem_singleton, forall_eq]; omega)]
  rcases (show port = 0 ∧ p.port = 1 ∨ port = 1 ∧ p.port = 0 by omega) with ⟨rfl, h⟩ | ⟨rfl, h⟩ <;> simp [har, h, List.range_succ]

end

end Sys2Proof.Machine
end

section
/-! TOKEN_ARRIVAL: a token of one lane (R25 to R27, R31, R105, R108). -/

namespace Sys2Proof.Machine

/-! ## A token that the tile may handle -/

/-- A token leaves the inputs of its tile, which takes no other in the same clk. -/
def State.takeInput (s : State) (t n : Nat) : State := s.onTile t fun c => { c with inputs := dropNth c.inputs n, took := s.clk + 1 }

section
variable (s : State) (t n : Nat)

theorem State.takeInput_held : ((s.takeInput t n).tile t).held = (s.tile t).held := by simp [State.takeInput]
theorem State.takeInput_queue (q : QId) : ((s.takeInput t n).tile t).queue q = (s.tile t).queue q := by
  rw [State.takeInput, tile_onTile]; cases q <;> rfl
theorem State.takeInput_entry (ctx blk : Nat) : ((s.takeInput t n).tile t).entry ctx blk = (s.tile t).entry ctx blk := by
  rw [State.takeInput, tile_onTile]; rfl
theorem State.takeInput_frame? (fi : Nat) : (s.takeInput t n).frame? t fi = s.frame? t fi := by
  rw [State.frame?, State.takeInput, tile_onTile]; rfl

end

theorem tokenArrival_arrives {s : State} {t n : Nat} {k : Token} (hk : (s.tile t).inputs[n]?.map (·.tok) = some k)
    (hnext : tokenNext s t n = true) (htook : (s.tile t).took ≤ s.clk) (hheld : (s.tile t).held = [])
    (hfrozen : s.frozenAt t k.ctx = false) (hdead : s.tileDead t = false) : tokenArrival s t n = arrive (s.takeInput t n) k := by
  obtain ⟨x, hx, rfl⟩ := Option.map_eq_some_iff.mp hk
  have hdead' : (s.takeInput t n).tileDead t = false := hdead
  have hgo : (s.frozenAt t x.tok.ctx || !tokenNext s t n || decide (s.clk < (s.tile t).took)) = false := by
    simp [hfrozen, hnext, htook]
  simp only [State.takeInput] at hdead' ⊢
  simp only [tokenArrival, hx, hheld, hgo, hdead', Bool.false_eq_true, if_false]

/-! ## At its entry and frame (R31, R105, R108) -/

section
variable {s : State} {k : Token} {e : Entry} {x : Frame}

theorem arrive_of_no_entry (h : (s.tile k.dst).entry k.ctx k.blk = none) : arrive s k = s.discardCount k := by simp only [arrive, h]

theorem arrive_of_not_live (he : (s.tile k.dst).entry k.ctx k.blk = some e) (h : ∀ x, s.frame? k.dst k.fi = some x → x.st ≠ .live) :
    arrive s k = s.discardCount k := by
  simp only [arrive, he]
  cases hx : s.frame? k.dst k.fi with
  | none => rfl
  | some x => simp [h x hx]

theorem arrive_matches (he : (s.tile k.dst).entry k.ctx k.blk = some e) (hx : s.frame? k.dst k.fi = some x) (hlive : x.st = .live)
    (hlink : k.link = false) : arrive s k = matchToken s k x e.block := by
  simp [arrive, he, hx, hlive, hlink]

end

/-! ## One lane (R26, R27) -/

section
variable {s : State} {k : Token} {x : Frame} {b : Block} {op : Nat} {f : Fields} {v : LVal}
variable (hf : b.fields? k.ix = some (op, f)) (hop : op ≠ 0x05) (hrl : k.rl = 1) (hv : k.pay.lanes 1 = [v]) (hopen : k.lb ∉ x.ended)

include hrl hv hopen in
theorem openLanes_one : openLanes x k = [(k.lb, v)] := by simp [openLanes, hrl, hv, hopen]

include hf hrl hv hopen in
theorem matchToken_fault (hm : matchLane f k.ix x.parked k.lb k.port v = .fault) :
    matchToken s k x b = (s.discard k).raiseAt k 0x09 0 := by
  simp [matchToken, hf, openLanes_one hrl hv hopen, matchLanes, hm]

include hf hop hrl hv hopen in
theorem matchToken_park {j : Nat} (hm : matchLane f k.ix x.parked k.lb k.port v = .park j) :
    matchToken s k x b = s.onFrame k.dst k.fi fun y => { y with
      parked := x.parked ++ [{ slot := j, lane := k.lb, port := k.port, owner := k.ix, val := v }] } := by
  simp [matchToken, hf, hop, openLanes_one hrl hv hopen, matchLanes, hm, firingsOf, rangesOf, State.fireAll]

/-- The firing of one lane of a token with its operands in port order. -/
def Token.firing (k : Token) (ops : List LVal) : Firing :=
  { tile := k.dst, ctx := k.ctx, fi := k.fi, blk := k.blk, ix := k.ix, lb := k.lb, rl := 1, ops := ops.map fun v => [v] }

theorem byPort_one (ops : List LVal) : byPort ops.length [ops] = ops.map fun v => [v] := by
  refine List.ext_getElem (by simp [byPort]) fun i h1 h2 => ?_
  have hi : i < ops.length := by simpa using h2
  simp [byPort, hi]

include hf hop hrl hv hopen in
theorem matchToken_fire {ops : List LVal} (hm : matchLane f k.ix x.parked k.lb k.port v = .fire ops) (hlen : ops.length = f.ar.toNat) :
    matchToken s k x b = (s.onFrame k.dst k.fi fun y => { y with
      parked := x.parked.filter fun p => !((slotsOf f).contains p.slot && p.lane == k.lb) }).fire (k.firing ops) := by
  simp [matchToken, hf, hop, openLanes_one hrl hv hopen, matchLanes, hm, firingsOf, rangesOf, State.fireAll, ← hlen, byPort_one, Token.firing]

end

/-! ## A token of one lane at its LIVE frame -/

section
variable {s : State} {k : Token} {e : Entry} {x : Frame} {op : Nat} {f : Fields} {v : LVal}

theorem State.fieldsOf_firing (he : (s.tile k.dst).entry k.ctx k.blk = some e) (hf : e.block.fields? k.ix = some (op, f)) (ops : List LVal) :
    s.fieldsOf (k.firing ops) = some (op, f) := by
  simp [State.fieldsOf, State.blockOf, Token.firing, he, hf]

variable (he : (s.tile k.dst).entry k.ctx k.blk = some e) (hx : s.frame? k.dst k.fi = some x) (hlive : x.st = .live) (hlink : k.link = false)
  (hf : e.block.fields? k.ix = some (op, f)) (hop : op ≠ 0x05) (hrl : k.rl = 1) (hv : k.pay.lanes 1 = [v]) (hopen : k.lb ∉ x.ended)

include he hx hlive hlink hf hrl hv hopen in
theorem arrive_overruns (hm : matchLane f k.ix x.parked k.lb k.port v = .fault) : arrive s k = (s.discard k).raiseAt k 0x09 0 := by
  rw [arrive_matches he hx hlive hlink, matchToken_fault hf hrl hv hopen hm]

include he hx hlive hlink hf hop hrl hv hopen in
theorem arrive_parks {j : Nat} (hm : matchLane f k.ix x.parked k.lb k.port v = .park j) :
    (∀ q, ((arrive s k).tile k.dst).queue q = (s.tile k.dst).queue q) ∧ ((arrive s k).frame? k.dst k.fi).map (·.parked)
      = some (x.parked ++ [{ slot := j, lane := k.lb, port := k.port, owner := k.ix, val := v }]) := by
  rw [arrive_matches he hx hlive hlink, matchToken_park hf hop hrl hv hopen hm]
  exact ⟨State.onFrame_queue _ _ _ _ _, by rw [State.frame?_onFrame, hx]; rfl⟩

include he hx hlive hlink hf hop hrl hv hopen in
theorem arrive_fires {ops : List LVal} (hm : matchLane f k.ix x.parked k.lb k.port v = .fire ops) (hlen : ops.length = f.ar.toNat)
    (hch : isChained op f = false) (hheld : (s.tile k.dst).held = [])
    (hroom : ((s.tile k.dst).queue (queueOf (k.firing ops) op f)).ents.length < (queueOf (k.firing ops) op f).depth) :
    (((arrive s k).tile k.dst).queue (queueOf (k.firing ops) op f)).ents
        = ((s.tile k.dst).queue (queueOf (k.firing ops) op f)).ents ++ [(s.clk, k.firing ops)]
      ∧ ((arrive s k).frame? k.dst k.fi).map (·.parked) = some (x.parked.filter fun p => !((slotsOf f).contains p.slot && p.lane == k.lb)) := by
  rw [arrive_matches he hx hlive hlink, matchToken_fire hf hop hrl hv hopen hm hlen]
  have hfield (g : Frame → Frame) : (s.onFrame k.dst k.fi g).fieldsOf (k.firing ops) = some (op, f) := by
    rw [State.onFrame_fieldsOf, State.fieldsOf_firing he hf]
  rw [State.fire_eq_enqueue (by rw [State.onFrame_held]; exact hheld) (hfield _) hch (by rw [State.onFrame_queue]; exact hroom)]
  refine ⟨(State.enqueue_queue (hfield _) hch).trans ?_, ?_⟩
  · rw [State.onFrame_queue, State.onFrame_clk]; rfl
  · refine (congrArg (Option.map (·.parked)) ((State.enqueue_frame? (hfield _) hch k.fi).trans (s.frame?_onFrame k.dst k.fi _))).trans ?_
    rw [hx]; rfl

end

end Sys2Proof.Machine

open Sys2Proof Sys2Proof.Machine

/-- Settles O25: the tile takes the token from its inputs, and each clause is what matching its one lane comes to. -/
theorem tokenMatching : Obligations.TokenMatching := by
  intro s k v e op f t s1 fr enters room harg hk hnext htook hheld hfrozen hdead
  have hexec : exec .tokenArrival s = .next (arrive s1 k) := by
    show Host.Outcome.next (tokenArrival s s.arg.tile s.arg.n) = _
    rw [harg, tokenArrival_arrives hk hnext htook hheld hfrozen hdead]; rfl
  have hentry : (s1.tile t).entry k.ctx k.blk = (s.tile t).entry k.ctx k.blk := s.takeInput_entry t _ _ _
  have hframe : s1.frame? t k.fi = s.frame? t k.fi := s.takeInput_frame? t _ _
  have hqueue (q : QId) : (s1.tile t).queue q = (s.tile t).queue q := s.takeInput_queue t _ q
  rw [hexec]
  refine ⟨fun h => congrArg _ (arrive_of_no_entry (hentry.trans h)), fun he => ?_⟩
  replace he := hentry.trans he
  refine ⟨fun h => congrArg _ (arrive_of_not_live he fun x hx => h x (hframe.symm.trans hx)), fun x hx hlive hlink hf hop hch hrl hv hopen => ?_⟩
  replace hx := hframe.trans hx
  have hfires {ops : List LVal} (hm : matchLane f k.ix x.parked k.lb k.port v = .fire ops) (hlen : ops.length = f.ar.toNat)
      (hroom : room (ops.map fun v => [v])) : enters (ops.map fun v => [v]) (arrive s1 k)
        ∧ ((arrive s1 k).frame? t k.fi).map (·.parked) = some (x.parked.filter fun p => !((slotsOf f).contains p.slot && p.lane == k.lb)) := by
    have h := arrive_fires he hx hlive hlink hf hop hrl hv hopen hm hlen hch ((s.takeInput_held t _).trans hheld) (by rw [hqueue]; exact hroom)
    rw [hqueue] at h
    exact h
  have hoverruns {p : Parked} (hp : p ∈ x.parked) (hs : p.slot ∈ slotsOf f) (h : p.owner ≠ k.ix ∨ p.lane = k.lb ∧ p.port = k.port) :
      Host.Outcome.next (arrive s1 k) = (.next ((s1.discard k).raiseAt k 0x09 0) : Host.Outcome State Fault Refusal) :=
    congrArg _ (arrive_overruns he hx hlive hlink hf hrl hv hopen (matchLane_overrun hp hs h))
  refine ⟨?one, ?first, ?second, ?owner, ?port⟩
  case one =>
    intro har hport hroom
    obtain ⟨hq, hp⟩ := hfires (matchLane_one har hport) (by simp [har]) hroom
    exact ⟨_, rfl, hq, hp.trans (congrArg some (List.filter_eq_self.mpr fun p _ => by rw [slotsOf_one har]; rfl))⟩
  case first =>
    intro har hp
    obtain ⟨hq, hp⟩ := arrive_parks he hx hlive hlink hf hop hrl hv hopen (matchLane_first har hp)
    exact ⟨_, rfl, fun q => (hq q).trans (hqueue q), hp⟩
  case second =>
    intro p har hown hp hport ops hroom
    have hops : ops = (if k.port = 0 then [v, p.val] else [p.val, v]).map fun v => [v] := by simp only [ops]; split <;> rfl
    rw [hops] at hroom ⊢
    obtain ⟨hq, hp⟩ := hfires (matchLane_second har hown hp hport) (by split <;> simp [har]) hroom
    simp only [slotsOf_two_contains har] at hp
    exact ⟨_, rfl, hq, hp⟩
  case owner => exact fun p hp har hs ho => hoverruns hp (by simp [slotsOf_two har, hs]) (.inl ho)
  case port => exact fun p hp h1 h2 hl ht => hoverruns hp (mem_slotsOf.mpr ⟨h1, h2⟩) (.inr ⟨hl, ht⟩)

end

section
/-! The matrix array takes the message at the head of its inbox (R231, R238, R243, R247 to R251). -/

namespace Sys2Proof.Machine

/-! ## Banks and records of a tile (R229, R244) -/

section
variable (c : CTile)

@[simp] theorem CTile.bank_setBank (b : Nat) (x : MxBank) : (c.setBank b x).bank b = x := by
  unfold CTile.setBank CTile.bank; split <;> rfl

@[simp] theorem CTile.setBank_mxRun (b : Nat) (x : MxBank) : (c.setBank b x).mxRun = c.mxRun := by
  unfold CTile.setBank; split <;> rfl

/-- A change of MXOPc changes nothing else of the tile. -/
theorem CTile.onRec_only (g : MxMsg) (h : MxRec → MxRec) : c.onRec g h = { c with mxop := (c.onRec g h).mxop } := by
  unfold CTile.onRec; split <;> rfl

end

/-! ## Beginning an operation (R231, R236, R238) -/

@[simp] theorem State.tile_forgetEarly (s : State) (o : Owner) (t : Nat) : (s.forgetEarly o).tile t = s.tile t := by
  unfold State.forgetEarly; split <;> rfl

/-- A tile whose banks `bs` a context has cleared to one value. -/
def CTile.claimAll (c : CTile) (ctx fill : Nat) (bs : List Nat) : CTile := bs.foldl (fun c b => c.setBank b (claim ctx fill)) c

@[simp] theorem CTile.claimAll_mxRun (c : CTile) (ctx fill : Nat) (bs : List Nat) : (c.claimAll ctx fill bs).mxRun = c.mxRun :=
  foldl_keeps (P := fun d : CTile => d.mxRun = c.mxRun) (fun d b h => (d.setBank_mxRun b _).trans h) bs rfl

section
variable (s : State) (t : Nat) (g : MxMsg) (op : Nat) (rest : List MxMsg)

/-- What an operation that begins leaves in its tile, its MXOPc aside. -/
theorem takeOp_tile : ∃ r, (takeOp s t g op rest).tile t =
    { (s.tile t).claimAll g.firing.ctx (mxIdentity op g.f.sub.toNat) (if isMm op then claims s g op else []) with
      mxInbox := rest, mxRun := (s.tile t).mxRun ++ [{ msg := g, steps := mxSteps s t g op }], mxop := r } := by
  rw [takeOp, State.tile_onTile, State.tile_forgetEarly]
  exact ⟨_, (CTile.onRec_only _ _ _).trans (by rw [← CTile.claimAll, CTile.claimAll_mxRun])⟩

theorem takeOp_mxInbox : ((takeOp s t g op rest).tile t).mxInbox = rest := by
  obtain ⟨r, h⟩ := takeOp_tile s t g op rest; rw [h]

theorem takeOp_mxRun : ((takeOp s t g op rest).tile t).mxRun = (s.tile t).mxRun ++ [{ msg := g, steps := mxSteps s t g op }] := by
  obtain ⟨r, h⟩ := takeOp_tile s t g op rest; rw [h]

end

section
variable {s : State} {t op : Nat} {g : MxMsg} {rest : List MxMsg}
variable (hmm : isMm op = true) (hclr : field (cmdWord s g op) 1 1 = 1)

include hmm hclr in
/-- CLR of MMAC clears both banks. -/
theorem takeOp_clears_both (hop : op = 0x82) :
    ((takeOp s t g op rest).tile t).acc0 = claim g.firing.ctx (mxIdentity op g.f.sub.toNat) ∧
      ((takeOp s t g op rest).tile t).acc1 = claim g.firing.ctx (mxIdentity op g.f.sub.toNat) := by
  obtain ⟨r, h⟩ := takeOp_tile s t g op rest
  have hboth : claims s g op = [0, 1] := by rw [claims, if_pos hmm, if_neg (by omega), if_pos hop]
  rw [h, if_pos hmm, hboth]
  exact ⟨rfl, rfl⟩

include hmm hclr in
/-- CLR of another product clears the bank that its command word names. -/
theorem takeOp_clears_bank (hop : op ≠ 0x82) :
    ((takeOp s t g op rest).tile t).bank (field (cmdWord s g op) 0 1) = claim g.firing.ctx (mxIdentity op g.f.sub.toNat) := by
  obtain ⟨r, h⟩ := takeOp_tile s t g op rest
  have hone : claims s g op = [field (cmdWord s g op) 0 1] := by rw [claims, if_pos hmm, if_neg (by omega), if_neg hop]
  rw [h, if_pos hmm, hone]
  exact CTile.bank_setBank _ _ _

end

/-! ## The message at the head -/

/-- The head of the inbox leaves it. -/
def State.popMx (s : State) (t : Nat) (rest : List MxMsg) : State := s.onTile t fun c => { c with mxInbox := rest }

/-- A message is done with its operands, and releases their handles (R122). -/
def State.dropMx (s : State) (t : Nat) (g : MxMsg) : State := s.releaseAll (tileDie t) (laneHandles g.firing g.lane)

/-- MODE of MMCFG is bit 0 of its word (R251). -/
theorem field_lowest (w : Word) : (field w 0 1 == 1) = w.getLsbD 0 := by
  rw [BitVec.getLsbD, Nat.testBit_zero, field, Nat.pow_zero, Nat.div_one, Nat.pow_one]; rfl

theorem isMm_iff {op : Nat} : isMm op = true ↔ 0x80 ≤ op ∧ op ≤ 0x83 := by
  simp only [isMm, Bool.and_eq_true, decide_eq_true_eq]

section
variable {s : State} {t op : Nat} {f : Fields} {g : MxMsg} {rest : List MxMsg}
variable (hin : (s.tile t).mxInbox = g :: rest) (hrun : (s.tile t).mxHalted = false) (hbad : g.bad = none)
  (hheld : heldByFreeze s t g op = false) (hf : s.fieldsOf g.firing = some (op, f))

include hin hrun hbad hheld hf

/-- A product begins once no operation has a k-step to feed. -/
theorem feedBegin_product (hmm : isMm op = true) (hlive : s.frozenAt t g.firing.ctx = false)
    (hfed : ∀ o ∈ (s.tile t).mxRun, o.steps ≤ o.prog) : feedBegin s t = takeOp s t g op rest := by
  have hany : ((s.tile t).mxRun.any fun o => decide (o.prog < o.steps)) = false := by simpa using hfed
  have hop : op ≠ 0xA1 := by have := isMm_iff.mp hmm; omega
  simp [feedBegin, hin, hrun, hbad, mxOp_own hf hop, hheld, hmm, hlive, hany]

/-- ACCLD and ACCST begin once no operation is left. -/
theorem feedBegin_transfer (hacc : op = 0x84 ∨ op = 0x85) (hlive : s.frozenAt t g.firing.ctx = false) (hnone : (s.tile t).mxRun = []) :
    feedBegin s t = takeOp s t g op rest := by
  have hkind : op ≠ 0xA1 ∧ isMm op = false ∧ isAcc op = true := by rcases hacc with rfl | rfl <;> decide
  obtain ⟨hop, hmm, hacc⟩ := hkind
  simp [feedBegin, hin, hrun, hbad, mxOp_own hf hop, hheld, hmm, hacc, hlive, hnone]

theorem feedBegin_cbset (hop : op = 0x86) (hfree : shadowBusy s (s.tile t) g = false) : feedBegin s t = takeCbset s t g rest := by
  subst hop
  simp [feedBegin, hin, hrun, hbad, mxOp_own hf (by decide), hheld, isMm, isAcc, hfree]

theorem feedBegin_cbswap (hop : op = 0x87) :
    feedBegin s t = Spec.messageEnds (((s.popMx t rest).onTile t fun c => { c with cur := 1 - c.cur }).dropMx t g) g none := by
  subst hop
  simp only [feedBegin, hin, hrun, hbad, mxOp_own hf (by decide), hheld]
  rfl

theorem feedBegin_mmprg (hop : op = 0x88) : feedBegin s t =
    (((s.popMx t rest).dropMx t g).emit1 g.firing g.f.d0 g.lane (.scal ((s.tile t).opRec g.firing.ctx).word)).uncount g.firing .oto := by
  subst hop
  simp only [feedBegin, hin, hrun, hbad, mxOp_own hf (by decide), hheld]
  rfl

theorem feedBegin_mmcfg (hop : op = 0x89) : feedBegin s t =
    Spec.messageEnds (((s.popMx t rest).onTile t fun c => { c with
      mxop := AList.set c.mxop g.firing.ctx { c.opRec g.firing.ctx with ecm := (cmdWord s g 0x89).getLsbD 0 } }).dropMx t g) g none := by
  subst hop
  simp only [feedBegin, hin, hrun, hbad, mxOp_own hf (by decide), hheld, field_lowest]
  rfl

omit hrun hbad hheld in
theorem cbsetWaitEnd_cbset (hop : op = 0x86) : cbsetWaitEnd s t = feedBegin s t := by
  subst hop
  simp only [cbsetWaitEnd, hin, mxOp_own hf (by decide), if_true]

end

end Sys2Proof.Machine

open Sys2Proof Sys2Proof.Machine

/-- Settles O35: the kind of the message at the head decides, and each kind has its own equation. -/
theorem matrixTakes : Obligations.MatrixTakes := by
  intro s t g rest op f c fr harg _ hin hrun hheld hbad hf _ pop drop cb
  have hexec : exec .matrixFeedBegin s = .next (feedBegin s t) := by rw [← harg]; rfl
  have hwait : exec .cbsetWaitEnd s = .next (cbsetWaitEnd s t) := by rw [← harg]; rfl
  rw [hexec, hwait]
  refine ⟨?operation, ?cbset, ?cbswap, ?mmprg, ?mmcfg⟩
  case operation =>
    intro hlive hkind
    have hbegin : feedBegin s t = takeOp s t g op rest := by
      rcases hkind with ⟨h1, h2, hfed⟩ | ⟨hacc, hnone⟩
      · exact feedBegin_product hin hrun hbad hheld hf (isMm_iff.mpr ⟨h1, h2⟩) hlive hfed
      · exact feedBegin_transfer hin hrun hbad hheld hf hacc hlive hnone
    refine ⟨_, congrArg _ hbegin, takeOp_mxInbox .., takeOp_mxRun .., ?_⟩
    intro h1 h2 hclr cleared
    have hmm := isMm_iff.mpr ⟨h1, h2⟩
    have hcleared : claim fr.ctx (mxIdentity op g.f.sub.toNat) = cleared := by
      simp only [claim, mxIdentity, cleared, BitVec.toNat_eq]; rfl
    rw [← hcleared]
    split
    next hop => exact takeOp_clears_both hmm hclr hop
    next hop => exact takeOp_clears_bank hmm hclr hop
  case cbset =>
    intro hop hfree
    have htake : feedBegin s t = cb := feedBegin_cbset hin hrun hbad hheld hf hop hfree
    exact ⟨congrArg _ htake, congrArg _ ((cbsetWaitEnd_cbset hin hf hop).trans htake)⟩
  case cbswap => exact fun hop => congrArg _ (feedBegin_cbswap hin hrun hbad hheld hf hop)
  case mmprg => exact fun hop => congrArg _ (feedBegin_mmprg hin hrun hbad hheld hf hop)
  case mmcfg => exact fun hop => congrArg _ (feedBegin_mmcfg hin hrun hbad hheld hf hop)

end
